-- ==== Sys2Proof/Word.lean ====
section
/-! DEFINITION. The word types of the machine (00 R10: little-endian, bit 0 least significant). -/
namespace Sys2Proof

/-- One byte of memory or of a check code. -/
abbrev Byte := BitVec 8
/-- A lane register, a memory word or an instruction word (R7, R50). -/
abbrev Word := BitVec 32
/-- A scalar register or an address (R146, R237). -/
abbrev DWord := BitVec 64
/-- A set of lanes, bit l for lane l (R146). -/
abbrev Mask := BitVec 32

end Sys2Proof
end

