-- ==== Sys2Proof/Syntax.lean ====
section
/-! DEFINITION. The instructions of Skovrok revision 3 and the steps of the device (opcode_table.json), one constructor for each row. -/
namespace Sys2Proof

/-- Integer conditions (R63). -/
inductive Cond where
  | eq | ne | lt | ge | le | gt | ltu | geu
  deriving DecidableEq, Repr
/-- F32 conditions (R63). -/
inductive FCond where
  | eq | ne | lt | le | gt | ge | un | ord
  deriving DecidableEq, Repr
/-- Memory orders (R62). -/
inductive MOrder where
  | rlx | acq | rel | ar
  deriving DecidableEq, Repr
/-- Scopes, narrowest to widest, and the remote-scope acquire (R62, R27). -/
inductive MScope where
  | none | grp | team | clus | die | dev | sys | rmt
  deriving DecidableEq, Repr
/-- Memory spaces (R62). -/
inductive Space where
  | gl | pv | sp | cl | ch
  deriving DecidableEq, Repr
/-- Access widths (R68). -/
inductive MWidth where
  | b | h | w | d
  deriving DecidableEq, Repr
/-- Atomic operations (R68, R382). -/
inductive AOp where
  | add | min | max | and | or | xor | exch | cas
  deriving DecidableEq, Repr
/-- Rounding modes (R15, R69). -/
inductive Rnd where
  | rne | rtz | rup | rdn
  deriving DecidableEq, Repr
/-- Element formats (R64). -/
inductive Fmt where
  | f32 | i32 | n32 | e4m3 | e5m2 | e2m1 | i8 | n8 | i4 | e8s | ne4 | ne5
  deriving DecidableEq, Repr
/-- Course families (R82). -/
inductive Fam where
  | ne4 | ne5
  deriving DecidableEq, Repr
/-- Modes of vshfl (R342). -/
inductive ShflMode where
  | idx | up | down | xor
  deriving DecidableEq, Repr
/-- Modes of vvote (R343). -/
inductive VoteMode where
  | any | all | ballot
  deriving DecidableEq, Repr
/-- Operations of vred (R344). -/
inductive RedOp where
  | add | min | max | minu | and | or | xor | fadd | fmin | fmax
  deriving DecidableEq, Repr
/-- The operations of major 0x0F (R326). For cmp the destination field is a flag. -/
inductive WideOp where
  | add | sub | mul | and | or | xor | min | max | minu | maxu | cmp (cc : Cond)
  deriving DecidableEq, Repr

/-- A lane destination that may be a register, a latch or a return queue (R24, R56, R57). The word
rules of R57 let a push carry a latch too, though the assembly form writes none. -/
inductive LDest where
  | v (n : Nat) (latch : Option Nat)
  | latch (k : Nat)
  | y (k : Nat) (latch : Option Nat)
  deriving DecidableEq, Repr
/-- A lane source selector (R58). -/
inductive LSrc where
  | v (n : Nat)
  | q (k : Nat)
  | b (k : Nat)
  | zero | lane | imm | sbc
  deriving DecidableEq, Repr
/-- The predicate field of a lane word (R60). -/
structure LPred where
  neg : Bool
  p : Nat
  deriving DecidableEq, Repr

/-- What the boot ROM of a die finds in its image (R415): whether each of the two signatures verifies, the image's security version, and
the die's fused counter. -/
structure BootImage where
  ecdsa : Bool
  lms : Bool
  version : Nat
  counter : Nat
  deriving DecidableEq, Repr

/-- What level S grants when it creates an owner (R113, R120): a frame is its type (R284) and machine frame number. -/
structure OwnerSpec where
  frames : List (Nat × Nat)
  reserve : Nat
  contexts : Nat
  walkBudget : Nat
  memBudget : Nat
  fabBudget : Nat
  copyBudget : Nat
  chipShare : Nat
  encrypted : Bool
  dies : Nat
  deriving DecidableEq, Repr

/-- The header and data of one request or reply on the fabric (R305), and the port it crosses. reserved holds the header's reserved bits, and its op where that is one
of the reserved ones. -/
structure FabricMsg where
  port : Nat
  source : Nat
  owner : Nat
  index : Nat
  offset : Nat
  width : MWidth
  aop : AOp
  tag : Nat
  unit : Nat
  status : Nat
  reserved : Nat
  words : List (Word × Byte)
  opB : DWord
  opC : DWord
  poisonBC : Bool
  deriving DecidableEq, Repr

/-- One member's contribution to, or the result of, a collective element, with its code on the canonical offset (R305 ops 6 and 7, R316, R318): the
port, the header's reserved bits (and a reserved op), the destination member's owner and communicator, the contributing member, the descriptor's bytes 0x00 to 0x0F, and, from a switch, whether an add saturated and
whether a check failed there; a status that is not 0 says that the peer refused it. -/
structure CollMsg where
  port : Nat
  reserved : Nat
  owner : Nat
  comm : Nat
  sequence : Nat
  member : Nat
  header : List Byte
  element : Nat
  word : Word
  code : Byte
  sat : Bool
  failed : Bool
  status : Nat
  deriving DecidableEq, Repr

/-- Level S's answer to a frame request (R297). -/
inductive GrowAnswer where
  | grant (frames : List Nat)
  | deny (reason : Nat)
  deriving DecidableEq, Repr

/-- One constructor for each row of the opcode table: the scalar words (R65 to R68), the lane
words (R69), and the steps of the device, its engines, level S and the host, which have no word. -/
inductive Instr where
  -- scalar ALU, register forms (R325)
  | add (d a b : Nat) | sub (d a b : Nat) | mul (d a b : Nat) | mulh (d a b : Nat)
  | div (d a b : Nat) | divu (d a b : Nat)
  | and (d a b : Nat) | or (d a b : Nat) | xor (d a b : Nat)
  | shl (d a b : Nat) | shr (d a b : Nat) | sar (d a b : Nat)
  | min (d a b : Nat) | max (d a b : Nat) | minu (d a b : Nat) | maxu (d a b : Nat)
  | mov (d a : Nat) | movY (d y : Nat) | clz (d a : Nat) | popc (d a : Nat)
  | extB (d a : Nat) | extH (d a : Nat) | extW (d a : Nat)
  | sel (d a b f : Nat) | cmp (cc : Cond) (f a b : Nat)
  -- immediate and extended forms (R326)
  | addImm (d a : Nat) (k : BitVec 13) | mulImm (d a : Nat) (k : BitVec 13)
  | andImm (d a : Nat) (k : BitVec 13) | orImm (d a : Nat) (k : BitVec 13)
  | xorImm (d a : Nat) (k : BitVec 13)
  | shlImm (d a k : Nat) | shrImm (d a k : Nat) | sarImm (d a k : Nat)
  | minImm (d a : Nat) (k : BitVec 13) | maxImm (d a : Nat) (k : BitVec 13)
  | minuImm (d a : Nat) (k : BitVec 13) | maxuImm (d a : Nat) (k : BitVec 13)
  | li (d : Nat) (k : BitVec 13) | cmpImm (cc : Cond) (f a : Nat) (k : BitVec 13)
  | aluWide (op : WideOp) (d a : Nat) (k : Word) | lih (d : Nat) (k : Word)
  -- control (R150)
  | br (disp : BitVec 21) | bc (f : Nat) (neg : Bool) (disp : BitVec 21) | call (disp : BitVec 21)
  | loop (d : Nat) (disp : BitVec 13) | lrun (m : Nat) (off : Word)
  -- scalar memory (R373, R376, R381, R300)
  | ldB (d a : Nat) (k : BitVec 13) | ldH (d a : Nat) (k : BitVec 13)
  | ldW (d a : Nat) (k : BitVec 13) | ldD (d a : Nat) (k : BitVec 13)
  | stB (d a : Nat) (k : BitVec 13) | stH (d a : Nat) (k : BitVec 13)
  | stW (d a : Nat) (k : BitVec 13) | stD (d a : Nat) (k : BitVec 13)
  | ldX (wd : MWidth) (o : MOrder) (sc : MScope) (ms : Space) (d a : Nat) (k : Word)
  | stX (wd : MWidth) (o : MOrder) (sc : MScope) (ms : Space) (d a : Nat) (k : Word)
  | amo (op : AOp) (wd : MWidth) (o : MOrder) (sc : MScope) (ms : Space) (d a b c : Nat) (k : BitVec 20)
  | ldq (q a : Nat) (k : BitVec 13)
  | ldk (d a : Nat) (k : BitVec 13) | stk (d a : Nat) (k : BitVec 13)
  | crd (d n : Nat) | cwr (n a : Nat) | trap (k : Nat)
  | rld (wd : MWidth) (d a : Nat) (k : Word) | rst (wd : MWidth) (d a : Nat) (k : Word)
  | ramo (op : AOp) (wd : MWidth) (d a b c : Nat) (k : BitVec 20)
  -- system, stream, mask, copy and synchronisation forms (R67)
  | nop | lsync | fence (o : MOrder) (sc : MScope) | commit | gexit | texit | cwait
  | ret (a : Nat) | tret | hret | pdone | replay | ostop (a : Nat)
  | tinv (a b : Nat) | fgrow (a b : Nat) | frel (a b : Nat) | ckinj (a b : Nat)
  | pair | launch (a : Nat) | spawn (d a b : Nat) | qpost (d a b : Nat) | waitk (a : Nat)
  | coll (d a : Nat) | pset (a b : Nat) | fxfer (a b : Nat)
  | aset (n a b : Nat) | astep (n a : Nat) | aload (q n : Nat)
  | mset (m a : Nat) | mand (m i j : Nat) | mor (m i j : Nat) | mxor (m i j : Nat)
  | mnot (m i : Nat) | mcnt (d m : Nat) | mfirst (d m : Nat)
  | cpy (d a b : Nat) | cpy2 (d a b : Nat) | cpy3 (d a b : Nat)
  | bclose (d : Nat) | waitb (a : Nat)
  | barinit (a b : Nat) | arrive (a b : Nat) | bwait (a : Nat) | arrivew (a b : Nat)
  | bmin (k a b : Nat) | bread (d k : Nat) | vwait (d a b : Nat) | vwake (d a b : Nat)
  | dqpush (f a b : Nat) | dqpop (d a f : Nat) | dqsteal (d a f : Nat)
  -- lane words (R69)
  | vadd (d : LDest) (a b : LSrc) (p : LPred) (imm : Word)
  | vsub (d : LDest) (a b : LSrc) (p : LPred) (imm : Word)
  | vmul (d : LDest) (a b : LSrc) (p : LPred) (imm : Word)
  | vmulh (uns : Bool) (d : LDest) (a b : LSrc) (p : LPred) (imm : Word)
  | vmad (d : LDest) (a b c : LSrc) (p : LPred) (imm : Word)
  | vmin (uns : Bool) (d : LDest) (a b : LSrc) (p : LPred) (imm : Word)
  | vmax (uns : Bool) (d : LDest) (a b : LSrc) (p : LPred) (imm : Word)
  | vand (d : LDest) (a b : LSrc) (p : LPred) (imm : Word)
  | vor (d : LDest) (a b : LSrc) (p : LPred) (imm : Word)
  | vxor (d : LDest) (a b : LSrc) (p : LPred) (imm : Word)
  | vnot (d : LDest) (a : LSrc) (p : LPred) (imm : Word)
  | vshl (d : LDest) (a b : LSrc) (p : LPred) (imm : Word)
  | vshr (d : LDest) (a b : LSrc) (p : LPred) (imm : Word)
  | vsar (d : LDest) (a b : LSrc) (p : LPred) (imm : Word)
  | vpopc (d : LDest) (a : LSrc) (p : LPred) (imm : Word)
  | vclz (d : LDest) (a : LSrc) (p : LPred) (imm : Word)
  | vcmp (cc : Cond) (d : Nat) (a b : LSrc) (p : LPred) (imm : Word)
  | vsel (neg : Bool) (k : Nat) (d : LDest) (a b : LSrc) (p : LPred) (imm : Word)
  | vmov (d : LDest) (a : LSrc) (p : LPred) (imm : Word)
  | vfadd (r : Rnd) (d : LDest) (a b : LSrc) (p : LPred) (imm : Word)
  | vfsub (r : Rnd) (d : LDest) (a b : LSrc) (p : LPred) (imm : Word)
  | vfmul (r : Rnd) (d : LDest) (a b : LSrc) (p : LPred) (imm : Word)
  | vffma (r : Rnd) (d : LDest) (a b c : LSrc) (p : LPred) (imm : Word)
  | vfmin (d : LDest) (a b : LSrc) (p : LPred) (imm : Word)
  | vfmax (d : LDest) (a b : LSrc) (p : LPred) (imm : Word)
  | vfcmp (cc : FCond) (d : Nat) (a b : LSrc) (p : LPred) (imm : Word)
  | vfrcp (d : LDest) (a : LSrc) (p : LPred) (imm : Word)
  | vfrsq (d : LDest) (a : LSrc) (p : LPred) (imm : Word)
  | vfsqrt (r : Rnd) (d : LDest) (a : LSrc) (p : LPred) (imm : Word)
  | vfex2 (d : LDest) (a : LSrc) (p : LPred) (imm : Word)
  | vflg2 (d : LDest) (a : LSrc) (p : LPred) (imm : Word)
  | vfsin (d : LDest) (a : LSrc) (p : LPred) (imm : Word)
  | vfcos (d : LDest) (a : LSrc) (p : LPred) (imm : Word)
  | vcvt (tf frm : Fmt) (r : Rnd) (d : LDest) (a : LSrc) (e : Nat) (p : LPred)
  | vdot4 (f : Fmt) (d : LDest) (a b c : LSrc) (p : LPred) (imm : Word)
  | vdot8 (f : Fmt) (d : LDest) (a b c : LSrc) (p : LPred) (imm : Word)
  | vscacc (d : LDest) (a b c : LSrc) (abyte bbyte blane : Nat) (p : LPred)
  | vshfl (mode : ShflMode) (d : LDest) (a b : LSrc) (p : LPred) (imm : Word)
  /-- For any and all the destination is the predicate of LDest.v n none, n from 1 to 7 (R343). -/
  | vvote (mode : VoteMode) (d : LDest) (a : LSrc) (p : LPred) (imm : Word)
  | vred (op : RedOp) (d : LDest) (a : LSrc) (p : LPred) (imm : Word)
  | vscan (d : LDest) (a : LSrc) (p : LPred) (imm : Word)
  | vbr (p : LPred) (target join : BitVec 16)
  | vjoin (p : LPred) (target : BitVec 16)
  | vend
  | vld (wd : MWidth) (sx : Bool) (o : MOrder) (sc : MScope) (ms : Space) (d : LDest) (a : Nat) (p : LPred) (k : Word)
  | vst (wd : MWidth) (o : MOrder) (sc : MScope) (ms : Space) (a : Nat) (b : LSrc) (p : LPred) (k : Word)
  | vamo (op : AOp) (o : MOrder) (sc : MScope) (ms : Space) (d : LDest) (a : Nat) (b c : LSrc) (p : LPred) (k : Word)
  | vldc (fam : Fam) (n : Nat) (rn : Bool) (ms : Space) (d : LDest) (a : Nat) (p : LPred) (k : Word)
  | vstc (fam : Fam) (n : Nat) (ms : Space) (a b : Nat) (p : LPred) (k : Word)
  | vcupd (fam : Fam) (ms : Space) (a b : Nat) (p : LPred) (k : Word)
  | vmma (fa fb : Fmt) (d a b : Nat) (p : LPred)
  | vmmas (fa fb : Fmt) (d sA sDA sB sDB : Nat) (p : LPred)
  | vmmap (fa fb : Fmt) (d a b : Nat) (p : LPred)
  | vptest (d : Nat) (a : LSrc) (p : LPred) (imm : Word)
  | vpoison (d : LDest) (a : LSrc) (p : LPred) (imm : Word)
  -- steps of groups, cores and engines
  | laneBlockStart (g : Nat) | activeSetFill (core : Nat) | pathRotation (g : Nat)
  | preemptBudgetExpiry (g : Nat) | pairTimeout (g : Nat) | vmmapTimeout (g : Nat)
  | matrixComplete (m : Nat) | mirrorPush (n : Nat) | checkRetry (g : Nat)
  | walk (o : Nat) (va : DWord) (kind : Nat) (lvl : Nat)
  | walkCycleLimit (o : Nat) (va : DWord)
  | parkSlotAcquired (g : Nat) | engineFaultDelivery (g : Nat) | copyChunk (c : Nat)
  | collectiveTimeout (c : Nat)
  -- admission, placement, slices, owners
  | takeLaunchRecord (die : Nat) | kernelPlacementCheck (k : Nat)
  | placeTeamSet (k die clus : Nat) (cores : List Nat)
  | sliceStart (o : Nat) | sliceEnd (o : Nat)
  | ownerCreate (o : Nat) (spec : OwnerSpec) | stopSequenceComplete (o : Nat)
  | vreqActivate (o : Nat) | vreqStop (o : Nat) | vreqResume (o : Nat) | vreqTeardown (o : Nat)
  | qbind (o : Nat) (desc : DWord) (q : Nat) | queueUnbind (q : Nat)
  | communicatorSetup (o : Nat) (desc : DWord) (contexts : Nat)
  | communicatorDelete (o : Nat) (desc : DWord)
  | exportRequest (o : Nat) (desc : DWord) (first : Nat) | importRequest (o : Nat) (desc : DWord)
  | revokeRequest (o : Nat) (desc : DWord)
  | wsetup (o : Nat) (desc : DWord) | walkSetupLoaded (o : Nat)
  | voctxWrite (o i : Nat) (v : DWord) | vfRegisterWrite (o off : Nat) (v : DWord)
  | hostWrite (o : Nat) (va : DWord) (wd : MWidth) (v : DWord)
  | hostRead (o : Nat) (va : DWord) (wd : MWidth)
  | hostAtomic (o : Nat) (va : DWord) (op : AOp) (wd : MWidth) (b c : DWord)
  -- the fabric and collectives
  | fabricRead (m : FabricMsg) | fabricWrite (m : FabricMsg) | fabricAtomic (m : FabricMsg)
  | readReply (m : FabricMsg) | writeAcknowledgement (m : FabricMsg) | atomicReply (m : FabricMsg)
  | collectiveContribution (m : CollMsg) | collectiveResult (m : CollMsg)
  | portTrain (die n : Nat) | portDown (die n : Nat) | bothLanesLock (die n : Nat)
  | oneLaneLocks (die n : Nat) | portTrainingTimeout (die n : Nat) | laneLost (die n : Nat)
  | flitGroupRetry (die n : Nat) | fabricPathLost (die n : Nat)
  -- level S, partitions, reliability
  | fgrowAnswer (o : Nat) (ans : GrowAnswer)
  | frameMoveStart (o ofi target : Nat) (retire : Bool) | lineCopyComplete (mv line : Nat)
  | scrubComplete (frame : Nat)
  | partitionMerge (die : Nat) | partitionSplit (die : Nat) (forced : Bool)
  | quiesceComplete (die : Nat) | quiesceTimeout (die : Nat)
  | servicePairHalt (die : Nat) | timingReplay (core : Nat)
  | packageReset (strap : Nat) (images : List BootImage)
  -- the driver and the host
  | bundleLoad (o : Nat) (bundle : List Byte) (scode lcode data course kdesc : Nat)
  | portableFinalise (o : Nat) (bundle : List Byte)
  | hostSnoop (addr : Nat) (invalidate : Bool)
  | matrixStart (m : Nat)
  -- the steps without operands stand last
  | budgetWindowStart | heartbeat | takeover | powerLimit
  deriving DecidableEq, Repr

end Sys2Proof
end

