-- ==== Sys2Proof/WellFormed.lean ====
section
/-! DEFINITION. Which instructions have a word: the operand limits of R51 to R70, one check for each operand kind. -/
namespace Sys2Proof.WF

/-- A scalar register number (R51). -/
def s (n : Nat) : Bool := decide (n < 64)
/-- A flag, mask, queue, stream, predicate or mirror-slot number (R51). -/
def o (n : Nat) : Bool := decide (n < 8)
/-- A mask that may be written: m0 may not (R51). -/
def m (n : Nat) : Bool := decide (0 < n) && decide (n < 8)
/-- A lane register number (R58). -/
def v (n : Nat) : Bool := decide (n < 192)
/-- A predicate that may be written: p0 may not (R56). -/
def p (n : Nat) : Bool := decide (0 < n) && decide (n < 8)
/-- A lane destination (R56, R57). -/
def dst : LDest → Bool
  | .v n none => v n
  | .v n (some k) => v n && decide (k < 4)
  | .latch k => decide (k < 4)
  | .y k none => decide (k < 2)
  | .y k (some j) => decide (k < 2) && decide (j < 4)
/-- A source selector (R58). -/
def src : LSrc → Bool
  | .v n => v n
  | .q k => decide (k < 8)
  | .b k => decide (k < 4)
  | .zero => true
  | .lane => true
  | .imm => true
  | .sbc => true
/-- A source selector of an instruction that keeps the immediate field for itself (R58). -/
def srcOwn (a : LSrc) : Bool := src a && !(a == .imm) && !(a == .sbc)
/-- A predicate field: (!p0) is illegal (R60). -/
def pred (q : LPred) : Bool := decide (q.p < 8) && !(q.neg && decide (q.p = 0))
/-- The sources and the immediate field of an instruction whose immediate serves selectors 206 and 207:
not both, with 207 the bits above [5:0] are zero, and with neither the field is unused and zero (R58, R74). -/
def srcs (l : List LSrc) (imm : Word) : Bool :=
  l.all src && !(l.contains .imm && l.contains .sbc) && (!(l.contains .sbc) || decide (imm.toNat < 64)) &&
    (l.contains .imm || l.contains .sbc || imm == 0)
/-- Order and scope of a load, a store or an atomic (R62). -/
def loadOrd : MOrder → MScope → Bool
  | .rlx, .none => true
  | .rlx, _ => false
  | .acq, .none => false
  | .acq, _ => true
  | .rel, _ => false
  | .ar, _ => false
def storeOrd : MOrder → MScope → Bool
  | .rlx, .none => true
  | .rlx, _ => false
  | .rel, .none => false
  | .rel, .rmt => false
  | .rel, _ => true
  | .acq, _ => false
  | .ar, _ => false
def amoOrd : MOrder → MScope → Bool
  | .rlx, .none => true
  | .rlx, _ => false
  | _, .none => false
  | .rel, .rmt => false
  | .rel, _ => true
  | .acq, _ => true
  | .ar, _ => true
def fenceOrd : MOrder → MScope → Bool
  | .rlx, _ => false
  | _, .none => false
  | _, .rmt => false
  | .acq, _ => true
  | .rel, _ => true
  | .ar, _ => true
/-- A space of a scalar access: never .pv (R62). -/
def scalarSpace (x : Space) : Bool := !(x == .pv)
/-- .pv takes relaxed accesses only (R62). -/
def laneSpace (x : Space) (o : MOrder) : Bool := !(x == .pv) || (o == .rlx)
/-- The address register of a lane access: in .gl even (R70). -/
def addr (x : Space) (a : Nat) : Bool := v a && (!(x == .gl) || decide (a % 2 = 0))
/-- Register c of an atomic: zero but for cas (R68). -/
def opC (op : AOp) (c : Nat) : Bool := s c && (op == .cas || decide (c = 0))
/-- How many elements of a format 32 bits hold (R70). -/
def elements : Fmt → Nat
  | .e4m3 => 4 | .e5m2 => 4 | .i8 => 4 | .n8 => 4 | .e8s => 4
  | .e2m1 => 8 | .i4 => 8
  | .f32 => 1 | .i32 => 1 | .n32 => 1 | .ne4 => 1 | .ne5 => 1
def isCourse (f : Fmt) : Bool := f == .ne4 || f == .ne5
/-- The two formats of a conversion: exactly one is F32, none is a course format (R70). -/
def cvt (t f : Fmt) : Bool := ((t == .f32) != (f == .f32)) && !isCourse t && !isCourse f
/-- The class of a matrix operand format: 8-bit, 4-bit, 16-bit course, or none (R70). -/
def matClass : Fmt → Nat
  | .e4m3 => 1 | .e5m2 => 1 | .i8 => 1 | .n8 => 1
  | .e2m1 => 2 | .i4 => 2
  | .ne4 => 3 | .ne5 => 3
  | .f32 => 0 | .i32 => 0 | .n32 => 0 | .e8s => 0
def mat (fa fb : Fmt) : Bool := decide (matClass fa ≠ 0) && decide (matClass fa = matClass fb)
/-- Assigned control register numbers (R122, R405). -/
def creg (n : Nat) : Bool :=
  decide (n ≤ 7) || (decide (0x10 ≤ n) && decide (n ≤ 0x16)) || (decide (0x18 ≤ n) && decide (n ≤ 0x1E))
  || (decide (0x100 ≤ n) && decide (n ≤ 0x104)) || (decide (0x108 ≤ n) && decide (n ≤ 0x113))
  || (decide (0x200 ≤ n) && decide (n ≤ 0x213)) || decide (n = 0x218)
  || (decide (0x220 ≤ n) && decide (n ≤ 0x22F)) || decide (n = 0x240) || decide (n = 0x241)
  || (decide (0x280 ≤ n) && decide (n ≤ 0x288)) || (decide (0x300 ≤ n) && decide (n ≤ 0x3FF))

end Sys2Proof.WF

namespace Sys2Proof
open WF

/-- The instruction has a word, and the word is legal (R51 to R70). A step of the device has no
word: its operands are well formed as they stand. -/
def WellFormed : Instr → Bool
  | .add d a b | .sub d a b | .mul d a b | .mulh d a b | .div d a b | .divu d a b
  | .and d a b | .or d a b | .xor d a b | .shl d a b | .shr d a b | .sar d a b
  | .min d a b | .max d a b | .minu d a b | .maxu d a b => s d && s a && s b
  | .mov d a | .clz d a | .popc d a | .extB d a | .extH d a | .extW d a => s d && s a
  | .movY d y => s d && decide (y < 2)
  | .sel d a b f => s d && s a && s b && o f
  | .cmp _ f a b => o f && s a && s b
  | .addImm d a _ | .mulImm d a _ | .andImm d a _ | .orImm d a _ | .xorImm d a _
  | .minImm d a _ | .maxImm d a _ | .minuImm d a _ | .maxuImm d a _ => s d && s a
  | .shlImm d a k | .shrImm d a k | .sarImm d a k => s d && s a && s k
  | .li d _ => s d
  | .cmpImm _ f a _ => o f && s a
  | .aluWide (.cmp _) d a _ => o d && s a
  | .aluWide _ d a _ => s d && s a
  | .lih d _ => s d
  | .br _ => true
  | .bc f _ _ => o f
  | .call _ => true
  | .loop d _ => s d
  | .lrun k off => o k && decide (off.toNat % 16 = 0)
  | .ldB d a _ | .ldH d a _ | .ldW d a _ | .ldD d a _
  | .stB d a _ | .stH d a _ | .stW d a _ | .stD d a _ => s d && s a
  | .ldX _ q sc x d a _ => loadOrd q sc && scalarSpace x && s d && s a
  | .stX _ q sc x d a _ => storeOrd q sc && scalarSpace x && s d && s a
  | .amo op wd q sc x d a b c _ =>
    amoOrd q sc && scalarSpace x && (wd == .w || wd == .d) && s d && s a && s b && opC op c
  | .ldq q a _ => o q && s a
  | .ldk d a _ | .stk d a _ => s d && s a
  | .crd d n => s d && creg n
  | .cwr n a => creg n && s a
  | .trap k => decide (k < 4096)
  | .rld _ d a _ | .rst _ d a _ => s d && s a
  | .ramo op wd d a b c _ => (wd == .w || wd == .d) && s d && s a && s b && opC op c
  | .nop | .lsync | .commit | .gexit | .texit | .cwait | .tret | .hret | .pdone | .replay | .pair => true
  | .fence q sc => fenceOrd q sc
  | .ret a | .ostop a | .launch a | .waitk a | .waitb a | .bwait a => s a
  | .tinv a b | .fgrow a b | .frel a b | .ckinj a b | .pset a b | .fxfer a b
  | .barinit a b | .arrive a b | .arrivew a b => s a && s b
  | .spawn d a b => s d && s a && decide (b ≤ 56)
  | .qpost d a b | .cpy d a b | .cpy2 d a b | .cpy3 d a b | .vwait d a b | .vwake d a b => s d && s a && s b
  | .coll d a => s d && s a
  | .bclose d => s d
  | .aset n a b => o n && s a && s b
  | .astep n a => o n && s a
  | .aload q n => o q && o n
  | .mset k a => m k && s a
  | .mand k i j | .mor k i j | .mxor k i j => m k && o i && o j
  | .mnot k i => m k && o i
  | .mcnt d k | .mfirst d k => s d && o k
  | .bmin k a b => o k && s a && s b
  | .bread d k => s d && o k
  | .dqpush f a b => o f && s a && s b && decide (b % 2 = 0)
  | .dqpop d a f | .dqsteal d a f => s d && s a && o f && decide (d % 2 = 0) && decide (2 ≤ d)
  | .vadd d a b q i | .vsub d a b q i | .vmul d a b q i | .vand d a b q i | .vor d a b q i
  | .vxor d a b q i | .vshl d a b q i | .vshr d a b q i | .vsar d a b q i
  | .vfmin d a b q i | .vfmax d a b q i => dst d && srcs [a, b] i && pred q
  | .vmulh _ d a b q i | .vmin _ d a b q i | .vmax _ d a b q i => dst d && srcs [a, b] i && pred q
  | .vmad d a b c q i => dst d && srcs [a, b, c] i && pred q
  | .vnot d a q i | .vpopc d a q i | .vclz d a q i | .vmov d a q i | .vfrcp d a q i | .vfrsq d a q i
  | .vfex2 d a q i | .vflg2 d a q i | .vfsin d a q i | .vfcos d a q i | .vscan d a q i
  | .vpoison d a q i => dst d && srcs [a] i && pred q
  | .vcmp _ d a b q i | .vfcmp _ d a b q i => p d && srcs [a, b] i && pred q
  | .vsel _ k d a b q i => o k && dst d && srcs [a, b] i && pred q
  | .vfadd _ d a b q i | .vfsub _ d a b q i | .vfmul _ d a b q i => dst d && srcs [a, b] i && pred q
  | .vffma _ d a b c q i => dst d && srcs [a, b, c] i && pred q
  | .vfsqrt _ d a q i | .vred _ d a q i => dst d && srcs [a] i && pred q
  | .vcvt t f _ d a e q => cvt t f && dst d && srcOwn a && pred q
      && decide (e < elements (if t == .f32 then f else t))
  | .vdot4 f d a b c q i => (f == .e4m3 || f == .e5m2 || f == .i8) && dst d && srcs [a, b, c] i && pred q
  | .vdot8 f d a b c q i => (f == .e2m1 || f == .i4) && dst d && srcs [a, b, c] i && pred q
  | .vscacc d a b c x y l q => dst d && srcOwn a && srcOwn b && srcOwn c && decide (x < 4)
      && decide (y < 4) && decide (l < 32) && pred q
  | .vshfl _ d a b q i => dst d && srcs [a, b] i && pred q
  | .vvote .ballot d a q i => dst d && srcs [a] i && pred q
  | .vvote _ (.v n none) a q i => p n && srcs [a] i && pred q
  | .vvote _ _ _ _ _ => false
  | .vbr q _ j => pred q && (decide (q.p ≠ 0) || decide (j = 0))
  | .vjoin q _ => pred q
  | .vend => true
  | .vld wd sx q sc x d a pr _ => loadOrd q sc && laneSpace x q && !(wd == .d) && !(sx && wd == .w)
      && dst d && addr x a && pred pr
  | .vst wd q sc x a b pr _ => storeOrd q sc && laneSpace x q && !(wd == .d) && addr x a && srcOwn b && pred pr
  | .vamo op q sc x d a b c pr _ => amoOrd q sc && laneSpace x q && dst d && addr x a && srcOwn b
      && srcOwn c && (op == .cas || c == .zero) && pred pr
  | .vldc _ n rn x d a pr _ => decide (1 ≤ n) && decide (n ≤ 4) && !(rn && decide (n = 4)) && scalarSpace x
      && addr x a && pred pr && (match d with
        | .v k none => v k && decide (k + n ≤ 192)
        | .v _ (some _) => dst d && decide (n = 1)
        | .latch _ => dst d && decide (n = 1)
        | .y _ _ => dst d && decide (n = 1))
  | .vstc _ n x a b pr _ => decide (1 ≤ n) && decide (n ≤ 4) && scalarSpace x && addr x a && decide (b + n ≤ 192) && pred pr
  | .vcupd _ x a b pr _ => scalarSpace x && addr x a && decide (b + 4 ≤ 192) && pred pr
  | .vmma fa fb d a b q | .vmmap fa fb d a b q =>
    mat fa fb && v d && decide (d % 32 = 0) && decide (a + 16 ≤ 192) && decide (b + 16 ≤ 192) && pred q
  | .vmmas fa fb d x y z t q => mat fa fb && v d && decide (d % 32 = 0) && s x && s y && s z && s t && pred q
  | .vptest d a q i => p d && srcs [a] i && pred q
  | .laneBlockStart _ | .activeSetFill _ | .pathRotation _ | .preemptBudgetExpiry _ | .pairTimeout _
  | .vmmapTimeout _ | .matrixComplete _ | .mirrorPush _ | .checkRetry _ | .walk _ _ _ _
  | .walkCycleLimit _ _ | .parkSlotAcquired _ | .engineFaultDelivery _ | .copyChunk _
  | .collectiveTimeout _ | .budgetWindowStart | .takeLaunchRecord _ | .kernelPlacementCheck _
  | .placeTeamSet _ _ _ _ | .sliceStart _ | .sliceEnd _ | .ownerCreate _ _ | .stopSequenceComplete _
  | .vreqActivate _ | .vreqStop _ | .vreqResume _ | .vreqTeardown _ | .qbind _ _ _ | .queueUnbind _
  | .communicatorSetup _ _ _ | .communicatorDelete _ _ | .exportRequest _ _ _ | .importRequest _ _
  | .revokeRequest _ _ | .wsetup _ _ | .walkSetupLoaded _ | .voctxWrite _ _ _ | .vfRegisterWrite _ _ _
  | .hostWrite _ _ _ _ | .hostRead _ _ _ | .hostAtomic _ _ _ _ _ _ | .fabricRead _ | .fabricWrite _
  | .fabricAtomic _ | .readReply _ | .writeAcknowledgement _ | .atomicReply _ | .collectiveContribution _
  | .collectiveResult _ | .portTrain _ _ | .portDown _ _ | .bothLanesLock _ _ | .oneLaneLocks _ _
  | .portTrainingTimeout _ _ | .laneLost _ _ | .flitGroupRetry _ _ | .fabricPathLost _ _
  | .fgrowAnswer _ _ | .frameMoveStart _ _ _ _ | .lineCopyComplete _ _ | .scrubComplete _
  | .partitionMerge _ | .partitionSplit _ _ | .quiesceComplete _ | .quiesceTimeout _ | .heartbeat
  | .takeover | .servicePairHalt _ | .timingReplay _ | .powerLimit | .packageReset _ _
  | .bundleLoad _ _ _ _ _ _ _ | .portableFinalise _ _ | .hostSnoop _ _ | .matrixStart _ => true

/-- The instruction is a word of one of the two streams; the other rows of the opcode table are
steps that no word encodes. -/
def hasWord (i : Instr) : Bool :=
  match i with
  | .laneBlockStart _ | .activeSetFill _ | .pathRotation _ | .preemptBudgetExpiry _ | .pairTimeout _
  | .vmmapTimeout _ | .matrixComplete _ | .mirrorPush _ | .checkRetry _ | .walk _ _ _ _
  | .walkCycleLimit _ _ | .parkSlotAcquired _ | .engineFaultDelivery _ | .copyChunk _
  | .collectiveTimeout _ | .budgetWindowStart | .takeLaunchRecord _ | .kernelPlacementCheck _
  | .placeTeamSet _ _ _ _ | .sliceStart _ | .sliceEnd _ | .ownerCreate _ _ | .stopSequenceComplete _
  | .vreqActivate _ | .vreqStop _ | .vreqResume _ | .vreqTeardown _ | .qbind _ _ _ | .queueUnbind _
  | .communicatorSetup _ _ _ | .communicatorDelete _ _ | .exportRequest _ _ _ | .importRequest _ _
  | .revokeRequest _ _ | .wsetup _ _ | .walkSetupLoaded _ | .voctxWrite _ _ _ | .vfRegisterWrite _ _ _
  | .hostWrite _ _ _ _ | .hostRead _ _ _ | .hostAtomic _ _ _ _ _ _ | .fabricRead _ | .fabricWrite _
  | .fabricAtomic _ | .readReply _ | .writeAcknowledgement _ | .atomicReply _ | .collectiveContribution _
  | .collectiveResult _ | .portTrain _ _ | .portDown _ _ | .bothLanesLock _ _ | .oneLaneLocks _ _
  | .portTrainingTimeout _ _ | .laneLost _ _ | .flitGroupRetry _ _ | .fabricPathLost _ _
  | .fgrowAnswer _ _ | .frameMoveStart _ _ _ _ | .lineCopyComplete _ _ | .scrubComplete _
  | .partitionMerge _ | .partitionSplit _ _ | .quiesceComplete _ | .quiesceTimeout _ | .heartbeat
  | .takeover | .servicePairHalt _ | .timingReplay _ | .powerLimit | .packageReset _ _
  | .bundleLoad _ _ _ _ _ _ _ | .portableFinalise _ _ | .hostSnoop _ _ | .matrixStart _ => false
  | _ => true

end Sys2Proof
end

