-- ==== Sys2Proof/Decode.lean ====
section
/-! DEFINITION. The decoder of the two words, with the order of checks of R74, and the encoder (R50 to R70). -/
namespace Sys2Proof
namespace Dec

/-- n bits of a word from bit lo up (R50, R54). -/
def bits (w lo n : Nat) : Nat := w / 2 ^ lo % 2 ^ n

/-- What a word is: an instruction, or illegal with a subcause (R73, R74). -/
inductive Decoded where
  | ok (i : Instr)
  | illegal (sub : Nat)
  deriving DecidableEq, Repr

/-- The lowest subcause among the checks that fail (R74). -/
def firstFail : List (Nat × Bool) → Nat
  | [] => 11
  | (n, ok) :: r => if ok then firstFail r else min n (firstFail r)

/-- The instruction where every check holds, else the first subcause that applies (R74). -/
def verdict (checks : List (Nat × Bool)) (i : Instr) : Decoded :=
  if checks.all (fun c => c.2) then .ok i else .illegal (firstFail checks)

/-! ## Codes that several fields share (R62 to R64, R68, R69) -/
def cond : Nat → Cond
  | 0 => .eq | 1 => .ne | 2 => .lt | 3 => .ge | 4 => .le | 5 => .gt | 6 => .ltu | _ => .geu
def condCode : Cond → Nat
  | .eq => 0 | .ne => 1 | .lt => 2 | .ge => 3 | .le => 4 | .gt => 5 | .ltu => 6 | .geu => 7
def fcond : Nat → FCond
  | 0 => .eq | 1 => .ne | 2 => .lt | 3 => .le | 4 => .gt | 5 => .ge | 6 => .un | _ => .ord
def fcondCode : FCond → Nat
  | .eq => 0 | .ne => 1 | .lt => 2 | .le => 3 | .gt => 4 | .ge => 5 | .un => 6 | .ord => 7
def order : Nat → MOrder
  | 0 => .rlx | 1 => .acq | 2 => .rel | _ => .ar
def orderCode : MOrder → Nat
  | .rlx => 0 | .acq => 1 | .rel => 2 | .ar => 3
def scope : Nat → MScope
  | 0 => .none | 1 => .grp | 2 => .team | 3 => .clus | 4 => .die | 5 => .dev | 6 => .sys | _ => .rmt
def scopeCode : MScope → Nat
  | .none => 0 | .grp => 1 | .team => 2 | .clus => 3 | .die => 4 | .dev => 5 | .sys => 6 | .rmt => 7
def space : Nat → Space
  | 0 => .gl | 1 => .pv | 2 => .sp | 3 => .cl | _ => .ch
def spaceCode : Space → Nat
  | .gl => 0 | .pv => 1 | .sp => 2 | .cl => 3 | .ch => 4
def width : Nat → MWidth
  | 0 => .b | 1 => .h | 2 => .w | _ => .d
def widthCode : MWidth → Nat
  | .b => 0 | .h => 1 | .w => 2 | .d => 3
def aop : Nat → AOp
  | 0 => .add | 1 => .min | 2 => .max | 3 => .and | 4 => .or | 5 => .xor | 6 => .exch | _ => .cas
def aopCode : AOp → Nat
  | .add => 0 | .min => 1 | .max => 2 | .and => 3 | .or => 4 | .xor => 5 | .exch => 6 | .cas => 7
def rnd : Nat → Rnd
  | 0 => .rne | 1 => .rtz | 2 => .rup | _ => .rdn
def rndCode : Rnd → Nat
  | .rne => 0 | .rtz => 1 | .rup => 2 | .rdn => 3
def fmt : Nat → Fmt
  | 0 => .f32 | 1 => .i32 | 2 => .n32 | 3 => .e4m3 | 4 => .e5m2 | 5 => .e2m1 | 6 => .i8 | 7 => .n8
  | 8 => .i4 | 9 => .e8s | 10 => .ne4 | _ => .ne5
def fmtCode : Fmt → Nat
  | .f32 => 0 | .i32 => 1 | .n32 => 2 | .e4m3 => 3 | .e5m2 => 4 | .e2m1 => 5 | .i8 => 6 | .n8 => 7
  | .i4 => 8 | .e8s => 9 | .ne4 => 10 | .ne5 => 11
def fam : Nat → Fam
  | 0 => .ne4 | _ => .ne5
def famCode : Fam → Nat
  | .ne4 => 0 | .ne5 => 1
def shfl : Nat → ShflMode
  | 0 => .idx | 1 => .up | 2 => .down | _ => .xor
def shflCode : ShflMode → Nat
  | .idx => 0 | .up => 1 | .down => 2 | .xor => 3
def vote : Nat → VoteMode
  | 0 => .any | 1 => .all | _ => .ballot
def voteCode : VoteMode → Nat
  | .any => 0 | .all => 1 | .ballot => 2
def red : Nat → RedOp
  | 0 => .add | 1 => .min | 2 => .max | 3 => .minu | 4 => .and | 5 => .or | 6 => .xor | 7 => .fadd
  | 8 => .fmin | _ => .fmax
def redCode : RedOp → Nat
  | .add => 0 | .min => 1 | .max => 2 | .minu => 3 | .and => 4 | .or => 5 | .xor => 6 | .fadd => 7
  | .fmin => 8 | .fmax => 9
/-- The minors that major 0x0F accepts (R326). -/
def wideOp (m d : Nat) : Option WideOp :=
  match m with
  | 0 => some .add | 1 => some .sub | 2 => some .mul | 6 => some .and | 7 => some .or | 8 => some .xor
  | 0xC => some .min | 0xD => some .max | 0xE => some .minu | 0xF => some .maxu
  | 0x20 => some (.cmp (cond (d / 8))) | _ => none
def wideCode : WideOp → Nat
  | .add => 0 | .sub => 1 | .mul => 2 | .and => 6 | .or => 7 | .xor => 8 | .min => 0xC | .max => 0xD
  | .minu => 0xE | .maxu => 0xF | .cmp _ => 0x20
/-- Field d of the destination of major 0x0F: a flag with the condition above it for cmp (R51). -/
def wideDest : WideOp → Nat → Nat
  | .cmp cc, d => condCode cc * 8 + d
  | .add, d => d | .sub, d => d | .mul, d => d | .and, d => d | .or, d => d | .xor, d => d
  | .min, d => d | .max, d => d | .minu, d => d | .maxu, d => d
def wideRegs : WideOp → Nat → Nat
  | .cmp _, d => d % 8
  | .add, d => d | .sub, d => d | .mul, d => d | .and, d => d | .or, d => d | .xor, d => d
  | .min, d => d | .max, d => d | .minu, d => d | .maxu, d => d

/-! ## Scalar words -/

/-- The majors whose word is followed by an extension word (R50, R65). -/
def isWide (w : Nat) : Bool :=
  let m := bits w 25 7
  m == 0x0F || m == 0x10 || m == 0x15 || m == 0x1E || m == 0x1F || m == 0x20 || m == 0x27 || m == 0x28
    || m == 0x29

/-- An unused field is zero, and an index field has its upper three bits zero (R51). -/
def zero (x : Nat) : Nat × Bool := (6, x == 0)
def idx (x : Nat) : Nat × Bool := (6, decide (x < 8))
/-- A mask destination is an index and not m0 (R51). -/
def maskDest (x : Nat) : List (Nat × Bool) := [idx x, (5, x % 8 != 0)]

/-- Major 0x01 (R66). -/
def aluReg (d a b m : Nat) : Decoded :=
  match m with
  | 0x00 => .ok (.add d a b) | 0x01 => .ok (.sub d a b) | 0x02 => .ok (.mul d a b)
  | 0x03 => .ok (.mulh d a b) | 0x04 => .ok (.div d a b) | 0x05 => .ok (.divu d a b)
  | 0x06 => .ok (.and d a b) | 0x07 => .ok (.or d a b) | 0x08 => .ok (.xor d a b)
  | 0x09 => .ok (.shl d a b) | 0x0A => .ok (.shr d a b) | 0x0B => .ok (.sar d a b)
  | 0x0C => .ok (.min d a b) | 0x0D => .ok (.max d a b) | 0x0E => .ok (.minu d a b)
  | 0x0F => .ok (.maxu d a b)
  | 0x10 => verdict [zero b] (.mov d a)
  | 0x11 => verdict [zero b, (6, decide (a < 2))] (.movY d a)
  | 0x12 => verdict [zero b] (.clz d a) | 0x13 => verdict [zero b] (.popc d a)
  | 0x14 => verdict [zero b] (.extB d a) | 0x15 => verdict [zero b] (.extH d a)
  | 0x16 => verdict [zero b] (.extW d a)
  | 0x18 => .ok (.sel d a b 0) | 0x19 => .ok (.sel d a b 1) | 0x1A => .ok (.sel d a b 2)
  | 0x1B => .ok (.sel d a b 3) | 0x1C => .ok (.sel d a b 4) | 0x1D => .ok (.sel d a b 5)
  | 0x1E => .ok (.sel d a b 6) | 0x1F => .ok (.sel d a b 7)
  | 0x20 => .ok (.cmp (cond (d / 8)) (d % 8) a b)
  | _ => .illegal 2

/-- Major 0x02 (R67). -/
def sysReg (d a b m : Nat) : Decoded :=
  match m with
  | 0x00 => verdict [zero d, zero a, zero b] .nop
  | 0x01 => verdict [zero d, zero a, zero b] .lsync
  | 0x02 => verdict [zero d, zero a, zero (b % 2), (8, WF.fenceOrd (order (b / 16)) (scope (b / 2 % 8)))]
      (.fence (order (b / 16)) (scope (b / 2 % 8)))
  | 0x03 => verdict [zero d, zero a, zero b] .commit
  | 0x04 => verdict [zero d, zero a, zero b] .gexit
  | 0x05 => verdict [zero d, zero a, zero b] .texit
  | 0x06 => verdict [zero d, zero a, zero b] .cwait
  | 0x07 => verdict [zero d, zero b] (.ret a)
  | 0x08 => verdict [zero d, zero a, zero b] .tret
  | 0x09 => verdict [zero d, zero a, zero b] .hret
  | 0x0A => verdict [zero d, zero a, zero b] .pdone
  | 0x0B => verdict [zero d, zero a, zero b] .replay
  | 0x0C => verdict [zero d, zero b] (.ostop a)
  | 0x0D => verdict [zero d] (.tinv a b)
  | 0x0E => verdict [zero d] (.fgrow a b)
  | 0x0F => verdict [zero d] (.frel a b)
  | 0x10 => verdict [zero d] (.ckinj a b)
  | 0x11 => verdict [zero d, zero a, zero b] .pair
  | 0x12 => verdict [zero d, zero b] (.launch a)
  | 0x13 => verdict [(10, decide (b ≤ 56))] (.spawn d a b)
  | 0x14 => .ok (.qpost d a b)
  | 0x15 => verdict [zero d, zero b] (.waitk a)
  | 0x16 => verdict [zero b] (.coll d a)
  | 0x17 => verdict [zero d] (.pset a b)
  | 0x18 => verdict [zero d] (.fxfer a b)
  | 0x20 => verdict [idx d] (.aset d a b)
  | 0x21 => verdict [idx d, zero b] (.astep d a)
  | 0x22 => verdict [idx d, idx a, zero b] (.aload d a)
  | 0x28 => verdict (maskDest d ++ [zero b]) (.mset d a)
  | 0x29 => verdict (maskDest d ++ [idx a, idx b]) (.mand d a b)
  | 0x2A => verdict (maskDest d ++ [idx a, idx b]) (.mor d a b)
  | 0x2B => verdict (maskDest d ++ [idx a, idx b]) (.mxor d a b)
  | 0x2C => verdict (maskDest d ++ [idx a, zero b]) (.mnot d a)
  | 0x2D => verdict [idx a, zero b] (.mcnt d a)
  | 0x2E => verdict [idx a, zero b] (.mfirst d a)
  | 0x30 => .ok (.cpy d a b) | 0x31 => .ok (.cpy2 d a b) | 0x32 => .ok (.cpy3 d a b)
  | 0x33 => verdict [zero a, zero b] (.bclose d)
  | 0x34 => verdict [zero d, zero b] (.waitb a)
  | 0x38 => verdict [zero d] (.barinit a b)
  | 0x39 => verdict [zero d] (.arrive a b)
  | 0x3A => verdict [zero d, zero b] (.bwait a)
  | 0x3B => verdict [zero d] (.arrivew a b)
  | 0x3C => verdict [idx d] (.bmin d a b)
  | 0x3D => verdict [zero a, idx b] (.bread d b)
  | 0x3E => .ok (.vwait d a b) | 0x3F => .ok (.vwake d a b)
  | 0x40 => verdict [idx d, (10, b % 2 == 0)] (.dqpush d a b)
  | 0x41 => verdict [idx b, (10, d % 2 == 0 && decide (2 ≤ d))] (.dqpop d a b)
  | 0x42 => verdict [idx b, (10, d % 2 == 0 && decide (2 ≤ d))] (.dqsteal d a b)
  | _ => .illegal 2

/-- The attributes of the S.X memory majors in x13 (R62, R68). -/
def spaceOk (x : Nat) : Nat × Bool := (7, decide (bits x 5 3 < 5))
def noPv (x : Nat) : Nat × Bool := (8, bits x 5 3 != 1)
def xOrder (x : Nat) : MOrder := order (bits x 11 2)
def xScope (x : Nat) : MScope := scope (bits x 8 3)
def xSpace (x : Nat) : Space := space (bits x 5 3)
def xWidth (x : Nat) : MWidth := width (bits x 3 2)
/-- rld, rst and ramo carry no order, scope or space (R68); a reserved space code is subcause 7 first. -/
def remoteAttr (x : Nat) : List (Nat × Bool) := [spaceOk x, (8, bits x 5 8 == 0)]
def atomicAttr (x e : Nat) : List (Nat × Bool) :=
  [(8, decide (2 ≤ bits x 3 2)), (6, x % 8 == 7 || bits e 20 6 == 0)]

/-- A scalar instruction from its word and the word after it (R50, R65). -/
def decodeScalar (w ext : Nat) : Decoded :=
  let d := bits w 19 6
  let a := bits w 13 6
  let b := bits w 7 6
  let m := bits w 0 7
  let x := bits w 0 13
  let k := BitVec.ofNat 13 x
  let e := BitVec.ofNat 32 ext
  match bits w 25 7 with
  | 0x01 => aluReg d a b m
  | 0x02 => sysReg d a b m
  | 0x03 => .ok (.addImm d a k) | 0x04 => .ok (.mulImm d a k) | 0x05 => .ok (.andImm d a k)
  | 0x06 => .ok (.orImm d a k) | 0x07 => .ok (.xorImm d a k)
  | 0x08 =>
    match bits x 11 2 with
    | 0 => verdict [zero (bits x 6 5)] (.shlImm d a (x % 64))
    | 1 => verdict [zero (bits x 6 5)] (.shrImm d a (x % 64))
    | 2 => verdict [zero (bits x 6 5)] (.sarImm d a (x % 64))
    | _ => .illegal (if bits x 6 5 = 0 then 7 else 6)
  | 0x09 => .ok (.minImm d a k) | 0x0A => .ok (.maxImm d a k) | 0x0B => .ok (.minuImm d a k)
  | 0x0C => .ok (.maxuImm d a k)
  | 0x0D => verdict [zero a] (.li d k)
  | 0x0E => .ok (.cmpImm (cond (d / 8)) (d % 8) a k)
  | 0x0F =>
    match wideOp m d with
    | some op => verdict [zero (bits x 7 6)] (.aluWide op (wideRegs op d) a e)
    | none => .illegal 2
  | 0x10 => verdict [zero a, zero x] (.lih d e)
  | 0x11 => verdict [zero (bits w 21 4)] (.br (BitVec.ofNat 21 w))
  | 0x12 => .ok (.bc (bits w 22 3) (bits w 21 1 == 1) (BitVec.ofNat 21 w))
  | 0x13 => verdict [zero (bits w 21 4)] (.call (BitVec.ofNat 21 w))
  | 0x14 => verdict [zero a] (.loop d k)
  | 0x15 => verdict [idx d, zero a, zero x, (7, ext % 16 == 0)] (.lrun d e)
  | 0x16 => .ok (.ldB d a k) | 0x17 => .ok (.ldH d a k) | 0x18 => .ok (.ldW d a k)
  | 0x19 => .ok (.ldD d a k)
  | 0x1A => .ok (.stB d a k) | 0x1B => .ok (.stH d a k) | 0x1C => .ok (.stW d a k)
  | 0x1D => .ok (.stD d a k)
  | 0x1E => verdict [zero (x % 8), spaceOk x, noPv x, (8, WF.loadOrd (xOrder x) (xScope x))]
      (.ldX (xWidth x) (xOrder x) (xScope x) (xSpace x) d a e)
  | 0x1F => verdict [zero (x % 8), spaceOk x, noPv x, (8, WF.storeOrd (xOrder x) (xScope x))]
      (.stX (xWidth x) (xOrder x) (xScope x) (xSpace x) d a e)
  | 0x20 => verdict (atomicAttr x ext ++ [spaceOk x, noPv x, (8, WF.amoOrd (xOrder x) (xScope x))])
      (.amo (aop (x % 8)) (xWidth x) (xOrder x) (xScope x) (xSpace x) d a (bits ext 26 6) (bits ext 20 6)
        (BitVec.ofNat 20 ext))
  | 0x21 => verdict [idx d] (.ldq d a k)
  | 0x22 => .ok (.ldk d a k) | 0x23 => .ok (.stk d a k)
  | 0x24 => verdict [zero a, zero (x / 4096), (9, WF.creg (x % 4096))] (.crd d (x % 4096))
  | 0x25 => verdict [zero d, zero (x / 4096), (9, WF.creg (x % 4096))] (.cwr (x % 4096) a)
  | 0x26 => verdict [zero d, zero a, zero (x / 4096)] (.trap (x % 4096))
  | 0x27 => verdict (zero (x % 8) :: remoteAttr x) (.rld (xWidth x) d a e)
  | 0x28 => verdict (zero (x % 8) :: remoteAttr x) (.rst (xWidth x) d a e)
  | 0x29 => verdict (atomicAttr x ext ++ remoteAttr x)
      (.ramo (aop (x % 8)) (xWidth x) d a (bits ext 26 6) (bits ext 20 6) (BitVec.ofNat 20 ext))
  | _ => .illegal 1

/-! ## Lane words -/

/-- The fields of a lane word (R54). -/
structure LaneFields where
  op : Nat
  dest : Nat
  nw : Nat
  latch : Nat
  le : Nat
  sa : Nat
  sb : Nat
  sc : Nat
  pn : Nat
  pr : Nat
  md : Nat
  imm : Nat
  deriving DecidableEq, Repr

def laneFields (x : Nat) : LaneFields :=
  { op := bits x 84 12, dest := bits x 76 8, nw := bits x 75 1, latch := bits x 73 2, le := bits x 72 1,
    sa := bits x 63 9, sb := bits x 54 9, sc := bits x 45 9, pn := bits x 44 1, pr := bits x 41 3,
    md := bits x 32 9, imm := bits x 0 32 }

/-- A source selector (R58). -/
def src (s : Nat) : LSrc :=
  if s < 192 then .v s else if s < 200 then .q (s - 192) else if s < 204 then .b (s - 200)
  else if s = 204 then .zero else if s = 205 then .lane else if s = 206 then .imm else .sbc
def srcCode : LSrc → Nat
  | .v n => n | .q k => 192 + k | .b k => 200 + k | .zero => 204 | .lane => 205 | .imm => 206 | .sbc => 207
/-- The destination field with nw, latch and le (R56, R57). -/
def dst (f : LaneFields) : LDest :=
  if f.nw = 1 then .latch f.latch
  else if f.dest < 192 then .v f.dest (if f.le = 1 then some f.latch else none)
  else .y (f.dest - 192) (if f.le = 1 then some f.latch else none)
/-- Bits [83:72] of a destination (R54, R57). -/
def dstCode : LDest → Nat
  | .v n none => n * 16
  | .v n (some k) => n * 16 + k * 2 + 1
  | .latch k => 8 + k * 2 + 1
  | .y k none => (192 + k) * 16
  | .y k (some j) => (192 + k) * 16 + j * 2 + 1
def pred (f : LaneFields) : LPred := { neg := f.pn == 1, p := f.pr }
def predCode (p : LPred) : Nat := (if p.neg then 8 else 0) + p.p

/-- The predicate field: pn = 1 with pr = 0 is a reserved value (R60, R74). -/
def predOk (f : LaneFields) : Nat × Bool := (7, !(f.pn == 1 && f.pr == 0))
/-- A run of n v registers lies below the group's declared count (R70). -/
def run (regs s n : Nat) : Nat × Bool := (10, decide (192 ≤ s) || decide (s + n ≤ regs))
/-- A v destination (R56, R57, R70). -/
def dstV (regs : Nat) (f : LaneFields) : List (Nat × Bool) :=
  [(5, decide (f.dest < 194)), (6, f.le == 1 || f.latch == 0), (6, f.nw == 0 || (f.le == 1 && f.dest == 0)),
   run regs f.dest 1]
/-- A run of n destination registers (R57, R70). -/
def dstRun (regs n : Nat) (f : LaneFields) : List (Nat × Bool) :=
  [(5, decide (f.dest < 192)), (6, f.nw == 0 && f.latch == 0 && f.le == 0), run regs f.dest n]
/-- A predicate destination p1 to p7 (R56, R57). -/
def dstP (f : LaneFields) : List (Nat × Bool) :=
  [(5, decide (0 < f.dest) && decide (f.dest < 8)), (6, f.nw == 0 && f.latch == 0 && f.le == 0)]
/-- No destination: dest is zero, and 194 up is reserved in every word (R56, R57, R69). -/
def dstNone (f : LaneFields) : List (Nat × Bool) :=
  [(5, decide (f.dest < 194)), (6, f.dest == 0 && f.nw == 0 && f.latch == 0 && f.le == 0)]
/-- A selector that is read, in an instruction whose immediate serves 206 and 207 (R58, R70). -/
def rd (regs s : Nat) : List (Nat × Bool) := [(4, decide (s < 208)), run regs s 1]
/-- A selector that is read, in an instruction that keeps the immediate for itself (R58). -/
def rdOwn (regs s : Nat) : List (Nat × Bool) := [(4, decide (s < 206)), run regs s 1]
/-- A selector that must name n v registers from s, in an instruction with an immediate of its own (R58, R70). -/
def rdV (regs s n : Nat) : List (Nat × Bool) := [(4, decide (s < 206)), (8, decide (s < 192)), run regs s n]
/-- The same in an instruction whose immediate is zero, where R58 does not forbid 206 and 207 (R69, R70). -/
def rdVZero (regs s n : Nat) : List (Nat × Bool) := [(4, decide (s < 208)), (8, decide (s < 192)), run regs s n]
/-- A selector that is not read (R58). -/
def unused (s : Nat) : Nat × Bool := (4, s == 204)
/-- Not both 206 and 207 in one word (R58). -/
def notBoth (f : LaneFields) : Nat × Bool :=
  (4, !([f.sa, f.sb, f.sc].contains 206 && [f.sa, f.sb, f.sc].contains 207))
/-- The shared immediate: not both 206 and 207, with 207 the bits [31:6] of the immediate are zero, and with neither the immediate is an unused field (R58, R74). -/
def shared (f : LaneFields) : List (Nat × Bool) :=
  let l := [f.sa, f.sb, f.sc]
  [notBoth f, (6, !(l.contains 207) || decide (f.imm < 64)),
   (6, l.contains 206 || l.contains 207 || f.imm == 0)]
/-- Mod bits from bit n up are zero (R61). -/
def modZero (f : LaneFields) (n : Nat) : Nat × Bool := (6, f.md / 2 ^ n == 0)
/-- The sources of one, two and three operand instructions with a shared immediate. -/
def abc (regs : Nat) (f : LaneFields) (n : Nat) : List (Nat × Bool) :=
  (rd regs f.sa ++ (if n < 2 then [unused f.sb] else rd regs f.sb)
    ++ (if n < 3 then [unused f.sc] else rd regs f.sc)) ++ (shared f ++ [predOk f])
/-- No sources and no operand of a branch word's selectors. -/
def noSrc (f : LaneFields) : List (Nat × Bool) := [unused f.sa, unused f.sb, unused f.sc]
/-- The address selector (R70): a v register, in .gl an even pair. -/
def addr (regs : Nat) (f : LaneFields) : List (Nat × Bool) :=
  [(4, decide (f.sa < 206)), (8, decide (f.sa < 192)),
   run regs f.sa (if bits f.md 6 3 = 0 then 2 else 1),
   (10, bits f.md 6 3 != 0 || decide (192 ≤ f.sa) || f.sa % 2 == 0)]
def mdSpace (f : LaneFields) : List (Nat × Bool) := [(7, decide (bits f.md 6 3 < 5))]
def lOrder (f : LaneFields) : MOrder := order (bits f.md 4 2)
def lScope (f : LaneFields) : MScope := scope (bits f.md 1 3)
def lSpace (f : LaneFields) : Space := space (bits f.md 6 3)
/-- .pv takes relaxed accesses only (R62). -/
def pvOk (f : LaneFields) : Nat × Bool := (8, bits f.md 6 3 != 1 || bits f.md 4 2 == 0)
/-- .pv is illegal in course forms (R70). -/
def noPvLane (f : LaneFields) : Nat × Bool := (8, bits f.md 6 3 != 1)
/-- The two matrix formats (R352). -/
def matrixFmt (f : LaneFields) : List (Nat × Bool) :=
  [(6, f.md % 2 == 0), (7, decide (bits f.md 5 4 < 12) && decide (bits f.md 1 4 < 12)),
   (8, WF.mat (fmt (bits f.md 5 4)) (fmt (bits f.md 1 4))), (10, decide (192 ≤ f.dest) || f.dest % 32 == 0)]
def fA (f : LaneFields) : Fmt := fmt (bits f.md 5 4)
def fB (f : LaneFields) : Fmt := fmt (bits f.md 1 4)

/-- A load, store or atomic of lanes: space, order, scope, address (R69, R70). -/
def laneLoad (regs : Nat) (f : LaneFields) (wd : MWidth) : Decoded :=
  verdict (mdSpace f ++ dstV regs f ++ addr regs f ++ [unused f.sb, unused f.sc, predOk f, pvOk f,
      (8, WF.loadOrd (lOrder f) (lScope f)), (6, !(wd == .w) || f.md % 2 == 0)])
    (.vld wd (f.md % 2 == 1) (lOrder f) (lScope f) (lSpace f) (dst f) f.sa (pred f) (BitVec.ofNat 32 f.imm))
def laneStore (regs : Nat) (f : LaneFields) (wd : MWidth) : Decoded :=
  verdict (mdSpace f ++ dstNone f ++ addr regs f ++ rdOwn regs f.sb ++ [unused f.sc, predOk f, pvOk f,
      (8, WF.storeOrd (lOrder f) (lScope f)), (6, f.md % 2 == 0)])
    (.vst wd (lOrder f) (lScope f) (lSpace f) f.sa (src f.sb) (pred f) (BitVec.ofNat 32 f.imm))
def laneAtomic (regs : Nat) (f : LaneFields) (op : AOp) : Decoded :=
  verdict (mdSpace f ++ dstV regs f ++ addr regs f ++ rdOwn regs f.sb
      ++ (if op = .cas then rdOwn regs f.sc else [unused f.sc]) ++ [predOk f, pvOk f,
      (8, WF.amoOrd (lOrder f) (lScope f)), (6, f.md % 2 == 0)])
    (.vamo op (lOrder f) (lScope f) (lSpace f) (dst f) f.sa (src f.sb) (src f.sc) (pred f)
      (BitVec.ofNat 32 f.imm))

/-- A conversion (R339, R340): the opcode carries the rounding mode, the immediate the element. -/
def laneCvt (regs : Nat) (f : LaneFields) (r : Rnd) : Decoded :=
  let t := fmt (bits f.md 5 4)
  let g := fmt (bits f.md 1 4)
  verdict (dstV regs f ++ rdOwn regs f.sa ++ [unused f.sb, unused f.sc, predOk f, zero (f.md % 2),
      zero (f.imm / 8), (8, decide (bits f.md 5 4 < 10) && decide (bits f.md 1 4 < 10) && WF.cvt t g),
      (8, decide (f.imm % 8 < WF.elements (if t = .f32 then g else t)))])
    (.vcvt t g r (dst f) (src f.sa) (f.imm % 8) (pred f))

/-- A lane instruction of a group with regs declared v registers, from its 96 bits (R54, R69, R70). -/
def decodeLane (regs x : Nat) : Decoded :=
  let f := laneFields x
  let i := BitVec.ofNat 32 f.imm
  let q := pred f
  let d := dst f
  let a := src f.sa
  let b := src f.sb
  let c := src f.sc
  let n := bits f.md 4 2 + 1
  match f.op with
  | 0x001 => verdict (dstV regs f ++ abc regs f 2 ++ [modZero f 0]) (.vadd d a b q i)
  | 0x002 => verdict (dstV regs f ++ abc regs f 2 ++ [modZero f 0]) (.vsub d a b q i)
  | 0x003 => verdict (dstV regs f ++ abc regs f 2 ++ [modZero f 0]) (.vmul d a b q i)
  | 0x004 => verdict (dstV regs f ++ abc regs f 2 ++ [modZero f 1]) (.vmulh (f.md % 2 == 1) d a b q i)
  | 0x005 => verdict (dstV regs f ++ abc regs f 3 ++ [modZero f 0]) (.vmad d a b c q i)
  | 0x006 => verdict (dstV regs f ++ abc regs f 2 ++ [modZero f 1]) (.vmin (f.md % 2 == 1) d a b q i)
  | 0x007 => verdict (dstV regs f ++ abc regs f 2 ++ [modZero f 1]) (.vmax (f.md % 2 == 1) d a b q i)
  | 0x008 => verdict (dstV regs f ++ abc regs f 2 ++ [modZero f 0]) (.vand d a b q i)
  | 0x009 => verdict (dstV regs f ++ abc regs f 2 ++ [modZero f 0]) (.vor d a b q i)
  | 0x00A => verdict (dstV regs f ++ abc regs f 2 ++ [modZero f 0]) (.vxor d a b q i)
  | 0x00B => verdict (dstV regs f ++ abc regs f 1 ++ [modZero f 0]) (.vnot d a q i)
  | 0x00C => verdict (dstV regs f ++ abc regs f 2 ++ [modZero f 0]) (.vshl d a b q i)
  | 0x00D => verdict (dstV regs f ++ abc regs f 2 ++ [modZero f 0]) (.vshr d a b q i)
  | 0x00E => verdict (dstV regs f ++ abc regs f 2 ++ [modZero f 0]) (.vsar d a b q i)
  | 0x00F => verdict (dstV regs f ++ abc regs f 1 ++ [modZero f 0]) (.vpopc d a q i)
  | 0x010 => verdict (dstV regs f ++ abc regs f 1 ++ [modZero f 0]) (.vclz d a q i)
  | 0x011 => verdict (dstP f ++ abc regs f 2 ++ [modZero f 3]) (.vcmp (cond f.md) f.dest a b q i)
  | 0x012 => verdict (dstV regs f ++ abc regs f 2 ++ [modZero f 4]) (.vsel (bits f.md 3 1 == 1) (f.md % 8) d a b q i)
  | 0x013 => verdict (dstV regs f ++ abc regs f 1 ++ [modZero f 0]) (.vmov d a q i)
  | 0x020 => verdict (dstV regs f ++ abc regs f 2 ++ [modZero f 2]) (.vfadd (rnd f.md) d a b q i)
  | 0x021 => verdict (dstV regs f ++ abc regs f 2 ++ [modZero f 2]) (.vfsub (rnd f.md) d a b q i)
  | 0x022 => verdict (dstV regs f ++ abc regs f 2 ++ [modZero f 2]) (.vfmul (rnd f.md) d a b q i)
  | 0x023 => verdict (dstV regs f ++ abc regs f 3 ++ [modZero f 2]) (.vffma (rnd f.md) d a b c q i)
  | 0x024 => verdict (dstV regs f ++ abc regs f 2 ++ [modZero f 0]) (.vfmin d a b q i)
  | 0x025 => verdict (dstV regs f ++ abc regs f 2 ++ [modZero f 0]) (.vfmax d a b q i)
  | 0x026 => verdict (dstP f ++ abc regs f 2 ++ [modZero f 4, (7, decide (f.md % 16 < 8))]) (.vfcmp (fcond f.md) f.dest a b q i)
  | 0x027 => verdict (dstV regs f ++ abc regs f 1 ++ [modZero f 0]) (.vfrcp d a q i)
  | 0x028 => verdict (dstV regs f ++ abc regs f 1 ++ [modZero f 0]) (.vfrsq d a q i)
  | 0x029 => verdict (dstV regs f ++ abc regs f 1 ++ [modZero f 2]) (.vfsqrt (rnd f.md) d a q i)
  | 0x02A => verdict (dstV regs f ++ abc regs f 1 ++ [modZero f 0]) (.vfex2 d a q i)
  | 0x02B => verdict (dstV regs f ++ abc regs f 1 ++ [modZero f 0]) (.vflg2 d a q i)
  | 0x02C => verdict (dstV regs f ++ abc regs f 1 ++ [modZero f 0]) (.vfsin d a q i)
  | 0x02D => verdict (dstV regs f ++ abc regs f 1 ++ [modZero f 0]) (.vfcos d a q i)
  | 0x030 => laneCvt regs f .rne
  | 0x031 => laneCvt regs f .rtz
  | 0x032 => laneCvt regs f .rup
  | 0x033 => laneCvt regs f .rdn
  | 0x040 => verdict (dstV regs f ++ abc regs f 3 ++ [modZero f 4, (7, f.md % 16 == 3 || f.md % 16 == 4 || f.md % 16 == 6)]) (.vdot4 (fmt f.md) d a b c q i)
  | 0x041 => verdict (dstV regs f ++ abc regs f 3 ++ [modZero f 4, (7, f.md % 16 == 5 || f.md % 16 == 8)]) (.vdot8 (fmt f.md) d a b c q i)
  | 0x042 => verdict (dstV regs f ++ rdOwn regs f.sa ++ rdOwn regs f.sb ++ rdOwn regs f.sc ++ [predOk f, modZero f 0, zero (f.imm / 512)]) (.vscacc d a b c (f.imm % 4) (bits f.imm 2 2) (bits f.imm 4 5) q)
  | 0x050 => verdict (dstV regs f ++ abc regs f 2 ++ [modZero f 2]) (.vshfl (shfl f.md) d a b q i)
  | 0x051 => if f.md % 4 < 2 then verdict (dstP f ++ abc regs f 1 ++ [modZero f 2]) (.vvote (vote f.md) (.v f.dest none) a q i) else verdict (dstV regs f ++ abc regs f 1 ++ [modZero f 2, (7, f.md % 4 != 3)]) (.vvote .ballot d a q i)
  | 0x052 => verdict (dstV regs f ++ abc regs f 1 ++ [modZero f 4] ++ [(7, decide (f.md % 16 < 10))]) (.vred (red f.md) d a q i)
  | 0x053 => verdict (dstV regs f ++ abc regs f 1 ++ [modZero f 0]) (.vscan d a q i)
  | 0x060 => verdict (dstNone f ++ noSrc f ++ [predOk f, modZero f 0, (6, f.pr != 0 || f.imm / 65536 == 0)])
      (.vbr q (BitVec.ofNat 16 f.imm) (BitVec.ofNat 16 (f.imm / 65536)))
  | 0x061 => verdict (dstNone f ++ noSrc f ++ [predOk f, modZero f 0, zero (f.imm / 65536)])
      (.vjoin q (BitVec.ofNat 16 f.imm))
  | 0x062 => verdict (dstNone f ++ noSrc f ++ [zero f.pr, zero f.pn, modZero f 0, zero f.imm]) .vend
  | 0x070 => laneLoad regs f .b | 0x071 => laneLoad regs f .h | 0x072 => laneLoad regs f .w
  | 0x074 => laneStore regs f .b | 0x075 => laneStore regs f .h | 0x076 => laneStore regs f .w
  | 0x078 => laneAtomic regs f .add | 0x079 => laneAtomic regs f .min | 0x07A => laneAtomic regs f .max
  | 0x07B => laneAtomic regs f .and | 0x07C => laneAtomic regs f .or | 0x07D => laneAtomic regs f .xor
  | 0x07E => laneAtomic regs f .exch | 0x07F => laneAtomic regs f .cas
  | 0x080 => verdict (mdSpace f ++ (if n = 1 then dstV regs f else dstRun regs n f) ++ addr regs f
        ++ [unused f.sb, unused f.sc, predOk f, noPvLane f, (8, !(bits f.md 3 1 == 1 && n == 4)), zero (f.md % 4)])
      (.vldc (fam (bits f.md 2 1)) n (bits f.md 3 1 == 1) (lSpace f) d f.sa q i)
  | 0x081 => verdict (mdSpace f ++ dstNone f ++ addr regs f ++ rdV regs f.sb n
        ++ [unused f.sc, predOk f, noPvLane f, zero (bits f.md 3 1), zero (f.md % 4)])
      (.vstc (fam (bits f.md 2 1)) n (lSpace f) f.sa f.sb q i)
  | 0x082 => verdict (mdSpace f ++ dstNone f ++ addr regs f ++ rdV regs f.sb 4
        ++ [unused f.sc, predOk f, noPvLane f, zero (bits f.md 3 3), zero (f.md % 4)])
      (.vcupd (fam (bits f.md 2 1)) (lSpace f) f.sa f.sb q i)
  | 0x090 => verdict (dstRun regs 32 f ++ matrixFmt f ++ rdVZero regs f.sa 16 ++ rdVZero regs f.sb 16
        ++ [unused f.sc, notBoth f, predOk f, zero f.imm]) (.vmma (fA f) (fB f) f.dest f.sa f.sb q)
  | 0x091 => verdict (dstRun regs 32 f ++ matrixFmt f ++ noSrc f ++ [predOk f, zero (f.imm / 2 ^ 24)])
      (.vmmas (fA f) (fB f) f.dest (f.imm % 64) (bits f.imm 6 6) (bits f.imm 12 6) (bits f.imm 18 6) q)
  | 0x092 => verdict (dstRun regs 32 f ++ matrixFmt f ++ rdVZero regs f.sa 16 ++ rdVZero regs f.sb 16
        ++ [unused f.sc, notBoth f, predOk f, zero f.imm]) (.vmmap (fA f) (fB f) f.dest f.sa f.sb q)
  | 0x0A0 => verdict (dstP f ++ abc regs f 1 ++ [modZero f 0]) (.vptest f.dest a q i)
  | 0x0A1 => verdict (dstV regs f ++ abc regs f 1 ++ [modZero f 0]) (.vpoison d a q i)
  | _ => .illegal 3

end Dec
open Dec

/-! ## The encoder -/

/-- An S.R word (R50). -/
def wordR (major d a b m : Nat) : Nat := major * 2 ^ 25 + d * 2 ^ 19 + a * 2 ^ 13 + b * 2 ^ 7 + m
/-- An S.I word, and the first word of S.X (R50). -/
def wordI (major d a k : Nat) : Nat := major * 2 ^ 25 + d * 2 ^ 19 + a * 2 ^ 13 + k
/-- An S.X instruction: the extension word above the first (R50). -/
def wordX (major d a x e : Nat) : Nat := wordI major d a x + e * 2 ^ 32
/-- An S.B word (R50). -/
def wordB (major fn disp : Nat) : Nat := major * 2 ^ 25 + fn * 2 ^ 21 + disp
/-- The attributes of an S.X memory word (R68). -/
def attr (o : MOrder) (sc : MScope) (ms : Space) (wd : MWidth) (op : Nat) : Nat :=
  orderCode o * 2 ^ 11 + scopeCode sc * 2 ^ 8 + spaceCode ms * 2 ^ 5 + widthCode wd * 2 ^ 3 + op
/-- A lane word (R54). -/
def wordL (op dst sa sb sc p md imm : Nat) : Nat :=
  op * 2 ^ 84 + dst * 2 ^ 72 + sa * 2 ^ 63 + sb * 2 ^ 54 + sc * 2 ^ 45 + p * 2 ^ 41 + md * 2 ^ 32 + imm
/-- A lane word with a shared immediate and one, two or three sources. -/
def wordL1 (op : Nat) (d : LDest) (a : LSrc) (p : LPred) (md : Nat) (imm : Word) : Nat :=
  wordL op (dstCode d) (srcCode a) 204 204 (predCode p) md imm.toNat
def wordL2 (op : Nat) (d : LDest) (a b : LSrc) (p : LPred) (md : Nat) (imm : Word) : Nat :=
  wordL op (dstCode d) (srcCode a) (srcCode b) 204 (predCode p) md imm.toNat
def wordL3 (op : Nat) (d : LDest) (a b c : LSrc) (p : LPred) (md : Nat) (imm : Word) : Nat :=
  wordL op (dstCode d) (srcCode a) (srcCode b) (srcCode c) (predCode p) md imm.toNat
/-- The mod field of a lane access (R69). -/
def laneAttr (ms : Space) (o : MOrder) (sc : MScope) (sx : Bool) : Nat :=
  spaceCode ms * 64 + orderCode o * 16 + scopeCode sc * 2 + sx.toNat
def courseAttr (ms : Space) (n : Nat) (rn : Bool) (f : Fam) : Nat :=
  spaceCode ms * 64 + (n - 1) * 16 + rn.toNat * 8 + famCode f * 4
def widthOp : MWidth → Nat
  | .b => 0 | .h => 1 | .w => 2 | .d => 3

/-- The word of a well-formed instruction as one number, the first word lowest (R50, R54). Zero for a
row that has no word. -/
def encodeWord : Instr → Nat
  | .add d a b => wordR 1 d a b 0x00
  | .sub d a b => wordR 1 d a b 0x01
  | .mul d a b => wordR 1 d a b 0x02
  | .mulh d a b => wordR 1 d a b 0x03
  | .div d a b => wordR 1 d a b 0x04
  | .divu d a b => wordR 1 d a b 0x05
  | .and d a b => wordR 1 d a b 0x06
  | .or d a b => wordR 1 d a b 0x07
  | .xor d a b => wordR 1 d a b 0x08
  | .shl d a b => wordR 1 d a b 0x09
  | .shr d a b => wordR 1 d a b 0x0A
  | .sar d a b => wordR 1 d a b 0x0B
  | .min d a b => wordR 1 d a b 0x0C
  | .max d a b => wordR 1 d a b 0x0D
  | .minu d a b => wordR 1 d a b 0x0E
  | .maxu d a b => wordR 1 d a b 0x0F
  | .mov d a => wordR 1 d a 0 0x10
  | .movY d y => wordR 1 d y 0 0x11
  | .clz d a => wordR 1 d a 0 0x12
  | .popc d a => wordR 1 d a 0 0x13
  | .extB d a => wordR 1 d a 0 0x14
  | .extH d a => wordR 1 d a 0 0x15
  | .extW d a => wordR 1 d a 0 0x16
  | .sel d a b f => wordR 1 d a b (0x18 + f)
  | .cmp cc f a b => wordR 1 (condCode cc * 8 + f) a b 0x20
  | .addImm d a k => wordI 3 d a k.toNat
  | .mulImm d a k => wordI 4 d a k.toNat
  | .andImm d a k => wordI 5 d a k.toNat
  | .orImm d a k => wordI 6 d a k.toNat
  | .xorImm d a k => wordI 7 d a k.toNat
  | .minImm d a k => wordI 9 d a k.toNat
  | .maxImm d a k => wordI 10 d a k.toNat
  | .minuImm d a k => wordI 11 d a k.toNat
  | .maxuImm d a k => wordI 12 d a k.toNat
  | .shlImm d a k => wordI 8 d a (0 * 2 ^ 11 + k)
  | .shrImm d a k => wordI 8 d a (1 * 2 ^ 11 + k)
  | .sarImm d a k => wordI 8 d a (2 * 2 ^ 11 + k)
  | .li d k => wordI 0x0D d 0 k.toNat
  | .cmpImm cc f a k => wordI 0x0E (condCode cc * 8 + f) a k.toNat
  | .aluWide op d a k => wordX 0x0F (wideDest op d) a (wideCode op) k.toNat
  | .lih d k => wordX 0x10 d 0 0 k.toNat
  | .br k => wordB 0x11 0 k.toNat
  | .bc f n k => wordB 0x12 (f * 2 + n.toNat) k.toNat
  | .call k => wordB 0x13 0 k.toNat
  | .loop d k => wordI 0x14 d 0 k.toNat
  | .lrun m k => wordX 0x15 m 0 0 k.toNat
  | .ldB d a k => wordI 0x16 d a k.toNat
  | .ldH d a k => wordI 0x17 d a k.toNat
  | .ldW d a k => wordI 0x18 d a k.toNat
  | .ldD d a k => wordI 0x19 d a k.toNat
  | .stB d a k => wordI 0x1A d a k.toNat
  | .stH d a k => wordI 0x1B d a k.toNat
  | .stW d a k => wordI 0x1C d a k.toNat
  | .stD d a k => wordI 0x1D d a k.toNat
  | .ldX wd o sc ms d a k => wordX 0x1E d a (attr o sc ms wd 0) k.toNat
  | .stX wd o sc ms d a k => wordX 0x1F d a (attr o sc ms wd 0) k.toNat
  | .amo op wd o sc ms d a b c k =>
    wordX 0x20 d a (attr o sc ms wd (aopCode op)) (b * 2 ^ 26 + c * 2 ^ 20 + k.toNat)
  | .ldq q a k => wordI 0x21 q a k.toNat
  | .ldk d a k => wordI 0x22 d a k.toNat
  | .stk d a k => wordI 0x23 d a k.toNat
  | .crd d n => wordI 0x24 d 0 n
  | .cwr n a => wordI 0x25 0 a n
  | .trap k => wordI 0x26 0 0 k
  | .rld wd d a k => wordX 0x27 d a (attr .rlx .none .gl wd 0) k.toNat
  | .rst wd d a k => wordX 0x28 d a (attr .rlx .none .gl wd 0) k.toNat
  | .ramo op wd d a b c k =>
    wordX 0x29 d a (attr .rlx .none .gl wd (aopCode op)) (b * 2 ^ 26 + c * 2 ^ 20 + k.toNat)
  | .fence o sc => wordR 2 0 0 (orderCode o * 16 + scopeCode sc * 2) 0x02
  | .nop => wordR 2 0 0 0 0x00
  | .lsync => wordR 2 0 0 0 0x01
  | .commit => wordR 2 0 0 0 0x03
  | .gexit => wordR 2 0 0 0 0x04
  | .texit => wordR 2 0 0 0 0x05
  | .cwait => wordR 2 0 0 0 0x06
  | .ret a => wordR 2 0 a 0 0x07
  | .tret => wordR 2 0 0 0 0x08
  | .hret => wordR 2 0 0 0 0x09
  | .pdone => wordR 2 0 0 0 0x0A
  | .replay => wordR 2 0 0 0 0x0B
  | .ostop a => wordR 2 0 a 0 0x0C
  | .tinv a b => wordR 2 0 a b 0x0D
  | .fgrow a b => wordR 2 0 a b 0x0E
  | .frel a b => wordR 2 0 a b 0x0F
  | .ckinj a b => wordR 2 0 a b 0x10
  | .pair => wordR 2 0 0 0 0x11
  | .launch a => wordR 2 0 a 0 0x12
  | .spawn d a b => wordR 2 d a b 0x13
  | .qpost d a b => wordR 2 d a b 0x14
  | .waitk a => wordR 2 0 a 0 0x15
  | .coll d a => wordR 2 d a 0 0x16
  | .pset a b => wordR 2 0 a b 0x17
  | .fxfer a b => wordR 2 0 a b 0x18
  | .aset d a b => wordR 2 d a b 0x20
  | .astep d a => wordR 2 d a 0 0x21
  | .aload d a => wordR 2 d a 0 0x22
  | .mset d a => wordR 2 d a 0 0x28
  | .mand d a b => wordR 2 d a b 0x29
  | .mor d a b => wordR 2 d a b 0x2A
  | .mxor d a b => wordR 2 d a b 0x2B
  | .mnot d a => wordR 2 d a 0 0x2C
  | .mcnt d a => wordR 2 d a 0 0x2D
  | .mfirst d a => wordR 2 d a 0 0x2E
  | .cpy d a b => wordR 2 d a b 0x30
  | .cpy2 d a b => wordR 2 d a b 0x31
  | .cpy3 d a b => wordR 2 d a b 0x32
  | .bclose d => wordR 2 d 0 0 0x33
  | .waitb a => wordR 2 0 a 0 0x34
  | .barinit a b => wordR 2 0 a b 0x38
  | .arrive a b => wordR 2 0 a b 0x39
  | .bwait a => wordR 2 0 a 0 0x3A
  | .arrivew a b => wordR 2 0 a b 0x3B
  | .bmin d a b => wordR 2 d a b 0x3C
  | .bread d b => wordR 2 d 0 b 0x3D
  | .vwait d a b => wordR 2 d a b 0x3E
  | .vwake d a b => wordR 2 d a b 0x3F
  | .dqpush d a b => wordR 2 d a b 0x40
  | .dqpop d a b => wordR 2 d a b 0x41
  | .dqsteal d a b => wordR 2 d a b 0x42
  | .vadd d a b p i => wordL2 0x001 d a b p 0 i
  | .vsub d a b p i => wordL2 0x002 d a b p 0 i
  | .vmul d a b p i => wordL2 0x003 d a b p 0 i
  | .vmad d a b c p i => wordL3 0x005 d a b c p 0 i
  | .vand d a b p i => wordL2 0x008 d a b p 0 i
  | .vor d a b p i => wordL2 0x009 d a b p 0 i
  | .vxor d a b p i => wordL2 0x00A d a b p 0 i
  | .vnot d a p i => wordL1 0x00B d a p 0 i
  | .vshl d a b p i => wordL2 0x00C d a b p 0 i
  | .vshr d a b p i => wordL2 0x00D d a b p 0 i
  | .vsar d a b p i => wordL2 0x00E d a b p 0 i
  | .vpopc d a p i => wordL1 0x00F d a p 0 i
  | .vclz d a p i => wordL1 0x010 d a p 0 i
  | .vmov d a p i => wordL1 0x013 d a p 0 i
  | .vfmin d a b p i => wordL2 0x024 d a b p 0 i
  | .vfmax d a b p i => wordL2 0x025 d a b p 0 i
  | .vfrcp d a p i => wordL1 0x027 d a p 0 i
  | .vfrsq d a p i => wordL1 0x028 d a p 0 i
  | .vfex2 d a p i => wordL1 0x02A d a p 0 i
  | .vflg2 d a p i => wordL1 0x02B d a p 0 i
  | .vfsin d a p i => wordL1 0x02C d a p 0 i
  | .vfcos d a p i => wordL1 0x02D d a p 0 i
  | .vscan d a p i => wordL1 0x053 d a p 0 i
  | .vpoison d a p i => wordL1 0x0A1 d a p 0 i
  | .vmulh u d a b p i => wordL2 0x004 d a b p u.toNat i
  | .vmin u d a b p i => wordL2 0x006 d a b p u.toNat i
  | .vmax u d a b p i => wordL2 0x007 d a b p u.toNat i
  | .vfadd r d a b p i => wordL2 0x020 d a b p (rndCode r) i
  | .vfsub r d a b p i => wordL2 0x021 d a b p (rndCode r) i
  | .vfmul r d a b p i => wordL2 0x022 d a b p (rndCode r) i
  | .vffma r d a b c p i => wordL3 0x023 d a b c p (rndCode r) i
  | .vfsqrt r d a p i => wordL1 0x029 d a p (rndCode r) i
  | .vsel n k d a b p i => wordL2 0x012 d a b p (n.toNat * 8 + k) i
  | .vdot4 f d a b c p i => wordL3 0x040 d a b c p (fmtCode f) i
  | .vdot8 f d a b c p i => wordL3 0x041 d a b c p (fmtCode f) i
  | .vshfl m d a b p i => wordL2 0x050 d a b p (shflCode m) i
  | .vvote m d a p i => wordL1 0x051 d a p (voteCode m) i
  | .vred o d a p i => wordL1 0x052 d a p (redCode o) i
  | .vcmp cc d a b p i => wordL2 0x011 (.v d none) a b p (condCode cc) i
  | .vfcmp cc d a b p i => wordL2 0x026 (.v d none) a b p (fcondCode cc) i
  | .vptest d a p i => wordL1 0x0A0 (.v d none) a p 0 i
  | .vcvt t f r d a e p => wordL1 (0x030 + rndCode r) d a p (fmtCode t * 32 + fmtCode f * 2) (BitVec.ofNat 32 e)
  | .vscacc d a b c x y l p => wordL3 0x042 d a b c p 0 (BitVec.ofNat 32 (l * 16 + y * 4 + x))
  | .vbr p t j => wordL 0x060 0 204 204 204 (predCode p) 0 (j.toNat * 2 ^ 16 + t.toNat)
  | .vjoin p t => wordL 0x061 0 204 204 204 (predCode p) 0 t.toNat
  | .vend => wordL 0x062 0 204 204 204 0 0 0
  | .vld wd sx o sc ms d a p k =>
    wordL (0x070 + widthOp wd) (dstCode d) a 204 204 (predCode p) (laneAttr ms o sc sx) k.toNat
  | .vst wd o sc ms a b p k =>
    wordL (0x074 + widthOp wd) 0 a (srcCode b) 204 (predCode p) (laneAttr ms o sc false) k.toNat
  | .vamo op o sc ms d a b c p k =>
    wordL (0x078 + aopCode op) (dstCode d) a (srcCode b) (srcCode c) (predCode p) (laneAttr ms o sc false) k.toNat
  | .vldc f n rn ms d a p k => wordL 0x080 (dstCode d) a 204 204 (predCode p) (courseAttr ms n rn f) k.toNat
  | .vstc f n ms a b p k => wordL 0x081 0 a b 204 (predCode p) (courseAttr ms n false f) k.toNat
  | .vcupd f ms a b p k => wordL 0x082 0 a b 204 (predCode p) (courseAttr ms 1 false f) k.toNat
  | .vmma fa fb d a b p => wordL 0x090 (d * 16) a b 204 (predCode p) (fmtCode fa * 32 + fmtCode fb * 2) 0
  | .vmmas fa fb d x y z t p => wordL 0x091 (d * 16) 204 204 204 (predCode p) (fmtCode fa * 32 + fmtCode fb * 2)
      (t * 2 ^ 18 + z * 2 ^ 12 + y * 2 ^ 6 + x)
  | .vmmap fa fb d a b p => wordL 0x092 (d * 16) a b 204 (predCode p) (fmtCode fa * 32 + fmtCode fb * 2) 0

  | .laneBlockStart _ | .activeSetFill _ | .pathRotation _ | .preemptBudgetExpiry _ | .pairTimeout _
  | .vmmapTimeout _ | .matrixComplete _ | .mirrorPush _ | .checkRetry _ | .walk _ _ _ _
  | .walkCycleLimit _ _ | .parkSlotAcquired _ | .engineFaultDelivery _ | .copyChunk _
  | .collectiveTimeout _ | .budgetWindowStart | .takeLaunchRecord _ | .kernelPlacementCheck _
  | .placeTeamSet _ _ _ _ | .sliceStart _ | .sliceEnd _ | .ownerCreate _ _ | .stopSequenceComplete _
  | .vreqActivate _ | .vreqStop _ | .vreqResume _ | .vreqTeardown _ | .qbind _ _ _ | .queueUnbind _
  | .communicatorSetup _ _ _ | .communicatorDelete _ _ | .exportRequest _ _ _ | .importRequest _ _
  | .revokeRequest _ _ | .wsetup _ _ | .walkSetupLoaded _ | .voctxWrite _ _ _ | .vfRegisterWrite _ _ _
  | .hostWrite _ _ _ _ | .hostRead _ _ _ | .hostAtomic _ _ _ _ _ _ | .fabricRead _ | .fabricWrite _
  | .fabricAtomic _ | .readReply _ | .writeAcknowledgement _ | .atomicReply _ | .collectiveContribution _
  | .collectiveResult _ | .portTrain _ _ | .portDown _ _ | .bothLanesLock _ _ | .oneLaneLocks _ _
  | .portTrainingTimeout _ _ | .laneLost _ _ | .flitGroupRetry _ _ | .fabricPathLost _ _
  | .fgrowAnswer _ _ | .frameMoveStart _ _ _ _ | .lineCopyComplete _ _ | .scrubComplete _
  | .partitionMerge _ | .partitionSplit _ _ | .quiesceComplete _ | .quiesceTimeout _ | .heartbeat
  | .takeover | .servicePairHalt _ | .timingReplay _ | .powerLimit | .packageReset _ _
  | .bundleLoad _ _ _ _ _ _ _ | .portableFinalise _ _ | .hostSnoop _ _ | .matrixStart _ => 0

/-- The instruction is a lane word (R54, R69). -/
def isLane (i : Instr) : Bool := decide (2 ^ 84 ≤ encodeWord i)
/-- Bytes of an instruction: a scalar word with or without an extension word, or a lane word. -/
def wordBytes (i : Instr) : Nat :=
  if isLane i then 12 else if isWide (encodeWord i) then 8 else 4
/-- The 32-bit words of a well-formed instruction, the lowest address first (R50, R55). -/
def encode (i : Instr) : List Nat :=
  if !hasWord i then []
  else if isLane i then [encodeWord i % 2 ^ 32, encodeWord i / 2 ^ 32 % 2 ^ 32, encodeWord i / 2 ^ 64 % 2 ^ 32]
  else if isWide (encodeWord i) then [encodeWord i % 2 ^ 32, encodeWord i / 2 ^ 32 % 2 ^ 32]
  else [encodeWord i % 2 ^ 32]
/-- The instruction a list of words stands for in a group with regs v registers: three words are a lane
word, one or two a scalar word (a missing extension word reads as zero). -/
def decodeWords (regs : Nat) : List Nat → Decoded
  | [w] => decodeScalar w 0
  | [w, e] => decodeScalar w e
  | [x, y, z] => decodeLane regs (x + y * 2 ^ 32 + z * 2 ^ 64)
  | _ => .illegal 1
/-- Bytes of a word, lowest first (R10). -/
def leBytes : Nat → Nat → List Byte
  | 0, _ => []
  | n + 1, w => BitVec.ofNat 8 w :: leBytes n (w / 256)
/-- The number that bytes stand for, lowest first (R10). -/
def leNat : List Byte → Nat
  | [] => 0
  | b :: r => b.toNat + leNat r * 256
def Dec.Decoded.toOption : Decoded → Option Instr
  | .ok i => some i
  | .illegal _ => none
/-- What the decoder reads from an instruction whose bits are w, laid out in bytes as R50 and R55 say: a
lane word where the instruction has 96 bits (in a group with all 192 registers), else a scalar word. -/
def decodeTableWord (nbits w : Nat) : Option Instr :=
  let x := leNat (leBytes 12 (w % 2 ^ nbits))
  if nbits = 96 then (decodeLane 192 x).toOption
  else (decodeScalar (x % 2 ^ 32) (x / 2 ^ 32 % 2 ^ 32)).toOption

end Sys2Proof
end

