-- ==== Sys2Proof/Config.lean ====
section
/-! DEFINITION. What the manual fixes for the package (R2), and the free values: constants without a body, of which nothing can be proved. -/
namespace Sys2Proof.Config

/-- Compute dies per package (R2). -/
def dies : Nat := 4
/-- Clusters per die (R2). -/
def clusters : Nat := 20
/-- Cores per cluster (R2). -/
def cores : Nat := 8
/-- Group contexts per core (R2, R203). -/
def contexts : Nat := 64
/-- Active set per core (R2, R174). -/
def activeSet : Nat := 8
/-- Lanes per group (R2). -/
def lanes : Nat := 32
/-- Entries of one operand queue or return queue (R146). -/
def queueDepth : Nat := 4
/-- Enqueued lane blocks of a group (R159). -/
def blockDepth : Nat := 4
/-- Spill-stack entries of a group (R146). -/
def spillDepth : Nat := 16
/-- Translation-cache entries of a core and of a cluster (R2, R280). -/
def coreEntries : Nat := 64
def clusterEntries : Nat := 2048
/-- Walk-routine slots per die (R2). -/
def walkSlots : Nat := 32
/-- Park slots per die, and the most one owner holds on a die (R2, R282). -/
def parkSlots : Nat := 4096
def parkSlotsPerOwner : Nat := 1024
/-- Entries of a die's wait-and-wake table (R229). -/
def waitEntries : Nat := 4096
/-- Work queues per die (R180). -/
def queuesPerDie : Nat := 512
/-- Walker cycles one walk may take (R278). -/
def walkLimit : Nat := 16384
/-- Sectors of the team store buffer (R210). -/
def bufferSectors : Nat := 2048
/-- Copies a group may have incomplete, and operations of one copy engine (R387). -/
def groupCopies : Nat := 64
def engineCopies : Nat := 1024
/-- Outstanding remote replies of a group (R314). -/
def replySlots : Nat := 16
/-- Bytes of one core's SRAM that never serve the smallest L1 (R203). -/
def sramMax : Nat := 458752
/-- The bytes of the core SRAM (R203). -/
def sramBytes : Nat := 524288
/-- The strap the board drives at the first package reset (R409). DESIGN CHOICE, log entry 4. -/
def strap : Nat := 2

/-- The value number n that the manual leaves open (log entry 2). -/
opaque freeWord : Nat → BitVec 32
/-- The truth value number n that the manual leaves open (log entry 2). -/
opaque freeBit : Nat → Bool
/-- How many cycles step number n takes (R428 promises no cycle count; log entry 2). -/
opaque stepCycles : Nat → Nat
/-- The end marker a walk routine finds in s63: an address the manual does not give (R276; log entry 2). -/
opaque walkEnd : BitVec 64
/-- Which neighbour a transcendental returns: a fixed function of the operation and its
argument that the manual does not give (R338; log entry 10). -/
opaque transcendentalUp : Nat → BitVec 32 → Bool
/-- Which of the bits 47 to 16 of a register slot's value carries a negation: the manual gives the slot no place for it (R48; log entry 20). -/
opaque negationBit : Fin 32
/-- The register slot is written with a negation. -/
def slotNegated (v : Nat) : Bool := decide (v / 2 ^ (16 + negationBit.val) % 2 = 1)
/-- The value of a register slot, negated. -/
def negatedSlot (v : Nat) : Nat := v + 2 ^ (16 + negationBit.val)
/-- What a word of device memory that a partition's boundary refuses reads as, which the manual does not give (R409; log entry 52). -/
opaque refusedWord : Nat → BitVec 32
/-- A cycle in which a group issues is counted once, however many words issue in it: the word of this step is the first of its cycle (R404; log entry 2). -/
opaque firstOfCycle : Nat → Bool
/-- The word of .f32 -nan, for which the manual gives no value (R39; log entry 48). -/
opaque negatedNan : BitVec 32

end Sys2Proof.Config
end

