-- ==== Sys2Proof/Machine/Tab.lean ====
section
/-! DEFINITION. Tables keyed by number, and byte stores in one canonical form: the plain data that every part of the state is made of. -/
namespace Sys2Proof.Machine

/-- A table: pairs of a key and an entry. -/
abbrev Tab (α : Type) := List (Nat × α)

/-- The entry of key k, or d where the table lists none. -/
def tabGet {α : Type} (d : α) : Tab α → Nat → α
  | [], _ => d
  | (j, v) :: r, k => if k = j then v else tabGet d r k

/-- The entry of key k, if the table lists one. -/
def tabFind {α : Type} : Tab α → Nat → Option α
  | [], _ => none
  | (j, v) :: r, k => if k = j then some v else tabFind r k

/-- The table without key k. -/
def tabDel {α : Type} : Tab α → Nat → Tab α
  | [], _ => []
  | (j, v) :: r, k => if k = j then tabDel r k else (j, v) :: tabDel r k

/-- (k, v) put before the first key that is not below k. -/
def tabInsert {α : Type} (k : Nat) (v : α) : Tab α → Tab α
  | [] => [(k, v)]
  | (j, w) :: r => if k ≤ j then (k, v) :: (j, w) :: r else (j, w) :: tabInsert k v r

/-- The table with entry v for key k, in the place its key gives it. -/
def tabPut {α : Type} (t : Tab α) (k : Nat) (v : α) : Tab α := tabInsert k v (tabDel t k)

/-- The keys rise strictly. -/
def tabSorted {α : Type} : Tab α → Bool
  | [] => true
  | (j, _) :: r => (match r with | [] => true | (k, _) :: _ => decide (j < k)) && tabSorted r

/-- The byte at address a: what an unlisted address reads as is zero (log entry 3). -/
def cellGet (m : List Host.Cell) (a : Nat) : Byte := tabGet 0 m a

/-- Memory with byte b at address a: a zero is not listed, so that equal memories are equal lists. -/
def cellPut (m : List Host.Cell) (a : Nat) (b : Byte) : List Host.Cell :=
  if b = 0 then tabDel m a else tabPut m a b

/-- The canonical form of a memory: strictly rising addresses, no zero listed. -/
def cellsWf (m : List Host.Cell) : Bool := tabSorted m && m.all (fun c => c.2 != 0)

/-- The n bytes from address a, the lowest address least significant (R10). -/
def cellsRead (m : List Host.Cell) : Nat → Nat → Nat
  | _, 0 => 0
  | a, n + 1 => (cellGet m a).toNat + 256 * cellsRead m (a + 1) n

/-- Memory with the low n bytes of w from address a (R10). -/
def cellsWrite (m : List Host.Cell) : Nat → Nat → Nat → List Host.Cell
  | _, 0, _ => m
  | a, n + 1, w => cellsWrite (cellPut m a (BitVec.ofNat 8 w)) (a + 1) n (w / 256)

/-- The first position at which p holds. -/
def findIdx {α : Type} (p : α → Bool) : List α → Nat → Option Nat
  | [], _ => none
  | x :: r, n => if p x then some n else findIdx p r (n + 1)

/-- The least number from n on, among the next fuel numbers, at which p holds. -/
def leastFrom (p : Nat → Bool) : Nat → Nat → Option Nat
  | _, 0 => none
  | n, fuel + 1 => if p n then some n else leastFrom p (n + 1) fuel

end Sys2Proof.Machine
end

