-- ==== Sys2Proof/Machine/Bits.lean ====
section
/-! DEFINITION. Bit fields, lane masks, sign extension, and the check code of a word (R102, R107). -/
namespace Sys2Proof.Machine

/-- Bits of a double word: n bits from lo up, as a number. -/
def fld (x : DWord) (lo n : Nat) : Nat := x.toNat / 2 ^ lo % 2 ^ n
/-- The sign extension to 64 bits (R52). -/
def sx {n : Nat} (x : BitVec n) : DWord := x.signExtend 64
/-- The lanes of a mask in ascending order. -/
def lanesOf (m : Mask) : List Nat := (List.range 32).filter (fun l => m.getLsbD l)
/-- One lane as a mask. -/
def laneBit (l : Nat) : Mask := BitVec.ofNat 32 (2 ^ l)
/-- The mask of the lanes at which p holds. -/
def maskOf (p : Nat → Bool) : Mask :=
  (List.range 32).foldl (fun m l => if p l then m ||| laneBit l else m) 0
/-- The lowest lane of a mask, if any. -/
def lowestLane (m : Mask) : Option Nat := (lanesOf m).head?
/-- The number of set bits (R325, R328). -/
def popcount {n : Nat} (x : BitVec n) : Nat := ((List.range n).filter (fun i => x.getLsbD i)).length
/-- Leading zero bits; the width of a zero (R325, R328). -/
def clz {n : Nat} (x : BitVec n) : Nat := n - (if x.toNat = 0 then 0 else Nat.log2 x.toNat + 1)
/-- Sign extension of a number of n bits to an integer. -/
def toSigned (n x : Nat) : Int := if x < 2 ^ (n - 1) then (x : Int) else (x : Int) - 2 ^ n

/-- One step of the CRC-8 of R102 with message bit b. -/
def crcBit (r : Nat) (b : Bool) : Nat :=
  if (decide (128 ≤ r)) != b then Nat.xor (r * 2 % 256) 7 else r * 2 % 256
/-- The CRC-8 over the n low bits of x, most significant first. -/
def crcBits (x : Nat) : Nat → Nat → Nat
  | 0, r => r
  | n + 1, r => crcBits x n (crcBit r (x / 2 ^ n % 2 == 1))
/-- CheckCode(w, off) (R102): the 46-bit message is the word and off[15:2]. -/
def checkCode (w : Word) (off : Nat) : Byte :=
  BitVec.ofNat 8 (crcBits (w.toNat * 2 ^ 14 + off / 4 % 2 ^ 14) 46 255)
/-- The poison code of a word (R102). -/
def poisonCode (w : Word) (off : Nat) : Byte := checkCode w off ^^^ 0x5A
/-- The code of a word that is poisoned or not (R101, R105). -/
def codeFor (w : Word) (poison : Bool) (off : Nat) : Byte :=
  if poison then poisonCode w off else checkCode w off
/-- Rekey(x) (R107). -/
def rekey (x : Nat) : Byte := BitVec.ofNat 8 (crcBits x 14 0)
/-- The code of a word moved from one offset to another (R107). -/
def rekeyCode (c : Byte) (old new : Nat) : Byte :=
  c ^^^ rekey (Nat.xor (old / 4 % 2 ^ 14) (new / 4 % 2 ^ 14))

/-- The pages and windows of the machine (R116, R284). -/
def frameBytes : Nat := 65536
/-- The first address of the reserve window (R116). -/
def reserveBase : Nat := 0x00FFFFFFFC000000
/-- A virtual address lies in the reserve window. The window holds 1,024 frames (R113, R116). -/
def inReserve (va : Nat) : Bool := decide (reserveBase ≤ va) && decide (va < reserveBase + 1024 * frameBytes)

end Sys2Proof.Machine
end

