-- ==== Sys2Proof/Machine/State.lean ====
section
/-! DEFINITION. The state of the device as plain data: everything the manual gives the machine, in one record, and the machine after reset. -/
namespace Sys2Proof.Machine

/-- Words and their codes in one space (R104): bytes by address, and a code byte by word number
(address / 4). An unlisted byte is zero; the code of an unlisted word is the valid code of zero. free lists the words that hold free values, each with the number of its
value (log entry 2). -/
structure Store where
  cells : List Host.Cell
  codes : List Host.Cell
  free : Tab Nat
  deriving DecidableEq, Repr

/-- The scalar registers and flags of one stream (R146): s1 to s63, a poison bit for each, f0 to f7. -/
structure SRegs where
  s : Tab DWord
  poison : DWord
  f : Byte
  deriving DecidableEq, Repr

/-- One address stream (R152). -/
structure AStream where
  base : DWord
  step : Word
  pitch : Nat
  space : Space
  deriving DecidableEq, Repr

/-- One lane's part of an operand-queue entry (R154): the word, its poison, the class of a pending check
event (0 none), the machine address of the word, the fault mark (kind, code, kept address), the range mark. -/
structure QLane where
  word : Word
  poison : Bool
  event : Nat
  ma : Nat
  fault : Option (Nat × Nat)
  va : DWord
  space : Space
  range : Bool
  deriving DecidableEq, Repr

/-- An enqueued lane block (R159): the offset, the mask, and whether the latches are lost before its first word (R171). -/
structure Block where
  off : Nat
  mask : Mask
  loss : Bool
  deriving DecidableEq, Repr

/-- What a re-executed lane word still has to do after tret or hret (R142, R143): its active lanes, those that execute
it again, whether it only continues after the word, the completed lane whose value a push carries, and whether the word has not been read yet,
so that its predicate field still narrows the lanes (R60). -/
structure Redo where
  active : Mask
  lanes : Mask
  skip : Bool
  done : Option (Nat × Word × Bool)
  unread : Bool := false
  deriving DecidableEq, Repr

/-- A lane path (R162): its program counter as a virtual address, its lanes, its innermost record, and what is left of a word that an entry interrupted. -/
structure Path where
  pc : DWord
  mask : Mask
  inner : Option Nat
  redo : Option Redo := none
  deriving DecidableEq, Repr

/-- A join record of the spill stack (R162). -/
structure JoinRec where
  join : DWord
  arrived : Mask
  outer : Option Nat
  park : Option (Path × Nat)
  deriving DecidableEq, Repr

/-- The state that a handler entry sets aside (R127, R172, R173). -/
structure LaneCtx where
  slots : Tab (Path × Nat)
  spill : Tab JoinRec
  blocks : List Block
  running : Bool
  q : Tab (List (List QLane))
  y : Tab (List (Word × Bool))
  a : Tab AStream
  deriving DecidableEq, Repr

/-- The arrival record (R222). -/
structure Arrival where
  addr : DWord
  phase : Bool
  set : Bool
  pending : Bool
  deriving DecidableEq, Repr

/-- Lane registers (R146): v and its poison by register * 32 + lane, predicates 1 to 7, and the latches with
their poison and valid bits. -/
structure LRegs where
  v : Tab (Word × Bool)
  p : Tab Mask
  latch : Tab (Word × Bool)
  valid : Tab Mask
  deriving DecidableEq, Repr

/-- The trap registers that an entry block saves (R122, R131). -/
structure TrapRegs where
  tcause : DWord
  tpc : DWord
  tmask : DWord
  tinfo : DWord
  tspc : DWord
  tctl : DWord
  deriving DecidableEq, Repr

/-- The lane word that an entry interrupted (R142, R143): the lanes of its path, which tell it from the group's others wherever it stands (R162), its active lanes,
the lanes that completed it, the lowest completed lane with the value a push carries, and whether the word itself has not been read. -/
structure WordMark where
  path : Mask
  active : Mask
  done : Mask
  push : Option (Nat × Word × Bool)
  unread : Bool := false
  deriving DecidableEq, Repr

/-- Set aside at a handler entry (R127, R173, R222, R396): the lane context, the arrival record, the copy counts, and
the lane word the entry interrupted, the bytes of the scalar
instruction that caused it (0 where none did), the number of the first free value that stands for the block's fields in device format (R131), and the entry registers
of the level it interrupted. -/
structure Aside where
  dev : Nat
  lane : LaneCtx
  arrival : Arrival
  k : Nat
  pending : List Nat
  tok : Nat
  level : Nat
  loss : Bool
  word : Option WordMark
  size : Nat
  fmask : Mask
  dmask : Mask
  frec : DWord
  hcause : DWord
  sframe : DWord
  deriving DecidableEq, Repr

/-- Why a parked group waits (R147). -/
inductive Wait where
  | copies (k : Nat)
  | batch (n : Nat)
  | barrier (team : Nat) (off : Nat) (phase : Bool)
  | word (d : Nat)
  deriving DecidableEq, Repr

/-- A scalar remote access whose reply is outstanding (R314); got is a reply that came while its registers were set aside or saved (R135). -/
structure Reply where
  slot : Nat
  reg : Nat
  width : MWidth
  tok : Nat
  req : Nat
  got : Option (DWord × Bool)
  deriving DecidableEq, Repr

/-- A translation fault as its record and its entry need it (R287 to R290): size is the bytes of the faulting scalar instruction,
mark the faulting lane word, level that of an engine operation's issue (0 for a group's own access), since the cycle of the fault where it waited for a
park slot (R282). -/
structure FaultInfo where
  level : Nat
  source : Nat
  kind : Nat
  access : Nat
  code : Nat
  fmask : Mask
  dmask : Mask
  instr : DWord
  width : Nat
  lanes : List (Nat × Nat × DWord)
  mark : Option WordMark
  size : Nat
  since : Option DWord
  deriving DecidableEq, Repr

/-- The states of a group context (R147). -/
inductive GState where
  | free | ready | active | parked | saved
  deriving DecidableEq, Repr

/-- One group (R146, R147, R122). level: 0 U, 1 H, 2 H2, 3 S. pleft is the cycle at which its pre-empt budget is spent, 0 outside pre-emption; preempt the
entry kind of a pre-emption that has not saved it yet. retries and want hold, for each stream (a slot of the lane stream, or 2 for the scalar stream), the words read
again and those that wait for it (R108); idle counts its cycles outside the active set (R168); issued, issuedLane and issuedMx are the steps of its last issue on a
scalar port, a lane pipe and a matrix engine (R175, R354); pairReady is the cycle at which its pair
became ready, pairMatch the group it has found there with the later of the two cycles, partner the group it is paired with (R359); privAt is where its lane-private slices begin in its core's SRAM (R103); dev is the
number of the first free value in the device-format fields of its forced block (R131). -/
structure Group where
  team : Nat
  idx : Nat
  ctx : Nat
  gstate : GState
  level : Nat
  sr : SRegs
  m : Tab Mask
  pc : DWord
  lane : LaneCtx
  lr : LRegs
  lossNext : Bool
  priv : Store
  utrap : DWord
  tr : TrapRegs
  fpen : DWord
  sticky : Tab Mask
  fmask : Mask
  dmask : Mask
  frec : DWord
  hcause : DWord
  sframe : DWord
  pleft : Nat
  preempt : Option Nat
  arrival : Arrival
  n : Nat
  batches : Tab (List Nat)
  k : Nat
  pending : List Nat
  tok : Nat
  pairReady : Option Nat
  pairMatch : Option (Nat × Nat)
  partner : Option Nat
  seq : Nat
  pairLost : Bool
  replies : List Reply
  acks : Nat
  wait : Option Wait
  retries : List (Nat × Nat × Word × Byte)
  want : List (Nat × Nat)
  uAside : Option (Aside)
  hAside : Option (Aside)
  h2Aside : Option (Aside)
  slotsHeld : List (Nat × Nat)
  pendingFault : Option FaultInfo
  coop : Bool
  wake : Nat
  issued : Nat
  issuedLane : Nat
  issuedMx : Nat
  idle : Nat
  privAt : Nat
  dev : Nat
  cls : Nat
  deriving DecidableEq, Repr

/-- The states of a team (R202). -/
inductive TState where
  | waiting | placed | exited | saved
  deriving DecidableEq, Repr

/-- One team (R202 to R212). commits counts its commits, and landing says that one is under way, some of its lines at their homes (R258). core is the physical core, 0 to 639; sramAt the offset of its scratchpad in that core's SRAM (R103); held words by
word number of the machine address. -/
structure Team where
  kernel : Nat
  idx : Nat
  tstate : TState
  core : Nat
  die : Option Nat
  run : Option Nat
  clean : Bool
  relaunch : Nat
  avoid : Option Nat
  sramAt : Nat
  sram : Store
  forced : Bool
  held : Tab (Word × Byte)
  atomics : List Nat
  released : List Nat
  commits : Nat
  landing : Bool
  deriving DecidableEq, Repr

/-- A launch record (R184). -/
structure LaunchRec where
  kernel : DWord
  teams : Nat
  flags : Nat
  ndeps : Nat
  reserved : Nat
  args : DWord
  completion : DWord
  deps : List DWord
  seq : DWord
  deriving DecidableEq, Repr

/-- A kernel descriptor (R200). -/
structure KDesc where
  entry : DWord
  laneBase : DWord
  groups : Nat
  max : Nat
  regs : Nat
  span : Nat
  scratch : Nat
  lanepriv : Nat
  stage : Nat
  reserved : Nat
  deriving DecidableEq, Repr

/-- The states of a kernel (R202). -/
inductive KState where
  | captured | admitted | running | draining | retired
  deriving DecidableEq, Repr

/-- One kernel. A captured child record waits for its dependences (R215). -/
structure Kernel where
  owner : Nat
  kstate : KState
  lrec : LaunchRec
  pos : Nat
  queue : Option Nat
  parent : Option Nat
  depth : Nat
  cls : Nat
  die : Nat
  desc : Option KDesc
  deriving DecidableEq, Repr

/-- The states of a work queue (R183). -/
inductive QState where
  | unbound | empty | ready | held | faulted
  deriving DecidableEq, Repr

/-- A work queue as the device holds it (R180 to R183). pub lists the positions whose sequence field stood when the tail word was written (R186). -/
structure Queue where
  qstate : QState
  owner : Nat
  header : DWord
  ring : DWord
  logCap : Nat
  cls : Nat
  refused : Nat
  fault : Nat
  faultVa : DWord
  pub : List DWord
  deriving DecidableEq, Repr

/-- An owner frame-map entry (R284): state 0 ABSENT, 1 PRESENT, 2 MOVING. -/
structure FEntry where
  st : Nat
  ty : Nat
  pinned : Bool
  move : Nat
  frame : Nat
  deriving DecidableEq, Repr

/-- A frame move (R285). -/
structure Move where
  owner : Nat
  ofi : Nat
  source : Nat
  target : Nat
  moved : List Nat
  retire : Bool
  deriving DecidableEq, Repr

/-- The states of a machine frame (R286). -/
inductive MState where
  | free | owned | source | scrub | retired
  deriving DecidableEq, Repr

/-- A walk routine as loaded (R274, R275): its words, its length in bytes, and its Root. -/
structure Routine where
  words : List Nat
  length : Nat
  root : DWord
  deriving DecidableEq, Repr

/-- A translation-cache entry (R280): the cache that holds it (a core by number, a cluster as 640 + its number), the owner, the first 64 KiB page, the walk's
result. -/
structure Tlb where
  unit : Nat
  owner : Nat
  page : Nat
  res : DWord
  deriving DecidableEq, Repr

/-- A run of a walk routine whose result other accesses share (R281): the owner, the page, the walk error or result word, the accesses that were in flight with it and have
still to take it, and whether it ended in this turn. -/
structure Flight where
  owner : Nat
  page : Nat
  err : Option Nat
  res : DWord
  late : List Nat
  now : Bool
  deriving DecidableEq, Repr

/-- A communicator (R315). -/
structure Comm where
  members : List (Nat × Nat)
  rank : Nat
  timeout : Nat
  contexts : Nat
  deriving DecidableEq, Repr

/-- An unanswered fgrow request (R296). -/
structure Fgrow where
  tier : Nat
  count : Nat
  word : DWord
  level : Nat
  deriving DecidableEq, Repr

/-- The states of an owner (R120, R125). -/
inductive OState where
  | free | built | ready | running | preempting | saved | stopping | stopped | teardown
  deriving DecidableEq, Repr

/-- One owner (R113, R120, R125, R136, R137, R291, R321). askedReserve is the reserve its driver has asked level S for (R198);
walkPaid what the walks of its pages that wait for the budget have paid, walkSaved what the device's own walks that wait for it have, walkDebt the cycles of its own walks
that ended unpaid, fillWaits how many of its own accesses met a spent memory budget (R115); vf the die of the
port that its virtual function is on (R412, R413). -/
structure Owner where
  ostate : OState
  reason : Nat
  seq : Nat
  frames : Nat
  reserve : Nat
  contexts : Nat
  walkBudget : Nat
  memBudget : Nat
  fabBudget : Nat
  copyBudget : Nat
  share : Nat
  encrypted : Bool
  hvec : DWord
  pvec : DWord
  rvec : DWord
  pbud : DWord
  wline : DWord
  spool : DWord
  fqbase : DWord
  fqcap : DWord
  fqhead : DWord
  fqtail : DWord
  records : Nat
  dies : Nat
  walkLeft : Nat
  walkPaid : List (Nat × Nat)
  walkSaved : Nat
  walkDebt : Nat
  fillWaits : Nat
  memLeft : Nat
  fabLeft : Nat
  copyLeft : Nat
  dry : Bool
  stopArg : Nat
  stopCycle : DWord
  further : Nat
  stopVa : DWord
  stopSpc : DWord
  stopFrame : DWord
  teardownNext : Bool
  routines : List Routine
  region : List Nat
  wdone : Nat
  wresult : Nat
  wsetup : Option (List Routine × List Nat)
  vreqst : DWord
  qbindst : DWord
  comst : DWord
  expst : DWord
  counters : Tab DWord
  comms : Tab Comm
  fgrows : List Fgrow
  fmap : Tab FEntry
  chip : Store
  carved : List (Nat × Nat)
  keySet : Bool
  askedReserve : Nat
  vf : Nat
  deriving DecidableEq, Repr

/-- A waiter of the wait-and-wake table (R229, R236). -/
structure Waiter where
  group : Nat
  level : Nat
  interrupted : Bool
  deriving DecidableEq, Repr

/-- An entry of a die's wait-and-wake table (R229): its key, and the machine address its word now has. -/
structure WEntry where
  die : Nat
  owner : Nat
  va : DWord
  ma : Nat
  waiters : List Waiter
  queues : List Nat
  deriving DecidableEq, Repr

/-- A copy operation (R387 to R392). next is the number of the next destination word, written how many have been written;
asked is how many words of the running chunk were requested through a fabric window, buf those that came; slot is the park slot that a faulted chunk
keeps until it completes, charged that the chunk has paid its copy unit, waits the fault that waits for a slot (R282, R390). -/
structure Copy where
  owner : Nat
  team : Nat
  group : Nat
  tok : Nat
  level : Nat
  cluster : Nat
  instr : DWord
  dst : DWord
  src : DWord
  dspace : Space
  sspace : Space
  row : Nat
  rows : Nat
  planes : Nat
  spitch : DWord
  dpitch : DWord
  splane : DWord
  dplane : DWord
  completion : DWord
  next : Nat
  written : Nat
  asked : Nat
  buf : Tab (Word × Byte)
  total : Nat
  fault : Option (FaultInfo × Nat)
  slot : Option Nat
  charged : Bool
  waits : Option FaultInfo
  delivered : Bool
  code : Nat
  detail : Nat
  deriving DecidableEq, Repr

/-- A contribution or result word held by a collective (R318). -/
structure CollWord where
  member : Nat
  element : Nat
  word : Word
  code : Byte
  deriving DecidableEq, Repr

/-- A collective operation at this device's member (R316 to R319). chunk is the element whose chunk has faulted and has not completed, and whether its delivery did (R282);
lost says that a port which its pair used has failed (R310). -/
structure Coll where
  owner : Nat
  team : Nat
  group : Nat
  tok : Nat
  level : Nat
  die : Nat
  instr : DWord
  header : List Byte
  op : Nat
  red : Nat
  fmt : Nat
  comm : Nat
  root : Nat
  count : Nat
  src : DWord
  dst : DWord
  completion : DWord
  seq : Nat
  switched : Bool
  lost : Bool
  got : List CollWord
  written : List Nat
  start : Nat
  sat : Bool
  failed : Bool
  fault : Option (FaultInfo × Nat)
  slot : Option Nat
  chunk : Option (Bool × Nat)
  waits : Option FaultInfo
  delivered : Bool
  deriving DecidableEq, Repr

/-- A request sent into the fabric and not yet answered (R305, R314). port is the port that its pair's route uses, and 64 more where that port has failed since; while it
is none the access waits at its port (R310, R312). agent tells the issuing agents of one unit apart; flits is what the access costs, its answer's among them, and sends those of its own; msg is the contribution that a
collective's access is, which has no answer; vpage the first 64 KiB page and
vlen the number of them in the page that it was translated by (R294). -/
structure OutReq where
  unit : Nat
  port : Option Nat
  flits : Nat
  sends : Nat
  agent : Nat
  group : Nat
  team : Nat
  owner : Nat
  tok : Nat
  kind : Nat
  frame : Nat
  off : Nat
  width : MWidth
  aop : AOp
  vpage : Nat
  vlen : Nat
  copy : Option (Nat × Nat)
  msg : Option CollMsg
  words : List (Word × Byte)
  b : DWord
  c : DWord
  poison : Bool
  tag : Nat
  retry : Bool
  deriving DecidableEq, Repr

/-- A matrix operation that has not written its C (R353, R354, R360): kind 0 vmma, 1 vmmas, 2 vmmap; the level context and the lanes of the path it
came from, and since when it waits. -/
structure MatrixOp where
  group : Nat
  tok : Nat
  path : Mask
  t0 : Nat
  kind : Nat
  fa : Fmt
  fb : Fmt
  d : Nat
  a : Nat
  b : Nat
  mask : Mask
  seq : Nat
  staged : Option (List (Word × Bool) × List (Word × Bool) × List Nat × List Nat)
  started : Bool
  out : List (Nat × Word × Bool)
  flags : List (Nat × Nat)
  deriving DecidableEq, Repr

/-- A bound-mirror slot (R225): the tag is the owner, the kernel and the set index. -/
structure Mirror where
  tag : Option (Nat × Nat × Nat)
  value : DWord
  deriving DecidableEq, Repr

/-- A push on its way to a mirror slot (R226), since a cycle; groups are those whose releases wait for it: the one whose bmin made it, and those whose bmin has found
its value (R425). -/
structure Push where
  core : Nat
  slot : Nat
  tag : Nat × Nat × Nat
  value : DWord
  groups : List Nat
  since : Nat
  deriving DecidableEq, Repr

/-- An error event (R399): class, source, owner (0 when unattributed), physical core, machine address, detail,
and the group that consumed the word. -/
structure Event where
  cls : Nat
  src : Nat
  owner : Nat
  core : Option Nat
  ma : Nat
  detail : Nat
  group : Option Nat
  die : Nat
  deriving DecidableEq, Repr

/-- A fabric port (R303, R406): state 0 DOWN, 1 TRAINING, 2 UP, 3 DEGRADED, 4 FAILED; sent is the link sequence number of its next flit (R304), trained the windows of 1 ms
that have begun since its training. -/
structure Port where
  st : Nat
  retries : Nat
  discards : Nat
  failing : Nat
  sent : Nat
  trained : Nat
  deriving DecidableEq, Repr

/-- The registers of one die (R400 to R410); replays and spoke: the timing replays of its cores in this window, and the cores that have raised their event in it
(R403). -/
structure Die where
  sev : Tab DWord
  elbase : DWord
  elcap : DWord
  elhead : DWord
  eltail : DWord
  trlim : DWord
  ports : Tab Port
  beats : Nat
  leader : Nat
  role : Nat
  svec : DWord
  pcfg : Nat
  pcmd : DWord
  pstat : Nat
  mint : Nat
  nbnd : Nat
  plim : Nat
  qto : Nat
  elect : Nat
  pcap : Nat
  cnt : Tab DWord
  replays : Tab Nat
  spoke : List Nat
  started : Bool
  deriving DecidableEq, Repr

/-- A frame transfer (R414). It has not started while a source entry is MOVING. frames lists what still has to be scrubbed: the place in the run and the machine frame. -/
structure Transfer where
  die : Nat
  source : Nat
  count : Nat
  sfirst : Nat
  tfirst : Nat
  tier : Nat
  target : Nat
  completion : Nat
  started : Bool
  frames : List (Nat × Nat)
  deriving DecidableEq, Repr

/-- A partition change that quiesces (R412, R413): op 1 merge, 2 split; the dies of the half; the split map's address; whether level S forces a split; the
budget window in which it began. -/
structure PChange where
  op : Nat
  dies : Nat
  map : Nat
  forced : Bool
  start : Nat
  deriving DecidableEq, Repr

/-- A walk that runs without an access that waits for it (R149, R281, R283, R295): owner, page, kind, level, and the caches that its result joins. -/
structure WalkReq where
  owner : Nat
  va : DWord
  kind : Nat
  level : Nat
  copy : Option Nat
  units : List Nat
  deriving DecidableEq, Repr

/-- A park slot that is taken (R282): the owner, and the accesses that wait in it, each with its kind and level (R295). -/
structure Park where
  owner : Nat
  pages : List (DWord × Nat × Nat)
  deriving DecidableEq, Repr

/-- What moves next (log entry 1): a word of a stream, a step of the device or of the world outside, a physical upset of a
stored word or of a cached copy of it (R108); a die's L2 takes a copy of a remote-home line (R254), a die's L2 fills sectors of an owner or writes them back (R115, R404),
accesses of an owner miss L1s of a die (R404), one line of a team's buffer lands ahead of the commit that a turn brings (R258),
a translation cache lets an entry go (R280), level S assigns the fabric device number (R302), a flit group that a port has sent again comes through
(R303). -/
inductive Turn where
  | scalar (g : Nat)
  | lane (g slot : Nat)
  | event (i : Instr)
  | upset (ma : Nat) (data : Word) (code : Byte)
  | badCopy (ma : Nat) (data : Word) (code : Byte)
  | remoteCopy (die ma : Nat)
  | sectors (die owner filled back : Nat)
  | misses (die owner n : Nat)
  | land (t line : Nat) (next : Turn)
  | tlbDrop (n : Nat)
  | deviceNumber (n : Nat)
  | resent (die n : Nat)
  | hostStore (addr : Nat) (wd : MWidth) (v : DWord)
  deriving DecidableEq, Repr

/-- Why the machine stops. Every one of these is safe: the model goes no further where the hardware would not be there at all. -/
inductive Fault where
  /-- Raised by step: the agenda names a group that cannot issue the word it is asked to issue or that does not exist, or an instruction that only a
  stream may issue. Safe. -/
  | noSuchAgent
  /-- Raised by a step of the device or of the world outside whose object is not in the state the step needs: the step cannot
  occur there (R147, R183, R202). Safe. -/
  | notEnabled
  deriving DecidableEq, Repr

/-- Why the model refuses. -/
inductive Refusal where
  /-- Raised by exec for an instruction that has no meaning in the model yet. Safe. -/
  | notModelled (mnemonic : String)
  deriving DecidableEq, Repr

/-- The driver's last finalisation (R199): the reason byte of its report and the index of the first failing record, or reason 0 with
the bytes of the two finalised code sections. -/
structure Finalised where
  reason : Nat
  index : Nat
  scode : List Byte
  lcode : List Byte
  deriving DecidableEq, Repr

/-- The whole device. The fields from agenda to evs are the MODEL's own (log entries 1 and 2): what moves next, how many
steps ran, the number of the next free value, the next fresh number, the group and slot that act, the events reported so far. remote holds the copies that
dies keep of lines with a home on another die, under line * 4 + die (R254); completions the last completion value that the device wrote to a double word, by its number
(R264). hostLines are the 64-byte lines
of host memory that the dies' L2s cache, under line * 4 + die, and whether they have written them (R255); hostData is what the last host read or atomic was given; finalised is the driver's last
finalisation (R199); strap is the partition strap that the PF boot status reports (R409). flight holds the walks whose results are shared and walkers the accesses whose walk waits, each with its owner and page (R281), routes the port that
the pairs of an agent and a destination device follow (R310), taken the queue from which a record was last taken in a class of a die, under die * 4 + class (R188),
plugs the hot-plug moves of virtual functions from die to die (R412, R413), requests the requests of
virtual functions that no leading service pair has answered (R408). -/
structure State where
  agenda : List Turn
  steps : Nat
  freeIdx : Nat
  nextId : Nat
  cur : Nat
  slot : Nat
  evs : List Event
  cycle : DWord
  window : Nat
  clockMHz : Nat
  capped : Bool
  mem : Store
  badCopies : Tab (Word × Byte)
  remote : Tab (List (Word × Byte))
  completions : Tab DWord
  hostMem : List Host.Cell
  hostLines : Tab Bool
  hostData : DWord
  finalised : Finalised
  strap : Nat
  mframes : Tab MState
  moves : Tab Move
  tlb : List Tlb
  flight : List Flight
  walkers : List (Nat × Nat × Nat)
  exports : Tab DWord
  fabricOut : Tab OutReq
  outbox : List FabricMsg
  collOut : List CollMsg
  interrupts : List (Nat × Nat)
  plugs : List (Nat × Nat × Nat)
  requests : List Instr
  routes : List ((Nat × Nat × Nat) × Nat)
  device : Nat
  owners : Tab Owner
  queues : Tab Queue
  taken : Tab Nat
  kernels : Tab Kernel
  teams : Tab Team
  groups : Tab Group
  waits : List WEntry
  copies : Tab Copy
  colls : Tab Coll
  matrix : Tab MatrixOp
  mirrors : Tab Mirror
  pushes : List Push
  walks : List WalkReq
  parks : Tab Park
  transfers : Tab Transfer
  pchanges : List PChange
  dieRegs : Tab Die
  deriving DecidableEq, Repr

/-! ## Reset -/

def Store.zero : Store := { cells := [], codes := [], free := [] }
def SRegs.zero : SRegs := { s := [], poison := 0, f := 0 }
def LaneCtx.empty : LaneCtx :=
  { slots := [], spill := [], blocks := [], running := false, q := [], y := [], a := [] }
def LRegs.zero : LRegs := { v := [], p := [], latch := [], valid := [] }
def Arrival.clear : Arrival := { addr := 0, phase := false, set := false, pending := false }
def TrapRegs.zero : TrapRegs := { tcause := 0, tpc := 0, tmask := 0, tinfo := 0, tspc := 0, tctl := 0 }

/-- A group context as spawn and placement leave it (R178, R206): every register zero, nothing set, level U. The trap and entry registers the
manual gives no value are zero (log entry 4). -/
def Group.init : Group :=
  { team := 0, idx := 0, ctx := 0, gstate := .free, level := 0, sr := .zero, m := [], pc := 0, lane := .empty,
    lr := .zero, lossNext := false, priv := .zero, utrap := 0, tr := .zero, fpen := 0, sticky := [],
    fmask := 0, dmask := 0, frec := 0, hcause := 0, sframe := 0, pleft := 0, preempt := none, arrival := .clear,
    n := 0, batches := [], k := 0, pending := [], tok := 0, pairReady := none, pairMatch := none, partner := none, seq := 0,
    pairLost := false, replies := [], acks := 0, wait := none, retries := [], want := [], uAside := none, hAside := none,
    h2Aside := none, slotsHeld := [], pendingFault := none, coop := false, wake := 0, issued := 0, issuedLane := 0, issuedMx := 0, idle := 0,
    privAt := 0, dev := 0, cls := 0 }

def Team.init : Team :=
  { kernel := 0, idx := 0, tstate := .waiting, core := 0, die := none, run := none, clean := true, relaunch := 0,
    avoid := none, sramAt := 0, sram := .zero, forced := false, held := [], atomics := [], released := [], commits := 0, landing := false }

def LaunchRec.zero : LaunchRec :=
  { kernel := 0, teams := 0, flags := 0, ndeps := 0, reserved := 0, args := 0, completion := 0, deps := [], seq := 0 }

def KDesc.zero : KDesc :=
  { entry := 0, laneBase := 0, groups := 1, max := 1, regs := 32, span := 1, scratch := 0, lanepriv := 0, stage := 0, reserved := 0 }

def Kernel.init : Kernel :=
  { owner := 0, kstate := .retired, lrec := .zero, pos := 0, queue := none, parent := none, depth := 1, cls := 0, die := 0, desc := none }

/-- An unbound queue (R180). -/
def Queue.init : Queue :=
  { qstate := .unbound, owner := 0, header := 0, ring := 0, logCap := 4, cls := 0, refused := 0, fault := 0, faultVa := 0, pub := [] }

def FEntry.absent : FEntry := { st := 0, ty := 0, pinned := false, move := 0, frame := 0 }

/-- A FREE owner: every field zero (R120). -/
def Owner.init : Owner :=
  { ostate := .free, reason := 0, seq := 0, frames := 0, reserve := 0, contexts := 0, walkBudget := 0, memBudget := 0, fabBudget := 0,
    copyBudget := 0, share := 0, encrypted := false, hvec := 0, pvec := 0, rvec := 0, pbud := 0, wline := 0, spool := 0,
    fqbase := 0, fqcap := 0, fqhead := 0, fqtail := 0, records := 0, dies := 0, walkLeft := 0, walkPaid := [], walkSaved := 0, walkDebt := 0, fillWaits := 0, memLeft := 0, fabLeft := 0,
    copyLeft := 0, dry := false, stopArg := 0, stopCycle := 0, further := 0, stopVa := 0, stopSpc := 0,
    stopFrame := 0, teardownNext := false, routines := [], region := [], wdone := 0, wresult := 0, wsetup := none,
    vreqst := 0, qbindst := 0, comst := 0, expst := 0, counters := [], comms := [], fgrows := [], fmap := [],
    chip := .zero, carved := [], keySet := false, askedReserve := 0, vf := 0 }

/-- A port as reset leaves it: DOWN (R406). -/
def Port.down : Port := { st := 0, retries := 0, discards := 0, failing := 0, sent := 0, trained := 0 }

/-- A severity register with one entry for every source (R400). -/
def sevAll (e : Nat) : DWord := BitVec.ofNat 64 (e * 0x1111111111111111)
/-- The default severity table (R400): log is 1, interrupt 2, kill 3, with rb 8 added. -/
def sevReset : Tab DWord :=
  [(1, sevAll 1), (2, sevAll 11), (3, sevAll 10), (4, sevAll 1), (5, sevAll 1), (6, sevAll 1), (7, sevAll 1), (8, sevAll 11),
   (9, sevAll 2), (10, sevAll 2), (12, sevAll 2), (13, sevAll 1), (14, sevAll 2)]

/-- The dies of die d's partition under a strap (R409). -/
def strapDies (strap d : Nat) : Nat :=
  match strap with
  | 1 => if d < 2 then 3 else 12
  | 2 => 15
  | _ => 2 ^ d
/-- The four stacks of each die of a mask: stack 4d + i of die d (R2, R410). -/
def stacksOf (dies : Nat) : Nat :=
  (List.range 4).foldl (fun m d => if dies / 2 ^ d % 2 = 1 then m + 15 * 16 ^ d else m) 0

/-- The registers of die d after a package reset (R400 to R410). The error-log registers, the service pair's role and c.svec have no
reset value in the manual: log entry 4. -/
def Die.reset (strap d : Nat) : Die :=
  { sev := sevReset, elbase := 0, elcap := 16, elhead := 0, eltail := 0, trlim := 65536, ports := [], beats := 0, leader := 0,
    role := if d = 0 then 2 else 1, svec := 0, pcfg := strapDies strap d, pcmd := 0, pstat := 0,
    mint := stacksOf (strapDies strap d), nbnd := strapDies strap d, plim := 0, qto := 100, elect := 0xE4, pcap := 3200,
    cnt := [], replays := [], spoke := [], started := true }

/-- The group number of the service pair of die d (R407, log entry 7). -/
def serviceGroup (d : Nat) : Nat := 2 ^ 20 + d
/-- The service pair of a die: a scalar stream at level S (R407). -/
def servicePair : Group := { Group.init with team := 2 ^ 30, gstate := .active, level := 3 }

/-- No finalisation yet. -/
def Finalised.none : Finalised := { reason := 0, index := 0, scode := [], lcode := [] }

/-- The machine right after reset with a strap (R409). -/
def State.resetWith (strap : Nat) : State :=
  { agenda := [], steps := 0, freeIdx := 0, nextId := 0, cur := serviceGroup 0, slot := 0, evs := [], cycle := 0, window := 0, clockMHz := 1800, capped := false,
    mem := .zero, badCopies := [], remote := [], completions := [], hostMem := [], hostLines := [], hostData := 0, finalised := .none, strap := strap, mframes := [], moves := [], tlb := [], flight := [], walkers := [], exports := [],
    fabricOut := [], outbox := [], collOut := [], interrupts := [], plugs := [], requests := [], routes := [], device := 0, owners := [], queues := [], taken := [], kernels := [], teams := [],
    groups := [(serviceGroup 0, servicePair), (serviceGroup 1, servicePair), (serviceGroup 2, servicePair),
      (serviceGroup 3, servicePair)],
    waits := [], copies := [], colls := [], matrix := [], mirrors := [], pushes := [], walks := [], parks := [], transfers := [],
    pchanges := [],
    dieRegs := [(0, .reset strap 0), (1, .reset strap 1), (2, .reset strap 2), (3, .reset strap 3)] }

/-- The machine right after reset (R409; the strap is the board's, log entry 4). -/
def State.reset : State := State.resetWith Config.strap

end Sys2Proof.Machine
end

