-- ==== Sys2Proof/Machine/Operands.lean ====
section
/-! DEFINITION. The operand forms of the scalar stream: s registers with their poison bits, flags, and the constants of S.I and S.X words (R51, R52, R98, R146, R326). -/
namespace Sys2Proof.Machine

/-- The value of s register n: s0 reads zero (R146). -/
def SRegs.get (r : SRegs) (n : Nat) : DWord := if n = 0 then 0 else tabGet 0 r.s n
/-- The poison bit of s register n: s0 is never poisoned (R98, R327). -/
def SRegs.bad (r : SRegs) (n : Nat) : Bool := n != 0 && r.poison.getLsbD n
/-- A double word with bit n set to b. -/
def setBit64 (x : DWord) (n : Nat) (b : Bool) : DWord :=
  if b then x ||| (1#64 <<< n) else x &&& ~~~(1#64 <<< n)
/-- The registers with value v and poison bit p in register n: a write to s0 is discarded (R51). -/
def SRegs.put (r : SRegs) (n : Nat) (v : DWord) (p : Bool) : SRegs :=
  if n = 0 then r else { r with s := tabPut r.s n v, poison := setBit64 r.poison n p }
/-- Flag n (R146). -/
def SRegs.flag (r : SRegs) (n : Nat) : Bool := r.f.getLsbD n
/-- The registers with flag n set to b. -/
def SRegs.putFlag (r : SRegs) (n : Nat) (b : Bool) : SRegs :=
  { r with f := if b then r.f ||| (1#8 <<< n) else r.f &&& ~~~(1#8 <<< n) }
/-- The 64-bit value of an s register with the low bits kept and bits [63:32] replaced (R326, lih). -/
def high32 (x : DWord) (k : Word) : DWord := k ++ x.extractLsb' 0 32
/-- The low bits of a double word at an access width, zero extended (R374). -/
def zextW (wd : MWidth) (x : DWord) : DWord :=
  match wd with
  | .b => (x.truncate 8).zeroExtend 64
  | .h => (x.truncate 16).zeroExtend 64
  | .w => (x.truncate 32).zeroExtend 64
  | .d => x
/-- Bytes of an access width (R68). -/
def widthBytes : MWidth → Nat
  | .b => 1 | .h => 2 | .w => 4 | .d => 8

end Sys2Proof.Machine
end

