-- ==== Sys2Proof/Machine/Flags.lean ====
section
/-! DEFINITION. Every condition that sets a flag or a predicate from integers, and the sticky exception flags of a lane (R63, R325, R328, R330). -/
namespace Sys2Proof.Machine

/-- An integer condition on two values of one width (R63). -/
def condHolds {n : Nat} (c : Cond) (a b : BitVec n) : Bool :=
  match c with
  | .eq => a == b
  | .ne => a != b
  | .lt => a.slt b
  | .ge => !(a.slt b)
  | .le => !(b.slt a)
  | .gt => b.slt a
  | .ltu => a.ult b
  | .geu => !(a.ult b)

/-- The sticky flags that one lane raises (R330, R331): bit 0 invalid, 1 divide by zero, 2 overflow, 3 underflow, 4 inexact, 5 saturation. -/
def fInv : Nat := 1
def fDz : Nat := 2
def fOf : Nat := 4
def fUf : Nat := 8
def fNx : Nat := 16
def fSat : Nat := 32

end Sys2Proof.Machine
end

