-- ==== Sys2Proof/Machine/Alu.lean ====
section
/-! DEFINITION. The scalar ALU: the value of each operation on 64 bits, and the instructions as functions of the registers, which the scalar stream and the walkers share (R277, R325 to R327). -/
namespace Sys2Proof.Machine.Alu

/-! ## Values (R325) -/
def mulh (a b : DWord) : DWord := BitVec.ofInt 64 (a.toInt * b.toInt / 2 ^ 64)
/-- Signed division, truncated toward zero; a zero divisor gives all ones. -/
def div (a b : DWord) : DWord := if b = 0 then -1 else BitVec.ofInt 64 (a.toInt.tdiv b.toInt)
def divu (a b : DWord) : DWord := if b = 0 then -1 else a / b
/-- The shift count of b (R325): bits [7:0]. -/
def count (b : DWord) : Nat := b.toNat % 256
def shl (a : DWord) (n : Nat) : DWord := if 64 ≤ n then 0 else a <<< n
def shr (a : DWord) (n : Nat) : DWord := if 64 ≤ n then 0 else a >>> n
def sar (a : DWord) (n : Nat) : DWord := a.sshiftRight (if 64 ≤ n then 63 else n)
def smin (a b : DWord) : DWord := if b.slt a then b else a
def smax (a b : DWord) : DWord := if a.slt b then b else a
def umin (a b : DWord) : DWord := if b.ult a then b else a
def umax (a b : DWord) : DWord := if a.ult b then b else a
def ext (n : Nat) (a : DWord) : DWord := sx (a.truncate n)

/-! ## Instructions on registers (R325 to R327) -/
/-- d := f a b, poisoned when a source is (R327). -/
def bin (f : DWord → DWord → DWord) (d a b : Nat) (r : SRegs) : SRegs :=
  r.put d (f (r.get a) (r.get b)) (r.bad a || r.bad b)
/-- d := f a k for a constant k. -/
def imm (f : DWord → DWord → DWord) (d a : Nat) (k : DWord) (r : SRegs) : SRegs :=
  r.put d (f (r.get a) k) (r.bad a)
/-- d := f a. -/
def un (f : DWord → DWord) (d a : Nat) (r : SRegs) : SRegs := r.put d (f (r.get a)) (r.bad a)
/-- d := a if flag f is set, else b; poisoned only if the selected register is (R327). -/
def sel (d a b f : Nat) (r : SRegs) : SRegs :=
  if r.flag f then r.put d (r.get a) (r.bad a) else r.put d (r.get b) (r.bad b)
/-- f := a cc b; none where a source is poisoned: trap 3 (R100, R327). -/
def cmp (cc : Cond) (f a : Nat) (b : DWord) (bad : Bool) (r : SRegs) : Option SRegs :=
  if r.bad a || bad then none else some (r.putFlag f (condHolds cc (r.get a) b))
/-- d := k, not poisoned. -/
def li (d : Nat) (k : DWord) (r : SRegs) : SRegs := r.put d k false
/-- d[63:32] := k, poison kept (R327). -/
def lih (d : Nat) (k : Word) (r : SRegs) : SRegs := r.put d (high32 (r.get d) k) (r.bad d)

/-- The operation of a major 0x0F minor on values (R326); cmp writes no register. -/
def wideVal : WideOp → DWord → DWord → DWord
  | .add, a, b => a + b | .sub, a, b => a - b | .mul, a, b => a * b | .and, a, b => a &&& b
  | .or, a, b => a ||| b | .xor, a, b => a ^^^ b | .min, a, b => smin a b | .max, a, b => smax a b
  | .minu, a, b => umin a b | .maxu, a, b => umax a b | .cmp _, a, _ => a
/-- A major 0x0F instruction (R326). -/
def wide (op : WideOp) (d a : Nat) (k : Word) (r : SRegs) : Option SRegs :=
  match op with
  | .cmp cc => cmp cc d a (sx k) false r
  | .add => some (imm (wideVal .add) d a (sx k) r) | .sub => some (imm (wideVal .sub) d a (sx k) r)
  | .mul => some (imm (wideVal .mul) d a (sx k) r) | .and => some (imm (wideVal .and) d a (sx k) r)
  | .or => some (imm (wideVal .or) d a (sx k) r) | .xor => some (imm (wideVal .xor) d a (sx k) r)
  | .min => some (imm (wideVal .min) d a (sx k) r) | .max => some (imm (wideVal .max) d a (sx k) r)
  | .minu => some (imm (wideVal .minu) d a (sx k) r) | .maxu => some (imm (wideVal .maxu) d a (sx k) r)

/-- What a walk routine's ALU instruction does to the registers (R277): none for an instruction outside the ALU majors
that a routine may use. -/
def walk (i : Instr) (r : SRegs) : Option SRegs :=
  match i with
  | .add d a b => some (bin (· + ·) d a b r) | .sub d a b => some (bin (· - ·) d a b r)
  | .mul d a b => some (bin (· * ·) d a b r) | .mulh d a b => some (bin mulh d a b r)
  | .div d a b => some (bin div d a b r) | .divu d a b => some (bin divu d a b r)
  | .and d a b => some (bin (· &&& ·) d a b r) | .or d a b => some (bin (· ||| ·) d a b r)
  | .xor d a b => some (bin (· ^^^ ·) d a b r)
  | .shl d a b => some (bin (fun x y => shl x (count y)) d a b r)
  | .shr d a b => some (bin (fun x y => shr x (count y)) d a b r)
  | .sar d a b => some (bin (fun x y => sar x (count y)) d a b r)
  | .min d a b => some (bin smin d a b r) | .max d a b => some (bin smax d a b r)
  | .minu d a b => some (bin umin d a b r) | .maxu d a b => some (bin umax d a b r)
  | .mov d a => some (un id d a r)
  | .clz d a => some (un (fun x => BitVec.ofNat 64 (clz x)) d a r)
  | .popc d a => some (un (fun x => BitVec.ofNat 64 (popcount x)) d a r)
  | .extB d a => some (un (ext 8) d a r) | .extH d a => some (un (ext 16) d a r) | .extW d a => some (un (ext 32) d a r)
  | .sel d a b f => some (sel d a b f r)
  | .cmp cc f a b => cmp cc f a (r.get b) (r.bad b) r
  | .addImm d a k => some (imm (· + ·) d a (sx k) r) | .mulImm d a k => some (imm (· * ·) d a (sx k) r)
  | .andImm d a k => some (imm (· &&& ·) d a (sx k) r) | .orImm d a k => some (imm (· ||| ·) d a (sx k) r)
  | .xorImm d a k => some (imm (· ^^^ ·) d a (sx k) r)
  | .shlImm d a k => some (un (fun x => shl x k) d a r) | .shrImm d a k => some (un (fun x => shr x k) d a r)
  | .sarImm d a k => some (un (fun x => sar x k) d a r)
  | .minImm d a k => some (imm smin d a (sx k) r) | .maxImm d a k => some (imm smax d a (sx k) r)
  | .minuImm d a k => some (imm umin d a (sx k) r) | .maxuImm d a k => some (imm umax d a (sx k) r)
  | .li d k => some (li d (sx k) r) | .cmpImm cc f a k => cmp cc f a (sx k) false r
  | .aluWide op d a k => wide op d a k r | .lih d k => some (lih d k r)
  | _ => none

end Sys2Proof.Machine.Alu
end

