-- ==== Sys2Proof/Machine/Access.lean ====
section
/-! DEFINITION. Accessors: every part of the state is read and written through these, and the identities that hold it together (R5, R146, R205). -/
namespace Sys2Proof.Machine

/-- The end of an instruction that does not complete: a trap (cause, arg), a translation fault, a fault on a reserve address beyond the
reserve, a wait in place, or the model stops. -/
inductive Stop where
  | trap (cause arg : Nat)
  | tfault (f : FaultInfo)
  | reserve (f : FaultInfo)
  | wait
  | fault (f : Fault)
  deriving DecidableEq, Repr

/-- Computations on the state that may end an instruction early, keeping what they did before. -/
abbrev M := EStateM Stop State

/-- The state is changed by f. -/
def upd (f : State → State) : M Unit := modify f
/-- The instruction ends with x unless the condition holds. -/
def need (b : Bool) (x : Stop) : M Unit := if b then pure () else throw x

/-! ## Parts of the state -/
def State.group (s : State) (g : Nat) : Group := tabGet Group.init s.groups g
def State.setGroup (s : State) (g : Nat) (x : Group) : State := { s with groups := tabPut s.groups g x }
def State.updGroup (s : State) (g : Nat) (f : Group → Group) : State := s.setGroup g (f (s.group g))
def State.team (s : State) (t : Nat) : Team := tabGet Team.init s.teams t
def State.setTeam (s : State) (t : Nat) (x : Team) : State := { s with teams := tabPut s.teams t x }
def State.updTeam (s : State) (t : Nat) (f : Team → Team) : State := s.setTeam t (f (s.team t))
def State.kernel (s : State) (k : Nat) : Kernel := tabGet Kernel.init s.kernels k
def State.setKernel (s : State) (k : Nat) (x : Kernel) : State := { s with kernels := tabPut s.kernels k x }
def State.owner (s : State) (o : Nat) : Owner := tabGet Owner.init s.owners o
def State.setOwner (s : State) (o : Nat) (x : Owner) : State := { s with owners := tabPut s.owners o x }
def State.updOwner (s : State) (o : Nat) (f : Owner → Owner) : State := s.setOwner o (f (s.owner o))
def State.queue (s : State) (q : Nat) : Queue := tabGet Queue.init s.queues q
def State.setQueue (s : State) (q : Nat) (x : Queue) : State := { s with queues := tabPut s.queues q x }
def State.die (s : State) (d : Nat) : Die := tabGet (Die.reset Config.strap d) s.dieRegs d
def State.setDie (s : State) (d : Nat) (x : Die) : State := { s with dieRegs := tabPut s.dieRegs d x }
def State.updDie (s : State) (d : Nat) (f : Die → Die) : State := s.setDie d (f (s.die d))
/-- The group that acts, and the state with that group changed. -/
def State.g (s : State) : Group := s.group s.cur
def State.updG (s : State) (f : Group → Group) : State := s.updGroup s.cur f
/-- The acting group with other scalar registers. -/
def State.setSr (s : State) (r : SRegs) : State := s.updG (fun g => { g with sr := r })

/-! ## Free values (log entry 2) -/
def State.freeWord (s : State) : Word × State := (Config.freeWord s.freeIdx, { s with freeIdx := s.freeIdx + 1 })
/-- The number of the first of n free values. -/
def State.freeRun (s : State) (n : Nat) : Nat × State := (s.freeIdx, { s with freeIdx := s.freeIdx + n })
/-- A fresh number for a new object. -/
def State.fresh (s : State) : Nat × State := (s.nextId, { s with nextId := s.nextId + 1 })

/-! ## Identities (R5, R205) -/
/-- The kernel of a team, with the descriptor's copy. -/
def State.kernelOf (s : State) (t : Nat) : Kernel := s.kernel (s.team t).kernel
def Kernel.d (k : Kernel) : KDesc := k.desc.getD KDesc.zero
def State.descOf (s : State) (t : Nat) : KDesc := (s.kernelOf t).d
/-- The owner a group runs for; 0 at level S (R7). -/
def State.ownerOf (s : State) (g : Nat) : Nat :=
  if (s.group g).level = 3 then 0 else (s.kernelOf (s.group g).team).owner
/-- The set index of a team, and its logical core (R204, R205). -/
def State.setOf (s : State) (t : Nat) : Nat := (s.team t).idx / (s.descOf t).span
def State.lcoreOf (s : State) (t : Nat) : Nat := (s.team t).idx % (s.descOf t).span
/-- The teams of a kernel, by number. -/
def State.teamsOf (s : State) (k : Nat) : List (Nat × Team) := s.teams.filter (fun t => t.2.kernel == k)
/-- The team on logical core c of team t's set (R205). -/
def State.teamAt (s : State) (t c : Nat) : Option Nat :=
  if (s.descOf t).span ≤ c then none else
  ((s.teamsOf (s.team t).kernel).find? (fun x => x.2.idx == s.setOf t * (s.descOf t).span + c)).map (·.1)
/-- The teams of team t's set. -/
def State.setTeams (s : State) (t : Nat) : List Nat :=
  ((s.teamsOf (s.team t).kernel).filter (fun x => x.2.idx / (s.descOf t).span == s.setOf t)).map (·.1)
/-- The live groups of a team: every context that is not FREE. -/
def State.groupsOf (s : State) (t : Nat) : List Nat :=
  (s.groups.filter (fun g => g.2.team == t && g.2.gstate != .free && g.2.level != 3)).map (·.1)
/-- The groups of an owner. -/
def State.groupsOfOwner (s : State) (o : Nat) : List Nat :=
  (s.groups.filter (fun g => g.2.gstate != .free && g.2.level != 3 && (s.kernelOf g.2.team).owner == o)).map (·.1)
/-- The teams of an owner. -/
def State.teamsOfOwner (s : State) (o : Nat) : List Nat :=
  (s.teams.filter (fun t => (s.kernelOf t.1).owner == o)).map (·.1)
/-- The physical die and cluster of a physical core (R2). -/
def dieOfCore (c : Nat) : Nat := c / (Config.clusters * Config.cores)
def clusterOfCore (c : Nat) : Nat := c / Config.cores
/-- The die on which a group runs. -/
def State.dieOf (s : State) (g : Nat) : Nat :=
  if (s.group g).level = 3 then g - serviceGroup 0 else dieOfCore (s.team (s.group g).team).core
/-- The dies of a mask, ascending. -/
def diesOf (m : Nat) : List Nat := (List.range 4).filter (fun d => m / 2 ^ d % 2 == 1)
/-- The die a machine address has its home on: stack 4d + i holds 64 GiB, so die d homes the addresses from d * 2^38 (R2, R252). -/
def homeDie (ma : Nat) : Nat := ma / 2 ^ 38 % 4
/-- The die whose service pair leads (R408). -/
def State.leaderDie (s : State) : Option Nat := (List.range 4).find? (fun d => (s.die d).role == 2)
/-- A pair leads: level S takes the steps that R4 gives it. With none, every level S request stays unanswered (R408). -/
def State.led (s : State) : Bool := s.leaderDie.isSome

/-- The clock of a group: the cycles in which it was in the active set (R168). -/
def State.clock (s : State) (g : Nat) : Nat := s.cycle.toNat - (s.group g).idle

/-! ## Masks, predicates, lane registers (R146) -/
/-- Mask k: m0 is all lanes (R51). -/
def Group.mask (g : Group) (k : Nat) : Mask := if k = 0 then -1 else tabGet 0 g.m k
def Group.putMask (g : Group) (k : Nat) (x : Mask) : Group := if k = 0 then g else { g with m := tabPut g.m k x }
/-- Predicate k: p0 is true in every lane (R146). -/
def LRegs.pred (r : LRegs) (k : Nat) : Mask := if k = 0 then -1 else tabGet 0 r.p k
def LRegs.putPred (r : LRegs) (k : Nat) (x : Mask) : LRegs := if k = 0 then r else { r with p := tabPut r.p k x }
/-- Register n of lane l: its value and poison bit (R98, R146). -/
def LRegs.get (r : LRegs) (n l : Nat) : Word × Bool := tabGet (0, false) r.v (n * 32 + l)
def LRegs.put (r : LRegs) (n l : Nat) (v : Word) (p : Bool) : LRegs := { r with v := tabPut r.v (n * 32 + l) (v, p) }
/-- Latch k of lane l, none where its valid bit is clear (R170). -/
def LRegs.getLatch (r : LRegs) (k l : Nat) : Option (Word × Bool) :=
  if (tabGet 0 r.valid k).getLsbD l then some (tabGet (0, false) r.latch (k * 32 + l)) else none
def LRegs.putLatch (r : LRegs) (k l : Nat) (v : Word) (p : Bool) : LRegs :=
  { r with latch := tabPut r.latch (k * 32 + l) (v, p), valid := tabPut r.valid k (tabGet 0 r.valid k ||| laneBit l) }
/-- Every latch loses its valid bits (R171). -/
def LRegs.loseLatches (r : LRegs) : LRegs := { r with valid := [] }

/-! ## Pre-emption (R132, R133) -/
/-- The group's pre-empt budget is spent at a cycle: its forced save comes before anything else of it (R121). -/
def Group.spent (x : Group) (now : DWord) : Bool := x.pleft != 0 && decide (x.pleft ≤ now.toNat)

/-! ## Owner status (R125) -/
def ostateCode : OState → Nat
  | .free => 0 | .built => 1 | .ready => 2 | .running => 3 | .preempting => 4 | .saved => 5 | .stopping => 6 | .stopped => 7
  | .teardown => 8
/-- c.ostat (R125). -/
def Owner.ostat (o : Owner) : DWord :=
  BitVec.ofNat 64 (o.seq * 2 ^ 32 + o.reason * 2 ^ 16 + ostateCode o.ostate)
/-- The owner has frames and registers to make requests with. -/
def Owner.alive (x : Owner) : Bool := x.ostate != .free && x.ostate != .teardown
/-- VF counter i counts n more (R404). -/
def Owner.count (o : Owner) (i n : Nat) : Owner :=
  { o with counters := tabPut o.counters i (tabGet 0 o.counters i + BitVec.ofNat 64 n) }
/-- Level S counter i of die d counts n more, and owner o's VF counter where it is attributed (R404). -/
def State.count (s : State) (d o i n : Nat) : State :=
  let s := s.updDie d (fun x => { x with cnt := tabPut x.cnt i (tabGet 0 x.cnt i + BitVec.ofNat 64 n) })
  if o = 0 then s else s.updOwner o (fun x => x.count i n)

/-- An error event of a group's own access joins the events of the instruction (R399). Its detail is the team, and for the CXL port the port's number, that of its die
(R402). -/
def State.report (s : State) (cls src ma : Nat) : State :=
  let g := s.cur
  let core := if (s.group g).level = 3 then none else some (s.team (s.group g).team).core
  let e : Event :=
    { cls := cls, src := src, owner := s.ownerOf g, core := core, ma := ma,
      detail := if src = 9 then s.dieOf g else (s.team (s.group g).team).idx, group := some g, die := s.dieOf g }
  { s with evs := s.evs ++ [e] }
/-- An error event of an engine or a port (R399). -/
def State.reportFor (s : State) (cls src owner ma detail die : Nat) : State :=
  let e : Event :=
    { cls := cls, src := src, owner := owner, core := none, ma := ma, detail := detail, group := none, die := die }
  { s with evs := s.evs ++ [e] }

end Sys2Proof.Machine
end

