-- ==== Sys2Proof/Machine/Mem.lean ====
section
/-! DEFINITION. Words in their homes: where a word of each space stands, its committed contents, and what a team sees over them (R103, R104, R210, R237). -/
namespace Sys2Proof.Machine

/-- Where an address leads once its space is resolved (R237, R239): device memory by machine address, host memory, a fabric
window, register space, a team's scratchpad, a lane's private slice, an owner's chip scratchpad (die * 2^30 + offset); offsets in the
SRAM of a core count from its beginning (R103). An access that its home refuses (R409, R416) reads ones or an open value, and writes nothing. -/
inductive Loc where
  | dev (ma : Nat)
  | host (ha : Nat) (coherent : Bool)
  | window (frame off : Nat)
  | regs (frame off : Nat)
  | sram (team off : Nat)
  | priv (group lane off : Nat)
  | chip (owner a : Nat)
  | closed (ma : Nat) (ones : Bool)
  deriving DecidableEq, Repr

/-- The word at byte address a (rounded down to a word) with its code (R104). -/
def Store.read (m : Store) (a : Nat) : Word × Byte :=
  match tabFind m.free (a / 4) with
  | some k => (Config.freeWord k, checkCode (Config.freeWord k) (a % 65536))
  | none => (BitVec.ofNat 32 (cellsRead m.cells (a / 4 * 4) 4), tabGet (checkCode 0 (a % 65536)) m.codes (a / 4))
/-- The byte at address a. -/
def Store.byte (m : Store) (a : Nat) : Byte :=
  match tabFind m.free (a / 4) with
  | some k => BitVec.ofNat 8 ((Config.freeWord k).toNat / 256 ^ (a % 4))
  | none => cellGet m.cells a
/-- The store with word w and code c at byte address a. -/
def Store.write (m : Store) (a : Nat) (w : Word) (c : Byte) : Store :=
  { cells := cellsWrite m.cells (a / 4 * 4) 4 w.toNat,
    codes := if c = checkCode 0 (a % 65536) then tabDel m.codes (a / 4) else tabPut m.codes (a / 4) c,
    free := tabDel m.free (a / 4) }
/-- The store with free value number k, and its code, in the word at byte address a (log entry 2). -/
def Store.lay (m : Store) (a k : Nat) : Store :=
  { cells := cellsWrite m.cells (a / 4 * 4) 4 0, codes := tabDel m.codes (a / 4), free := tabPut m.free (a / 4) k }
/-- The store with a free value in each of the words from a on: contents that are not preserved (R132). -/
def Store.loseFrom (m : Store) (a k : Nat) : Nat → Store
  | 0 => m
  | n + 1 => Store.loseFrom (m.lay a k) (a + 4) (k + 1) n
/-- The canonical form: strictly rising addresses, no zero byte listed, and no code listed that is the code of zero; rising words of free
values, none with a byte or a code beside it. -/
def Store.wf (m : Store) : Bool :=
  cellsWf m.cells && tabSorted m.codes && m.codes.all (fun c => c.2 != checkCode 0 (c.1 * 4 % 65536)) && tabSorted m.free &&
  m.free.all (fun e => (List.range 4).all (fun i => cellGet m.cells (e.1 * 4 + i) == 0) && (tabFind m.codes e.1).isNone)
/-- The form of the device memory of a state. -/
def Memory.wf (s : State) : Bool := s.mem.wf && cellsWf s.hostMem

/-- The byte offset that keys the code of a word at a place (R103, log entry 9). -/
def Loc.off : Loc → Nat
  | .dev ma => ma % 65536 | .host ha _ => ha % 65536 | .window _ o => o | .regs _ o => o
  | .sram _ o => o | .priv _ _ o => o | .chip _ a => a % 65536 | .closed ma _ => ma % 65536
/-- The place n bytes further on. -/
def Loc.plus (l : Loc) (n : Nat) : Loc :=
  match l with
  | .dev ma => .dev (ma + n) | .host ha c => .host (ha + n) c | .window f o => .window f (o + n) | .regs f o => .regs f (o + n)
  | .sram t o => .sram t (o + n) | .priv g k o => .priv g k (o + n) | .chip w a => .chip w (a + n)
  | .closed ma b => .closed (ma + n) b
/-- The byte of its word at which a place stands. -/
def Loc.byte (l : Loc) : Nat := l.off % 4
/-- The word that holds a place. -/
def Loc.word (l : Loc) : Loc :=
  match l with
  | .dev ma => .dev (ma / 4 * 4) | .host ha c => .host (ha / 4 * 4) c | .window f o => .window f (o / 4 * 4)
  | .regs f o => .regs f (o / 4 * 4) | .sram t o => .sram t (o / 4 * 4) | .priv g k o => .priv g k (o / 4 * 4)
  | .chip w a => .chip w (a / 4 * 4) | .closed ma b => .closed (ma / 4 * 4) b

/-- The committed word at a place with its code. Host memory has no code: its words carry the valid one (R110). A register-space
offset holds no register and reads as zero (R239, log entry 13). A refused word is all ones to another requester than the owner (R416), and open outside the partition's
boundary (R409, log entry 52). -/
def State.readLoc (s : State) (l : Loc) : Word × Byte :=
  match l with
  | .dev ma => s.mem.read ma
  | .host ha _ =>
    let w := BitVec.ofNat 32 (cellsRead s.hostMem (ha / 4 * 4) 4)
    (w, checkCode w (ha % 65536))
  | .window _ o => (0, checkCode 0 o)
  | .regs _ o => (0, checkCode 0 o)
  | .sram t o => (s.team t).sram.read o
  | .priv g _ o => (s.group g).priv.read o
  | .chip o a => (s.owner o).chip.read a
  | .closed ma ones =>
    let w : Word := if ones then -1 else Config.refusedWord (ma / 4)
    (w, checkCode w (ma % 65536))

/-- The word that a team sees at a place: its held word over the committed contents (R210). -/
def State.viewLoc (s : State) (t : Nat) (l : Loc) : Word × Byte :=
  match l with
  | .dev ma => (tabFind (s.team t).held (ma / 4)).getD (s.mem.read ma)
  | .host ha c => s.readLoc (.host ha c) | .window f o => s.readLoc (.window f o) | .regs f o => s.readLoc (.regs f o)
  | .sram u o => s.readLoc (.sram u o) | .priv g k o => s.readLoc (.priv g k o) | .chip w a => s.readLoc (.chip w a)
  | .closed ma b => s.readLoc (.closed ma b)

/-! ## Copies of remote-home lines (R254) -/
/-- A die takes a copy of a line from its home. -/
def State.fillCopy (s : State) (d ma : Nat) : State :=
  { s with remote := tabPut s.remote (ma / 512 * 4 + d) ((List.range 128).map (fun i => s.mem.read (ma / 512 * 512 + 4 * i))) }
/-- The word at ma in a die's copy of its line. -/
def State.copyWord (s : State) (d ma : Nat) : Option (Word × Byte) :=
  (tabFind s.remote (ma / 512 * 4 + d)).bind (fun ws => ws[ma / 4 % 128]?)
/-- A store's word changes the copy that its agent's die holds. -/
def State.copyPut (s : State) (d : Nat) (l : Loc) (w : Word) (c : Byte) : State :=
  match l with
  | .dev ma =>
    (match tabFind s.remote (ma / 512 * 4 + d) with
     | none => s
     | some ws => { s with remote := tabPut s.remote (ma / 512 * 4 + d) (ws.set (ma / 4 % 128) (w, c)) })
  | .host _ _ => s | .window _ _ => s | .regs _ _ => s | .sram _ _ => s | .priv _ _ _ => s | .chip _ _ => s | .closed _ _ => s
/-- A die drops every copy, its copy of one line, or every die drops its copy of that line. -/
def State.dropCopies (s : State) (d : Nat) : State := { s with remote := s.remote.filter (fun e => e.1 % 4 != d) }
def State.dropCopy (s : State) (d ma : Nat) : State := { s with remote := s.remote.filter (fun e => e.1 != ma / 512 * 4 + d) }
def State.dropLine (s : State) (ma : Nat) : State := { s with remote := s.remote.filter (fun e => e.1 / 4 != ma / 512) }

/-- The word as it first reaches a consumer of group g: its team's held word; else a damaged cached copy of the word, else the copy of a remote-home line that
its die holds, else the home's word (R106, R108, R210, R254; log entry 5). -/
def State.firstRead (s : State) (g : Nat) (l : Loc) : Word × Byte :=
  match l with
  | .dev ma =>
    (tabFind (s.team (s.group g).team).held (ma / 4)).getD
      ((tabFind s.badCopies (ma / 4)).getD ((s.copyWord (s.dieOf g) ma).getD (s.mem.read ma)))
  | .host ha c => s.readLoc (.host ha c) | .window f o => s.readLoc (.window f o) | .regs f o => s.readLoc (.regs f o)
  | .sram u o => s.readLoc (.sram u o) | .priv g k o => s.readLoc (.priv g k o) | .chip w a => s.readLoc (.chip w a)
  | .closed ma b => s.readLoc (.closed ma b)

/-- The bytes i to i + n - 1 of word w replaced by the low bytes of x (R109). -/
def mergeBytes (w : Word) (i n : Nat) (x : Nat) : Word :=
  BitVec.ofNat 32 (w.toNat % 2 ^ (8 * i) + (x % 2 ^ (8 * n)) * 2 ^ (8 * i) + w.toNat / 2 ^ (8 * (i + n)) * 2 ^ (8 * (i + n)))

/-- A word written at its place without any effect beside the storage. Writes to register space are ignored (R239). -/
def State.putLoc (s : State) (l : Loc) (w : Word) (c : Byte) : State :=
  match l with
  | .dev ma => { s with mem := s.mem.write ma w c, badCopies := tabDel s.badCopies (ma / 4) }
  | .host ha _ => { s with hostMem := cellsWrite s.hostMem (ha / 4 * 4) 4 w.toNat }
  | .window _ _ => s
  | .regs _ _ => s
  | .sram t o => s.updTeam t (fun x => { x with sram := x.sram.write o w c })
  | .priv g _ o => s.updGroup g (fun x => { x with priv := x.priv.write o w c })
  | .chip o a => s.updOwner o (fun x => { x with chip := x.chip.write a w c })
  | .closed _ _ => s

/-- A word is delivered poisoned when its code is the poison code, correct when it is the check code (R108). -/
def codeOk (w : Word) (c : Byte) (off : Nat) : Bool := c == checkCode w off
def codePoison (w : Word) (c : Byte) (off : Nat) : Bool := c == poisonCode w off

/-! ## The frame map (R284, R285) -/
/-- The stack of a device HBM frame: stack 4d + i holds 2^20 frames, and the frames from 2^24 on are those of the second tier, which holds up to 8 TiB (R2, R252; log entry 27). -/
def frameStack (f : Nat) : Nat := f / 2 ^ 20
/-- A frame that may be granted or be the target of a move, of a tier, for a partition that has these stacks (R285, R286, R410, R414). -/
def frameFits (tier mint f : Nat) : Bool :=
  if tier = 0 then decide (f < 2 ^ 24) && mint / 2 ^ frameStack f % 2 == 1 else decide (2 ^ 24 ≤ f) && decide (f < 2 ^ 24 + 2 ^ 27)
/-- The machine frame that holds an offset of a present or moving entry: a moved line is in the target frame. -/
def State.frameAt (s : State) (e : FEntry) (off : Nat) : Nat :=
  if e.st = 2 then
    let mv := tabGet { owner := 0, ofi := 0, source := e.frame, target := e.frame, moved := [], retire := false } s.moves e.move
    if mv.moved.contains (off / 512) then mv.target else mv.source
  else e.frame
/-- The device frame f holds data of an owner whose memory is encrypted, as an entry's frame or as the target of its move (R111, R285, R416). -/
def State.sealedBy (s : State) (f : Nat) : Option Nat :=
  (s.owners.find? (fun o => o.2.encrypted && o.2.fmap.any (fun e => e.2.st != 0 && decide (e.2.ty ≤ 1) &&
    (e.2.frame == f || (e.2.st == 2 && s.moves.any (fun m => m.1 == e.2.move && m.2.target == f)))))).map (fun o => o.1)
/-- The home of a device frame admits the accesses of a die: its partition's boundary names that die (R409). The manual gives a second-tier frame no die: it is
outside no boundary (log entry 52). -/
def State.admits (s : State) (d ma : Nat) : Bool := decide (2 ^ 40 ≤ ma) || (s.die (homeDie ma)).nbnd / 2 ^ d % 2 == 1
/-- The place of a device frame's word for an owner, which the boundary refuses from outside its partition (R409). -/
def State.devPlace (s : State) (o ma : Nat) : Loc := if s.admits ((diesOf (s.owner o).dies).headD 0) ma then .dev ma else .closed ma false
/-- The place of a machine address for level S on a die: another requester than an encrypted owner's own (R416), and refused from outside the partition (R409). -/
def State.machinePlace (s : State) (d ma : Nat) : Loc :=
  if (s.sealedBy (ma / 65536)).isSome then .closed ma true else if s.admits d ma then .dev ma else .closed ma false
/-- The place of an offset in an owner's frame; none where the entry is ABSENT or at or above Frames (R271). -/
def State.ownerLoc (s : State) (o ofi off : Nat) : Option (Loc × Nat) :=
  let w := s.owner o
  let e := tabGet FEntry.absent w.fmap ofi
  if w.frames ≤ ofi || e.st = 0 then none
  else
    let f := s.frameAt e off
    match e.ty with
    | 0 => some (s.devPlace o (f * 65536 + off), 0)
    | 1 => some (s.devPlace o (f * 65536 + off), 1)
    | 2 => some (.host (f * 65536 + off) true, 2)
    | 3 => some (.host (f * 65536 + off) false, 3)
    | 4 => some (.window e.frame off, 4)
    | _ => some (.regs e.frame off, 5)
/-- The place of an offset in an owner's reserve, for the device's own reads and writes of records, save frames and queues (R116). -/
def State.reserveLoc (s : State) (o va : Nat) : Loc :=
  match s.ownerLoc o ((va - reserveBase) / 65536) (va % 65536) with
  | some (l, _) => l
  | none => .regs 0 (va % 65536)

end Sys2Proof.Machine
end

