-- ==== Sys2Proof/Machine/Xlate.lean ====
section
/-! DEFINITION. Translation: the walkers and the walk routines, the translation caches, the reserve window, and the frame map (R116, R271 to R284). -/
namespace Sys2Proof.Machine

/-! ## Consuming a word at its home (R108) -/
/-- How a consumer that reads the home receives a word: the word, whether it is poisoned, and the class of the event (0 none). A retry reads
the same home copy, so a wrong code stays wrong. -/
def consume (w : Word) (c : Byte) (off : Nat) : Word × Bool × Nat :=
  if codeOk w c off then (w, false, 0) else if codePoison w c off then (w, true, 3) else (w, true, 2)

/-! ## A walk (R276 to R279) -/
/-- How a walk ends: with a result word, or a walk error. -/
inductive WalkEnd where
  | result (r : DWord)
  | error (sub : Nat)
  deriving DecidableEq, Repr

/-- A walk in progress: registers, byte offset in the routine, cycles spent. -/
structure Walker where
  r : SRegs
  pc : Nat
  cycles : Nat
  deriving DecidableEq, Repr

/-- An owner-physical load of n words (R277, R278): the words, or a subcode, with the state after any event. -/
def walkLoad (s : State) (o : Nat) (ea : DWord) : Nat → (Except Nat Nat) × State
  | 0 => (.ok 0, s)
  | n + 1 =>
    match s.ownerLoc o (fld ea 16 26) (fld ea 0 16) with
    | none => (.error 2, s)
    | some (l, ty) =>
      if 2 ≤ ty then (.error 2, s)
      else
        let (w, c) := s.readLoc l
        let (v, bad, cls) := consume w c l.off
        let s := if cls = 0 then s else s.reportFor cls 5 o (match l with | .dev ma => ma | _ => 0) 0 (s.dieOf s.cur)
        if bad then (.error 3, s)
        else
          match walkLoad s o (ea + 4) n with
          | (.ok x, s') => (.ok (v.toNat + 2 ^ 32 * x), s')
          | (.error e, s') => (.error e, s')

/-- What one instruction of a routine does (R277): the walker goes on, or the walk ends. -/
def walkExec (s : State) (o : Nat) (w : Walker) (i : Instr) : (Except WalkEnd Walker) × State :=
  let next (r : SRegs) (n : Nat) : (Except WalkEnd Walker) × State := (.ok { w with r := r, pc := w.pc + n }, s)
  let jump (disp : DWord) : (Except WalkEnd Walker) × State :=
    let t := (w.pc : Int) + 4 * disp.toInt
    if 0 ≤ t then (.ok { w with pc := t.toNat }, s) else (.error (.error 1), s)
  let load (d a : Nat) (k : BitVec 13) (n : Nat) : (Except WalkEnd Walker) × State :=
    let ea := w.r.get a + sx k
    if fld ea 42 22 ≠ 0 then (.error (.error 2), s)
    else if ea.toNat % (4 * n) ≠ 0 then (.error (.error 6), s)
    else
      match walkLoad s o ea n with
      | (.ok x, s') => (.ok { w with r := w.r.put d (BitVec.ofNat 64 x) false, pc := w.pc + 4 }, s')
      | (.error e, s') => (.error (.error e), s')
  match Alu.walk i w.r with
  | some r => next r (wordBytes i)
  | none =>
    match i with
    | .nop => next w.r 4
    | .br k => jump (sx k)
    | .bc f neg k => if w.r.flag f != neg then jump (sx k) else next w.r 4
    | .loop d k =>
      let v := w.r.get d - 1
      let r := w.r.put d v false
      if v != 0 then
        let t := (w.pc : Int) + 4 * (sx k).toInt
        if 0 ≤ t then (.ok { w with r := r, pc := t.toNat }, s) else (.error (.error 1), s)
      else next r 4
    | .ret a => if w.r.get a == Config.walkEnd then (.error (.result (w.r.get 1)), s) else (.error (.error 6), s)
    | .ldW d a k => load d a k 1
    | .ldD d a k => load d a k 2
    | _ => (.error (.error 1), s)

/-- A walk of at most fuel instructions: its end, the cycles it spent, and the state after its events (R278). -/
def walkRun (s : State) (o : Nat) (rt : Routine) (w : Walker) : Nat → WalkEnd × Nat × State
  | 0 => (.error 4, w.cycles, s)
  | fuel + 1 =>
    if w.pc % 4 ≠ 0 || rt.length ≤ w.pc then (.error 1, w.cycles, s)
    else
      let w0 := rt.words.getD (w.pc / 4) 0
      if Dec.isWide w0 && decide (rt.length ≤ w.pc + 4) then (.error 1, w.cycles, s)
      else
        match Dec.decodeScalar w0 (rt.words.getD (w.pc / 4 + 1) 0) with
        | .illegal _ => (.error 1, w.cycles, s)
        | .ok i =>
          let w := { w with cycles := w.cycles + 1 }
          let (r, s') := walkExec s o w i
          if Config.walkLimit < w.cycles then (.error 4, w.cycles, s')
          else
            match r with
            | .ok w' => walkRun s' o rt w' fuel
            | .error e => (e, w.cycles, s')

/-- The registers a routine finds (R276). -/
def walkEntry (rt : Routine) (va kind lvl : Nat) : Walker :=
  { r := { s := [(1, BitVec.ofNat 64 va), (2, BitVec.ofNat 64 (kind % 4)), (3, rt.root), (4, BitVec.ofNat 64 (min lvl 1)),
      (63, Config.walkEnd)], poison := 0, f := 0 }, pc := 0, cycles := 0 }

/-! ## Translation (R271, R279, R280) -/
/-- What a translation gives: a place with its frame type, owner frame index and offset; a fault of a kind with its code; trap 14; a
reserve address beyond the reserve; or a wait for the walk budget. -/
inductive XRes where
  | ok (l : Loc) (ty ofi off : Nat)
  | fault (kind code : Nat)
  | range
  | beyond
  | wait
  deriving DecidableEq, Repr

/-- The permission check of R279: kind 0 read, 1 write, 2 atomic, 3 fetch; level 0 also needs U. Kinds 4 to 6 are the host's reads, writes
and atomics, which R279 and R431 do not name: no check (log entry 12). -/
def permOk (res : DWord) (kind lvl : Nat) : Bool :=
  (match kind with
   | 0 => res.getLsbD 0
   | 1 => res.getLsbD 1
   | 2 => res.getLsbD 0 && res.getLsbD 1
   | 3 => res.getLsbD 3
   | _ => true) && (lvl != 0 || res.getLsbD 2)
/-- The layout of a result with valid = 1 (R278, R279). -/
def resultOk (res : DWord) (frames : Nat) : Bool :=
  let n := fld res 56 5
  fld res 61 2 == 0 && fld res 42 14 == 0 && fld res 4 12 == 0 && decide (n ≤ 14) && fld res 16 26 % 2 ^ n == 0
    && decide (fld res 16 26 + 2 ^ n ≤ frames)
/-- The translation caches that a group's accesses use: its core's, and its cluster's as 640 + its number (R280). Level S translates nothing (R7). -/
def State.caches (s : State) (g : Nat) : List Nat :=
  let c := (s.team (s.group g).team).core
  if (s.group g).level = 3 then [] else [c, 640 + clusterOfCore c]
/-- The entries a translation cache holds (R2, R280). -/
def cacheSize (u : Nat) : Nat := if u < 640 then Config.coreEntries else Config.clusterEntries
/-- The entries with no more than n of one cache: its newest. -/
def keepNew (u : Nat) : Nat → List Tlb → List Tlb
  | _, [] => []
  | 0, e :: r => if e.unit = u then keepNew u 0 r else e :: keepNew u 0 r
  | n + 1, e :: r => if e.unit = u then e :: keepNew u n r else e :: keepNew u (n + 1) r
/-- An owner's page joins some caches; a full one lets its oldest entry go (R280 specifies no replacement: log entry 5). -/
def State.cachePage (s : State) (us : List Nat) (o page : Nat) (res : DWord) : State :=
  us.foldl (fun s u =>
    let rest := s.tlb.filter (fun e => !(e.unit == u && e.owner == o && e.page == page))
    { s with tlb := { unit := u, owner := o, page := page, res := res } :: keepNew u (cacheSize u - 1) rest }) s
/-- The entry that some caches hold of an owner's page (R280). -/
def State.tlbFind (s : State) (us : List Nat) (o page : Nat) : Option Tlb :=
  s.tlb.find? (fun e => us.contains e.unit && e.owner == o && decide (e.page ≤ page) && decide (page < e.page + 2 ^ (fld e.res 56 5)))
/-- What a result gives for one access (R271). -/
def State.applyResult (s : State) (o : Nat) (res : DWord) (va kind lvl : Nat) : XRes :=
  let ofi := fld res 16 26 + va / 65536 % 2 ^ (fld res 56 5)
  if !permOk res kind lvl then .fault 2 0
  else match s.ownerLoc o ofi (va % 65536) with
    | some (l, ty) => .ok l ty ofi (va % 65536)
    | none => .fault 6 0
/-- The owner's walk budget pays for a walk of n cycles of a page, over as many windows as it takes (R115, R278). -/
def State.payWalk (s : State) (o page n : Nat) : Bool × State :=
  let w := s.owner o
  let p := tabGet 0 w.walkPaid page
  if n ≤ p + w.walkLeft then
    (true, (s.updOwner o (fun x => { x with
      walkLeft := x.walkLeft - (n - p), walkPaid := tabDel x.walkPaid page, dry := x.dry || x.walkLeft == n - p })).count (s.dieOf s.cur) o 25 n)
  else (false, s.updOwner o (fun x => { x with walkPaid := tabPut x.walkPaid page (p + x.walkLeft), walkLeft := 0, dry := true }))
/-- A walk of the device's own pays: with what such walks have saved, then out of the window's budget. What neither covers is a debt, for which the turn is held back
(R115, R431; log entry 5). -/
def State.oweWalk (s : State) (o n : Nat) : State :=
  (s.updOwner o (fun x =>
    let m := n - x.walkSaved
    { x with
      walkSaved := x.walkSaved - n, walkLeft := x.walkLeft - m, walkDebt := x.walkDebt + (m - x.walkLeft),
      dry := x.dry || (decide (0 < m) && decide (x.walkLeft ≤ m)) })).count (s.dieOf s.cur) o 25 n
/-- An owner whose memory budget is spent: an access that its L2 would have to fill for waits, and whether it would the manual does not fix (R115; log entry 5). -/
def State.fillWait (s : State) (o : Nat) : Bool × State :=
  if (s.owner o).memLeft = 0 then (Config.freeBit s.freeIdx, { s with freeIdx := s.freeIdx + 1 }) else (false, s)
/-- The same for an access to a place. -/
def State.fillHeld (s : State) (o : Nat) (l : Loc) : Bool × State :=
  match l with
  | .dev _ => s.fillWait o
  | .host _ _ => (false, s) | .window _ _ => (false, s) | .regs _ _ => (false, s) | .sram _ _ => (false, s) | .priv _ _ _ => (false, s)
  | .chip _ _ => (false, s) | .closed _ _ => (false, s)
/-- An access of the device's own that waits for the memory budget, for which the turn is held back (R115). -/
def State.noteWait (s : State) (o : Nat) (w : Bool) : State := if w then s.updOwner o (fun x => { x with fillWaits := x.fillWaits + 1 }) else s
/-- The end of an owner's walk of a page (R271, R274, R278): its cycles and the state after its events. A page with no routine ends in error 0 with none. -/
def State.runWalk (s : State) (o va kind lvl : Nat) : WalkEnd × Nat × State :=
  match ((s.owner o).region[va / 2 ^ 48]?).bind (fun j => (s.owner o).routines[j]?) with
  | none => (.error 0, 0, s)
  | some rt => walkRun s o rt (walkEntry rt va kind lvl) (Config.walkLimit + 1)
/-- The result of an owner's walk for an access, charged to its walk budget; none while the budget does not pay, or the memory budget keeps its loads waiting (R115, R271,
R278). -/
def State.walkFor (s : State) (o va kind lvl : Nat) : (Option WalkEnd) × State :=
  let r := s.runWalk o va kind lvl
  if r.2.1 = 0 then (some r.1, r.2.2)
  else if (s.fillWait o).1 then (none, (s.fillWait o).2)
  else if (s.payWalk o (va / 65536) r.2.1).1 then (some r.1, (r.2.2.payWalk o (va / 65536) r.2.1).2)
  else (none, (s.payWalk o (va / 65536) r.2.1).2)
/-- The accesses whose walk of a page waits, except one (R281). -/
def State.walkersOf (s : State) (o page me : Nat) : List Nat :=
  (s.walkers.filter (fun w => w.1 == o && w.2.1 == page && w.2.2 != me)).map (fun w => w.2.2)
/-- A walk as the state keeps its end for the other accesses that are in flight to its page: those of the same turn, and those that wait (R281). -/
def State.noteWalk (s : State) (o page me : Nat) (e : WalkEnd) : State :=
  { s with
    flight := { owner := o, page := page, err := (match e with | .error n => some n | .result _ => none), res := (match e with | .error _ => 0 | .result r => r),
                late := s.walkersOf o page me, now := true } :: s.flight
    walkers := s.walkers.filter (fun w => !(w.1 == o && w.2.1 == page)) }
/-- An access that waits for a walk of its page. -/
def State.awaitWalk (s : State) (o page me : Nat) : State :=
  if s.walkers.contains (o, page, me) then s else { s with walkers := (o, page, me) :: s.walkers }
/-- The walk whose result an access shares (R281). -/
def Flight.serves (f : Flight) (o page me : Nat) : Bool := f.owner == o && f.page == page && (f.now || f.late.contains me)
/-- An access has taken the result that waited for it. -/
def State.takeFlight (s : State) (o page me : Nat) : State :=
  { s with flight := s.flight.map (fun f => if f.serves o page me then { f with late := f.late.filter (fun x => x != me) } else f) }
/-- The walk of an access: the run of the routine that another access to the same page in flight with it has ended, or one of its own (R281). -/
def State.sharedWalk (s : State) (o va kind lvl me : Nat) : (Option WalkEnd) × State :=
  match s.flight.find? (fun f => f.serves o (va / 65536) me) with
  | some f => (some (match f.err with | some n => .error n | none => .result f.res), s.takeFlight o (va / 65536) me)
  | none =>
    match s.walkFor o va kind lvl with
    | (some e, s') => (some e, s'.noteWalk o (va / 65536) me e)
    | (none, s') => (none, s'.awaitWalk o (va / 65536) me)
/-- What tells the accesses that wait for walks apart: the group, or for an engine its cluster. -/
def State.walker (s : State) (us : List Nat) : Nat := if us.headD 640 < 640 then s.cur else 2 ^ 40 + us.headD 0
/-- A translation that needs no walk (R7, R116): level S addresses are machine addresses (log entry 7), and the reserve window has its own frames. -/
def State.direct (s : State) (o va lvl : Nat) : Option XRes :=
  if lvl = 3 then some (if va < 2 ^ 48 then .ok (s.machinePlace (s.dieOf s.cur) va) 0 0 (va % 65536) else .range)
  else if 2 ^ 56 ≤ va then some .range
  else if inReserve va then
    let i := (va - reserveBase) / 65536
    some (if lvl = 0 then .fault 5 0
      else if (s.owner o).reserve ≤ i then .beyond
      else match s.ownerLoc o i (va % 65536) with
        | some (l, ty) => .ok l ty i (va % 65536)
        | none => .fault 6 0)
  else none
/-- What the end of a walk gives an access; a result that serves it joins some caches (R271, R278 to R280). -/
def State.endWalk (s : State) (us : List Nat) (o va kind lvl : Nat) : WalkEnd → XRes × State
  | .error 0 => (.fault 4 0, s)
  | .error n => (.fault 3 n, s)
  | .result res =>
    if !res.getLsbD 63 then (.fault 1 (fld res 0 32), s)
    else if !resultOk res (s.owner o).frames then (.fault 3 5, s)
    else
      let r := s.applyResult o res va kind lvl
      let page := va / 65536 / 2 ^ (fld res 56 5) * 2 ^ (fld res 56 5)
      match r with
      | .ok _ _ _ _ => (r, s.cachePage us o page res)
      | .fault _ _ => (r, s) | .range => (r, s) | .beyond => (r, s) | .wait => (r, s)
/-- The translation of a global virtual address for an access of a kind at a level, with the caches its unit has (R116, R271). -/
def State.xlate (s : State) (us : List Nat) (o va kind lvl : Nat) : XRes × State :=
  match s.direct o va lvl with
  | some r => (r, s)
  | none =>
    match s.tlbFind us o (va / 65536) with
    | some e => (s.applyResult o e.res va kind lvl, s)
    | none =>
      match s.sharedWalk o va kind lvl (s.walker us) with
      | (none, s') => (.wait, s')
      | (some e, s') => s'.endWalk us o va kind lvl e
/-- What the translation of an access of the device's own leaves: at a place, it waits while the memory budget is spent (R115); a fault, which no handler is told of, is
counted (R404, R431). -/
def State.fillOwn (s : State) (o : Nat) : XRes → State
  | .ok l _ _ _ => (s.fillHeld o l).2.noteWait o (s.fillHeld o l).1
  | .fault _ _ => s.count (s.dieOf s.cur) o 26 1
  | .beyond => s.count (s.dieOf s.cur) o 26 1
  | .range => s | .wait => s
/-- A translation of the device's own, which it completes within one step, with no translation cache. The step is held back where the owner's budgets do not carry it
(R115, R431; log entry 5). -/
def State.xlateNow (s : State) (o va kind lvl : Nat) : XRes × State :=
  match s.direct o va lvl with
  | some r => (r, s.fillOwn o r)
  | none =>
    let r := s.runWalk o va kind lvl
    let w := if r.2.1 = 0 then (false, r.2.2) else r.2.2.fillWait o
    let x := ((w.2.noteWait o w.1).oweWalk o r.2.1).endWalk [] o va kind lvl r.1
    (x.1, x.2.fillOwn o x.1)
/-- The device's own accesses for an owner that are part of no instruction (R431): level H, no handler. -/
def State.xlateFor (s : State) (o va kind : Nat) : XRes × State := s.xlateNow o va kind 1

end Sys2Proof.Machine
end

