-- ==== Sys2Proof/Machine/Home.lean ====
section
/-! DEFINITION. What happens at a home: writes that wake waiters and queues, the team store buffer and its commit, save-frame words, and the device's own accesses for an owner (R105, R183, R210, R211, R229 to R236, R431). -/
namespace Sys2Proof.Machine

/-- Steps of the device that always go on. -/
abbrev S := StateM State
/-- Such a step inside an instruction. -/
def liftS {α : Type} (x : S α) : M α := fun s => let r := x s; .ok r.1 r.2
/-- The state after such a step. -/
def State.run (s : State) (x : S Unit) : State := (x s).2

/-! ## Save frames (R119, R130, R426) -/
/-- The virtual address of a group's save frame A, or B, in its team's run of the save pool. -/
def State.frameVa (s : State) (g b : Nat) : Nat :=
  let x := s.group g
  reserveBase + (((s.team x.team).run.getD 0) + 2 * x.idx + b) * frameBytes
/-- The state in which no team holds a word at ma any more, and no die a copy of its line. -/
def State.dropHeld (s : State) (ma : Nat) : State :=
  { s.dropLine ma with teams := s.teams.map (fun t => (t.1, { t.2 with held := tabDel t.2.held (ma / 4) })) }
/-- A word the device writes on its own account into an owner's reserve, whole and with its code (R105, R131), as its storage takes it. It replaces the word
for every reader, the holder of an older store to it included (log entry 8). -/
def State.layReserve (s : State) (o va : Nat) (w : Word) (poison : Bool) : State :=
  let l := s.reserveLoc o va
  let s := match l with | .dev ma => s.dropHeld ma | _ => s
  s.putLoc l w (codeFor w poison l.off)
/-- A double word likewise. -/
def State.layReserve64 (s : State) (o va : Nat) (v : DWord) : State :=
  (s.layReserve o va (v.truncate 32) false).layReserve o (va + 4) ((v >>> 32).truncate 32) false
/-- A double word of the reserve as it stands. -/
def State.getReserve64 (s : State) (o va : Nat) : DWord :=
  (s.readLoc (s.reserveLoc o (va + 4))).1 ++ (s.readLoc (s.reserveLoc o va)).1
/-- The address of the wake count of a level in frame A's completion area (R135, R236). -/
def State.wakeCountVa (s : State) (g lvl : Nat) : Nat :=
  s.frameVa g 0 + (match lvl with | 0 => 0xC310 | 1 => 0xC3A0 | _ => 0xC3A8)

/-! ## Waking groups (R147, R224, R233 to R236) -/
/-- A parked group becomes READY and its waiting instruction completes with status d where it has one (R147). A vwait, a waitb and a waitk acquire at .dev as they
complete: its die drops its copies of remote-home lines (R233, R254, R264). -/
def State.wakeGroup (s : State) (g : Nat) (status : Nat) : State :=
  let x := s.group g
  let done (y : Group) : Group := { y with gstate := .ready, wait := none, pc := y.pc + 4, wake := s.steps }
  match x.wait with
  | some (.word d) => (s.dropCopies (s.dieOf g)).setGroup g (done { x with sr := x.sr.put d (BitVec.ofNat 64 status) false })
  | some (.barrier _ _ _) => s.setGroup g (done { x with arrival := { x.arrival with pending := false } })
  | some (.copies k) => (s.dropCopies (s.dieOf g)).setGroup g (done { x with k := x.k - k })
  | some (.batch _) => (s.dropCopies (s.dieOf g)).setGroup g (done x)
  | none => s
/-- One waiter of an entry is woken: a parked group completes with status 0; for an interrupted one the wake count of its level counts
one more (R236). -/
def State.wakeWaiter (s : State) (x : Waiter) : State :=
  if x.interrupted then
    let o := s.ownerOf x.group
    let va := s.wakeCountVa x.group x.level
    s.layReserve64 o va (s.getReserve64 o va + 1)
  else s.wakeGroup x.group 0
/-- The device word that counts an interrupted waiter's wakes. -/
def State.countWord (s : State) (x : Waiter) : Option Nat :=
  if x.interrupted then
    match s.reserveLoc (s.ownerOf x.group) (s.wakeCountVa x.group x.level) with
    | .dev ma => some ma
    | _ => none
  else none
/-- The entry without its first n waiters. It is released when no waiter is left and no queue is bound (R230). -/
def dropWaiters (e : WEntry) (n : Nat) : Option WEntry :=
  let e := { e with waiters := e.waiters.drop n }
  if e.waiters.isEmpty && e.queues.isEmpty then none else some e
/-- The waiters of the entries armed on a word. -/
def State.armed (s : State) (ma : Nat) : List Waiter := ((s.waits.filter (fun e => e.ma / 8 == ma / 8)).map (·.waiters)).flatten
/-- Those waiters are woken, and their entries hold none (R230, R235). -/
def State.wakeArmed (s : State) (ma : Nat) : State :=
  let ws := s.armed ma
  ws.foldl State.wakeWaiter
    { s with waits := s.waits.filterMap (fun e => if e.ma / 8 = ma / 8 then dropWaiters e e.waiters.length else some e) }
/-- Writes reaching words wake the waiters of the entries armed on them, and so do the wake counts that this changes in turn (R235). Every round but the first
of a word follows a waiter woken for good: fuel is one more than the waiters. -/
def State.wakeWords (s : State) : List Nat → Nat → State
  | [], _ => s
  | _, 0 => s
  | ma :: r, n + 1 => (s.wakeArmed ma).wakeWords (r ++ (s.armed ma).filterMap s.countWord) n
/-- A write reaching the word at ma wakes every waiter of the entries armed on it (R235). -/
def State.wakeWord (s : State) (ma : Nat) : State := s.wakeWords [ma] ((s.waits.map (fun e => e.waiters.length)).sum + 1)

/-- A word the device writes at its home: the storage changes and its waiters wake (R105, R235). -/
def State.devWrite (s : State) (l : Loc) (w : Word) (c : Byte) : State :=
  match l with
  | .dev ma => (s.putLoc (.dev ma) w c).wakeWord ma
  | .host ha k => s.putLoc (.host ha k) w c
  | .window f o => s.putLoc (.window f o) w c | .regs f o => s.putLoc (.regs f o) w c
  | .sram t o => s.putLoc (.sram t o) w c | .priv g k o => s.putLoc (.priv g k o) w c
  | .chip o a => s.putLoc (.chip o a) w c
  | .closed _ _ => s

/-! ## The device's accesses for an owner (R431) -/
/-- The double word at an owner's address, consumed by unit src; none where the translation fails. -/
def State.ownRead (s : State) (o va src : Nat) : Option (DWord × Bool) × State :=
  match s.xlateFor o va 0 with
  | (.ok l _ _ _, s1) =>
    let (w0, c0) := s1.readLoc l
    let (w1, c1) := s1.readLoc (l.plus 4)
    let (v0, p0, e0) := consume w0 c0 l.off
    let (v1, p1, e1) := consume w1 c1 (l.plus 4).off
    let ma := match l with | .dev ma => ma | _ => 0
    let s2 := if e0 = 0 then s1 else s1.reportFor e0 src o ma 0 (homeDie ma)
    let s3 := if e1 = 0 then s2 else s2.reportFor e1 src o (ma + 4) 0 (homeDie ma)
    (some (v1 ++ v0, p0 || p1), s3)
  | (.fault _ _, s1) => (none, s1) | (.range, s1) => (none, s1) | (.beyond, s1) => (none, s1) | (.wait, s1) => (none, s1)
/-- A run of n double words; none where one translation fails. -/
def State.ownReads (s : State) (o va src : Nat) : Nat → Option (List (DWord × Bool)) × State
  | 0 => (some [], s)
  | n + 1 =>
    match s.ownRead o va src with
    | (none, s1) => (none, s1)
    | (some x, s1) =>
      match s1.ownReads o (va + 8) src n with
      | (none, s2) => (none, s2)
      | (some r, s2) => (some (x :: r), s2)
/-- A double word the device writes at an owner's address, with its codes; false where the translation fails. An address in the records of R114 is written too
(DESIGN CHOICE; log entry 8). -/
def State.ownWrite (s : State) (o va : Nat) (v : DWord) : Bool × State :=
  match s.xlateFor o va 1 with
  | (.ok l _ _ _, s1) =>
    let w0 : Word := v.truncate 32
    let w1 : Word := (v >>> 32).truncate 32
    (true, (s1.devWrite l w0 (checkCode w0 l.off)).devWrite (l.plus 4) w1 (checkCode w1 (l.plus 4).off))
  | (.fault _ _, s1) => (false, s1) | (.range, s1) => (false, s1) | (.beyond, s1) => (false, s1) | (.wait, s1) => (false, s1)

/-! ## Work queues: status and readiness (R182, R183) -/
def qstateCode : QState → Nat
  | .unbound => 0 | .empty => 1 | .ready => 2 | .held => 3 | .faulted => 4
/-- The device rewrites the status word and the fault address (R182). A header that does not translate is a queue fault, which no word then tells (R189). -/
def State.putQueue (s : State) (q : Nat) (x : Queue) : State :=
  let s := s.setQueue q x
  let v := BitVec.ofNat 64 (x.refused % 2 ^ 32 * 2 ^ 32 + x.fault * 256 + qstateCode x.qstate)
  let a := s.ownWrite x.owner (x.header.toNat + 0x28) v
  let b := a.2.ownWrite x.owner (x.header.toNat + 0x30) x.faultVa
  if (a.1 && b.1) || x.qstate == .unbound || x.qstate == .faulted then b.2
  else b.2.setQueue q { x with
    qstate := .faulted, fault := 1, faultVa := x.header + (if a.1 then 0x30 else 0x28) }
/-- A queue fault (R189): kind and address; the queue becomes FAULTED. -/
def State.queueFault (s : State) (q kind va : Nat) : State :=
  let x := s.queue q
  s.putQueue q { x with qstate := .faulted, fault := kind, faultVa := BitVec.ofNat 64 va }
/-- The slot of a position in a queue's ring (R181). -/
def Queue.slot (x : Queue) (p : Nat) : Nat := x.ring.toNat + 64 * (p % 2 ^ x.logCap)
/-- The record at head is published (R186): its sequence field holds the position + 1, as it did when the tail word was last written. -/
def State.published (s : State) (q : Nat) : Option Bool × State :=
  let x := s.queue q
  match s.ownRead x.owner (x.header.toNat + 0x20) 6 with
  | (none, s1) => (none, s1.queueFault q 1 (x.header.toNat + 0x20))
  | (some (h, _), s1) =>
    match s1.ownRead x.owner (x.slot h.toNat + 0x38) 6 with
    | (none, s2) => (none, s2.queueFault q 2 (x.slot h.toNat + 0x38))
    | (some (v, _), s2) => (some (v == h + 1 && x.pub.contains h), s2)
/-- The queue examines the record at head (R183): EMPTY or HELD becomes READY when it is published, HELD becomes EMPTY otherwise. -/
def State.examine (s : State) (q : Nat) : State :=
  match s.published q with
  | (none, s1) => s1
  | (some true, s1) => s1.putQueue q { s1.queue q with qstate := .ready }
  | (some false, s1) =>
    if (s1.queue q).qstate = .empty then s1 else s1.putQueue q { s1.queue q with qstate := .empty }
/-- The positions of a queue from p on whose sequence fields hold the position + 1, up to the first that does not. This looks and does nothing: it is what R186
asks of a tail write, and no access of the device. -/
def State.sequenced (s : State) (x : Queue) (p : DWord) : Nat → List DWord
  | 0 => []
  | n + 1 =>
    match (s.ownRead x.owner (x.slot p.toNat + 0x38) 6).1 with
    | some (v, _) => if v = p + 1 then p :: s.sequenced x (p + 1) n else []
    | none => []
/-- A tail write publishes the records from head on whose fields stand (R186): a later record is none before those ahead of it are, and with their tail writes it is
looked at again. -/
def State.publish (s : State) (q : Nat) : State :=
  let x := s.queue q
  match (s.ownRead x.owner (x.header.toNat + 0x20) 6).1 with
  | some (h, _) => s.setQueue q { x with pub := s.sequenced x h (2 ^ x.logCap) }
  | none => s
/-- A write to the tail word of bound queues publishes records (R186), and an EMPTY queue examines its head record (R183). -/
def State.pokeQueues (s : State) (ma : Nat) : State :=
  let qs := ((s.waits.filter (fun e => e.ma / 8 == ma / 8)).map (·.queues)).flatten
  qs.foldl (fun s q => let s := s.publish q; if (s.queue q).qstate = .empty then s.examine q else s) s

/-- A write of any agent that reaches its home: the word changes, its waiters wake, its queues look (R235). -/
def State.homeWrite (s : State) (l : Loc) (w : Word) (c : Byte) : State :=
  match l with
  | .dev ma => (s.devWrite (.dev ma) w c).pokeQueues ma
  | .host ha k => s.devWrite (.host ha k) w c
  | .window f o => s.devWrite (.window f o) w c | .regs f o => s.devWrite (.regs f o) w c
  | .sram t o => s.devWrite (.sram t o) w c | .priv g k o => s.devWrite (.priv g k o) w c
  | .chip o a => s.devWrite (.chip o a) w c
  | .closed _ _ => s
/-- A double word of the device itself at a place, with codes. -/
def State.homeWrite64 (s : State) (l : Loc) (v : DWord) : State :=
  let w0 : Word := v.truncate 32
  let w1 : Word := (v >>> 32).truncate 32
  (s.homeWrite l w0 (checkCode w0 l.off)).homeWrite (l.plus 4) w1 (checkCode w1 (l.plus 4).off)

/-- A word the device writes on its own account into an owner's reserve, at its home: it wakes the word's waiters as every write does (R105, R131, R235). It replaces
the word for every reader (log entry 8). -/
def State.putReserve (s : State) (o va : Nat) (w : Word) (poison : Bool) : State :=
  let l := s.reserveLoc o va
  let s := match l with | .dev ma => s.dropHeld ma | _ => s
  s.homeWrite l w (codeFor w poison l.off)
/-- A double word likewise. -/
def State.putReserve64 (s : State) (o va : Nat) (v : DWord) : State :=
  (s.putReserve o va (v.truncate 32) false).putReserve o (va + 4) ((v >>> 32).truncate 32) false
/-- Words in a row. -/
def State.putReserveWords (s : State) (o va : Nat) : List (Word × Bool) → State
  | [] => s
  | (w, p) :: r => (s.putReserve o va w p).putReserveWords o (va + 4) r

/-- A word, or a double word, that the acting group writes at its home: its die's copy takes it too (R254). -/
def State.agentWrite (s : State) (l : Loc) (w : Word) (c : Byte) : State := (s.copyPut (s.dieOf s.cur) l w c).homeWrite l w c
def State.agentWrite64 (s : State) (l : Loc) (v : DWord) : State :=
  let w0 : Word := v.truncate 32
  let w1 : Word := (v >>> 32).truncate 32
  (s.agentWrite l w0 (checkCode w0 l.off)).agentWrite (l.plus 4) w1 (checkCode w1 (l.plus 4).off)

/-! ## The team store buffer (R210 to R212, R258 to R262) -/
/-- Every held word becomes part of the committed contents, line by line in rising order (log entry 1). -/
def State.landHeld (s : State) : List (Nat × (Word × Byte)) → State
  | [] => s
  | (k, (w, c)) :: r => (s.homeWrite (.dev (k * 4)) w c).landHeld r
/-- The words go through the copies that a die holds of their lines (R254). -/
def State.copyHeld (s : State) (d : Nat) : List (Nat × (Word × Byte)) → State
  | [] => s
  | (k, (w, c)) :: r => (s.copyPut d (.dev (k * 4)) w c).copyHeld d r
/-- A commit point of a team (R211): its buffer empties, its records clear, and it is no longer clean (R212). Its die's copies take the words, other dies' do not
(R254). -/
def State.commit (s : State) (t : Nat) : State :=
  let h := (s.team t).held
  ((s.updTeam t (fun x => { x with held := [], atomics := [], released := [], clean := false, commits := x.commits + 1, landing := false })).copyHeld (dieOfCore (s.team t).core) h).landHeld h
/-- One line of a team's buffer lands, and its commit is under way (R258): the lines of a commit take effect in any order. -/
def State.landLine (s : State) (t line : Nat) : State :=
  let h := (s.team t).held.filter (fun x => x.1 / 128 == line)
  ((s.updTeam t (fun x => { x with held := x.held.filter (fun y => y.1 / 128 != line), clean := false, landing := true })).copyHeld (dieOfCore (s.team t).core) h).landHeld h
/-- The team is no longer clean (R212). -/
def State.soil (s : State) (t : Nat) : State := s.updTeam t (fun x => { x with clean := false })
/-- The number of sectors that held words occupy (R210). -/
def sectorsOf (h : Tab (Word × Byte)) : List Nat := (h.map (fun x => x.1 / 32)).eraseDups
/-- Room for the words of one access to a line: where the buffer has none for all of its sectors it is committed first, so that no commit parts them (R210, R211,
R266); a commit that is under way is finished first (R258). -/
def State.makeRoom (s : State) (t : Nat) (ls : List Loc) : State :=
  let h := sectorsOf (s.team t).held
  let new := ((ls.filterMap (fun l => match l with | .dev ma => some (ma / 128) | _ => none)).filter (fun x => !h.contains x)).eraseDups
  if new.length + h.length ≤ Config.bufferSectors && !(s.team t).landing then s else s.commit t
/-- A word a team stores to device memory is held; a store that finds the buffer full, or its commit under way, commits it first (R210, R211, R258). -/
def State.hold (s : State) (t ma : Nat) (w : Word) (c : Byte) : State :=
  let h := (s.team t).held
  let full := (s.team t).landing || (decide (Config.bufferSectors ≤ (sectorsOf h).length) && !((sectorsOf h).contains (ma / 128)))
  let s := if full then s.commit t else s
  s.updTeam t (fun x => { x with held := tabPut x.held (ma / 4) (w, c) })
/-- Other teams that hold bytes of the line of ma (R193), or that hold an atomic's write to it (R259). -/
def State.holders (s : State) (t ma : Nat) : List Nat :=
  (s.teams.filter (fun x => x.1 != t && x.2.held.any (fun c => c.1 / 128 == ma / 512))).map (·.1)
def State.atomicHolders (s : State) (t ma : Nat) : List Nat :=
  (s.teams.filter (fun x => x.1 != t && x.2.atomics.contains (ma / 512))).map (·.1)
/-- The other teams recorded as releasers of the line (R260). -/
def State.releasers (s : State) (t ma : Nat) : List Nat :=
  (s.teams.filter (fun x => x.1 != t && x.2.released.contains (ma / 512))).map (·.1)
def State.commitAll (s : State) (ts : List Nat) : State := ts.foldl State.commit s

/-- A word stored by team t: held in device memory, performed at once elsewhere; host memory, windows and the chip scratchpad make
the team no longer clean (R210, R212, R371). -/
def State.store (s : State) (t : Nat) (l : Loc) (w : Word) (c : Byte) : State :=
  match l with
  | .dev ma => s.hold t ma w c
  | .host ha k => (s.homeWrite (.host ha k) w c).soil t
  | .window f o => (s.homeWrite (.window f o) w c).soil t
  | .regs f o => s.homeWrite (.regs f o) w c
  | .sram u o => s.homeWrite (.sram u o) w c
  | .priv g k o => s.homeWrite (.priv g k o) w c
  | .chip o a => (s.homeWrite (.chip o a) w c).soil t
  | .closed _ _ => s

end Sys2Proof.Machine
end

