-- ==== Sys2Proof/Machine/Save.lean ====
section
/-! DEFINITION. Save frames and control blocks (R129 to R135): writing and restoring the state of a level, entry blocks, forced saves and resumes. -/
namespace Sys2Proof.Machine

/-! ## Control blocks (R131) -/
/-- The trap registers in the order of the block (R131). -/
def TrapRegs.list (r : TrapRegs) : List DWord := [r.tcause, r.tpc, r.tinfo, r.tspc, r.tmask, r.tctl]
/-- They return from a block: what memory holds in their reserved bits is ignored (R12, R122, R123). -/
def TrapRegs.ofList (l : List DWord) : TrapRegs :=
  { tcause := l.getD 0 0 &&& 0xFFFF00BF, tpc := l.getD 1 0, tinfo := l.getD 2 0, tspc := l.getD 3 0, tmask := l.getD 4 0 &&& 0xFFFFFFFF,
    tctl := l.getD 5 0 &&& 3 }
/-- Double words in a row into the reserve. -/
def State.putReserve64s (s : State) (o va : Nat) : List DWord → State
  | [] => s
  | v :: r => (s.putReserve64 o va v).putReserve64s o (va + 8) r
/-- A word of a device-format field: free value number k (R131; log entry 8). -/
def State.layFree (s : State) (o va k : Nat) : State :=
  match s.reserveLoc o va with
  | .dev ma => { s.dropHeld ma with mem := s.mem.lay ma k, badCopies := tabDel s.badCopies (ma / 4) }.wakeWord ma
  | _ => s.putReserve o va (Config.freeWord k) false
def State.layFrees (s : State) (o va k : Nat) : Nat → State
  | 0 => s
  | n + 1 => (s.layFree o va k).layFrees o (va + 4) (k + 1) n
/-- The fields of a control block in device format: the offset, the words, and the number of the first of them in the order of the block (R131). -/
def devFields : List (Nat × Nat × Nat) := [(0x10, 8, 0), (0x30, 2, 8), (0x100, 64, 10), (0x500, 64, 74), (0x1600, 64, 138)]
/-- The words of one operand-queue entry. -/
def entryWords (e : List QLane) : List (Word × Bool) := e.map (fun x => (x.word, x.poison))
/-- The words a double-word register takes in a save frame, poisoned or not (R101, R131). -/
def splitWord (v : DWord) (p : Bool) : List (Word × Bool) := [(v.truncate 32, p), ((v >>> 32).truncate 32, p)]
/-- A control block of group g at base (R131): kind and level, the scalar-stream address, the masks, the trap state, the
scalar registers, flags, masks, predicates, the arrival record, the queue words, c.fpen and the sticky flags. The fields in device format take free values
from number dev on; what they stand for stays in the group (log entry 8). -/
def State.putBlock (s : State) (g base kind : Nat) (pc : DWord) (fmask dmask : Mask) (dev : Nat) : State :=
  let x := s.group g
  let o := s.ownerOf g
  let s := s.putReserve64 o base (BitVec.ofNat 64 (kind + x.level * 16))
  let s := s.putReserve64 o (base + 0x08) pc
  let s := s.putReserve64 o (base + 0x38) (dmask ++ fmask)
  let s := s.putReserve64s o (base + 0x40) x.tr.list
  let s := s.putReserveWords o (base + 0x200)
    ((List.range 64).map (fun n => splitWord (x.sr.get n) (x.sr.bad n))).flatten
  let s := s.putReserve64 o (base + 0x400) x.sr.poison
  let s := s.putReserve64 o (base + 0x408)
    (BitVec.ofNat 64 ((List.range 8).foldl (fun v n => if x.sr.flag n then v + 256 ^ n else v) 0))
  let s := s.putReserveWords o (base + 0x410) ((List.range 8).map (fun k => (x.mask k, false)))
  let s := s.putReserveWords o (base + 0x430) ((List.range 8).map (fun k => (x.lr.pred k, false)))
  let s := s.putReserve64 o (base + 0x450) x.arrival.addr
  let s := s.putReserve64 o (base + 0x458)
    (BitVec.ofNat 64 (x.arrival.phase.toNat + 2 * x.arrival.set.toNat + 4 * x.arrival.pending.toNat))
  let s := (List.range 8).foldl (fun s n =>
    s.putReserveWords o (base + 0x600 + 512 * n) ((tabGet [] x.lane.q n).map entryWords).flatten) s
  let s := (List.range 2).foldl (fun s n =>
    s.putReserve64s o (base + 0x1700 + 32 * n)
      ((tabGet [] x.lane.y n).map (fun e => BitVec.ofNat 64 (e.1.toNat + 2 ^ 32 * e.2.toNat)))) s
  let s := s.putReserve64s o (base + 0x1740) (x.fpen :: (List.range 6).map (fun k => (tabGet 0 x.sticky k).zeroExtend 64))
  devFields.foldl (fun s (e : Nat × Nat × Nat) => s.layFrees o (base + e.1) (dev + e.2.2) e.2.1) s

/-- One word of a save frame as a restore reads it: the team's held bytes over the committed contents, checked as a load is (R131). -/
def restWord (g va : Nat) : S (Word × Bool) := fun s =>
  let o := s.ownerOf g
  let l := s.reserveLoc o va
  let (w, c) := s.viewLoc (s.group g).team l
  let (v, p, e) := consume w c l.off
  ((v, p), if e = 0 then s else { s with cur := g }.report e 1 (match l with | .dev ma => ma | _ => 0))
def restDword (g va : Nat) : S (DWord × Bool) := do
  let (lo, p) ← restWord g va
  let (hi, q) ← restWord g (va + 4)
  pure (hi ++ lo, p || q)
/-- n double words in a row. -/
def restDwords (g va : Nat) : Nat → S (List (DWord × Bool))
  | 0 => pure []
  | n + 1 => do
    let x ← restDword g va
    let r ← restDwords g (va + 8) n
    pure (x :: r)
/-- The documented fields of a control block return from memory (R131, R143): the result is the scalar-stream address. -/
def restoreBlock (g base : Nat) : S DWord := do
  let (pc, _) ← restDword g (base + 0x08)
  let tr ← restDwords g (base + 0x40) 6
  let ss ← restDwords g (base + 0x200) 64
  let (pb, _) ← restDword g (base + 0x400)
  let (fb, _) ← restDword g (base + 0x408)
  let ms ← restDwords g (base + 0x410) 4
  let ps ← restDwords g (base + 0x430) 4
  let (aa, _) ← restDword g (base + 0x450)
  let (ab, _) ← restDword g (base + 0x458)
  let fx ← restDwords g (base + 0x1740) 7
  let word (l : List (DWord × Bool)) (k : Nat) : Mask :=
    let v := (l.getD (k / 2) (0, false)).1
    if k % 2 = 0 then v.truncate 32 else (v >>> 32).truncate 32
  modify (fun s => s.updGroup g (fun x =>
    let sr := (List.range 64).foldl (fun (r : SRegs) n =>
      let e := ss.getD n (0, false)
      r.put n e.1 (pb.getLsbD n || e.2)) x.sr
    let sr := (List.range 8).foldl (fun (r : SRegs) n => r.putFlag n (fb.getLsbD (8 * n))) sr
    { x with
      sr := sr
      tr := TrapRegs.ofList (tr.map (·.1))
      m := (List.range 8).foldl (fun m k => if k = 0 then m else tabPut m k (word ms k)) x.m
      lr := (List.range 8).foldl (fun (r : LRegs) k => r.putPred k (word ps k)) x.lr
      arrival := { addr := aa, phase := ab.getLsbD 0, set := ab.getLsbD 1, pending := ab.getLsbD 2 }
      fpen := (fx.getD 0 (0, false)).1 &&& 0x3F
      sticky := (List.range 6).map (fun k => (k, ((fx.getD (k + 1) (0, false)).1.truncate 32 : Mask))) }))
  pure pc
/-- The words of the operand-queue and return-queue entries return from the block into a lane context whose tags are kept (R131). -/
def restoreQueues (g base : Nat) (c : LaneCtx) : S LaneCtx := do
  let one (n j l : Nat) (e : QLane) : S QLane := do
    let (w, p) ← restWord g (base + 0x600 + 512 * n + 128 * j + 4 * l)
    pure { e with word := w, poison := e.poison || p }
  let q ← c.q.mapM (fun (n, es) => do
    let es' ← es.zipIdx.mapM (fun (e, j) => e.zipIdx.mapM (fun (x, l) => one n j l x))
    pure (n, es'))
  let y ← c.y.mapM (fun (n, es) => do
    let es' ← es.zipIdx.mapM (fun (_, j) => do
      let (v, _) ← restDword g (base + 0x1700 + 32 * n + 8 * j)
      pure ((v.truncate 32 : Word), v.getLsbD 32))
    pure (n, es'))
  pure { c with q := q, y := y }

/-- A word of a device-format field still holds the free value of its number. -/
def sameFree (g va k : Nat) : S Bool := do
  let s ← get
  let mark := match s.reserveLoc (s.ownerOf g) va with
    | .dev ma => if (tabFind (s.team (s.group g).team).held (ma / 4)).isNone then tabFind s.mem.free (ma / 4) else none
    | _ => none
  if mark = some k then pure true
  else
    let (w, p) ← restWord g va
    pure (!p && w == Config.freeWord k)
def sameFrees (g va k : Nat) : Nat → S Bool
  | 0 => pure true
  | n + 1 => do
    let a ← sameFree g va k
    let b ← sameFrees g (va + 4) (k + 1) n
    pure (a && b)
/-- Free values of the kinds a lane context is made of, from number k on (log entry 2). -/
def freeDword (k : Nat) : DWord := Config.freeWord (k + 1) ++ Config.freeWord k
def freePath (k : Nat) : Path :=
  { pc := freeDword k, mask := Config.freeWord (k + 2),
    inner := if Config.freeBit k then some ((Config.freeWord (k + 3)).toNat % Config.spillDepth) else none }
def freeSlot (k i : Nat) : Tab (Path × Nat) := if Config.freeBit (k + 4 + i) then [(i, (freePath (k + 8 * i), (Config.freeWord (k + 4 + 8 * i)).toNat))] else []
def freeRec (k : Nat) : JoinRec :=
  { join := freeDword k, arrived := Config.freeWord (k + 2),
    outer := if Config.freeBit k then some ((Config.freeWord (k + 3)).toNat % Config.spillDepth) else none,
    park := if Config.freeBit (k + 1) then some (freePath (k + 4), (Config.freeWord (k + 8)).toNat) else none }
def freeStream (k : Nat) : AStream :=
  { base := freeDword k, step := Config.freeWord (k + 2), pitch := (Config.freeWord (k + 3)).toNat % 65536,
    space := match (Config.freeWord (k + 4)).toNat % 4 with | 0 => .gl | 1 => .sp | 2 => .cl | _ => .ch }
def freeTag (k : Nat) : QLane :=
  { word := 0, poison := Config.freeBit k, event := 0, ma := 0,
    fault := if Config.freeBit (k + 1) then some ((Config.freeWord k).toNat % 8, (Config.freeWord (k + 1)).toNat) else none,
    va := freeDword (k + 2), space := .gl, range := Config.freeBit (k + 2) }
/-- A lane context with what the device-format fields of a block now hold: where one no longer holds what the device put there, the manual does not say what
it stands for, and that part of the context is a free value (R131; log entry 8). -/
def restoreDev (g base dev : Nat) (c : LaneCtx) : S LaneCtx := do
  let same ← devFields.mapM (fun (e : Nat × Nat × Nat) => sameFrees g (base + e.1) (dev + e.2.2) e.2.1)
  let s ← get
  let k := s.freeIdx
  set { s with freeIdx := k + 8192 }
  let kept (i : Nat) : Bool := same.getD i true
  let c := if kept 0 then c else { c with slots := freeSlot k 0 ++ freeSlot k 1, running := Config.freeBit (k + 4) || Config.freeBit (k + 5) }
  let c := if kept 2 then c else { c with spill := ((List.range Config.spillDepth).filter (fun i => Config.freeBit (k + 32 + i))).map (fun i => (i, freeRec (k + 32 + 16 * i))) }
  let c := if kept 1 then c else { c with
    spill := c.spill.filter (fun e => decide (e.1 < (Config.freeWord (k + 16)).toNat % (Config.spillDepth + 1))),
    slots := c.slots.map (fun e => (e.1, (e.2.1, (Config.freeWord (k + 17 + e.1)).toNat))) }
  let c := if kept 3 then c else { c with a := ((List.range 8).filter (fun i => Config.freeBit (k + 300 + i))).map (fun i => (i, freeStream (k + 300 + 8 * i))) }
  pure (if kept 4 then c else { c with
    q := (List.range 8).map (fun n => (n, (List.range ((Config.freeWord (k + 400 + n)).toNat % (Config.queueDepth + 1))).map (fun j =>
      (List.range 32).map (fun l => freeTag (k + 512 + 4 * (128 * n + 32 * j + l)))))) })

/-- A started matrix operation writes its C and its sticky flags (R353, R354). -/
def State.matrixWrite (s : State) (m : MatrixOp) : State :=
  s.updGroup m.group (fun x =>
    { x with
      lr := m.out.foldl (fun (r : LRegs) e => { r with v := tabPut r.v e.1 (e.2.1, e.2.2) }) x.lr
      sticky := m.flags.foldl (fun t e =>
        (List.range 6).foldl (fun t k => if e.2 / 2 ^ k % 2 = 1 then tabPut t k (tabGet 0 t k ||| laneBit e.1) else t) t) x.sticky })
/-- Every matrix operation of a group that has started completes before a cut takes its registers, and a vmmap that waits for its partner is
not executed (R354, R361). -/
def State.finishMatrix (s : State) (g : Nat) : State :=
  let mine := s.matrix.filter (fun m => m.2.group == g && m.2.started)
  let s := { s with matrix := s.matrix.filter (fun m => !(m.2.group == g && (m.2.started || m.2.kind == 2))) }
  mine.foldl (fun s m => s.matrixWrite m.2) s
/-! ## Entry to a level (R129) -/
/-- The paths of a stream, in its slots and parked. -/
def LaneCtx.paths (c : LaneCtx) : List Path := c.slots.map (·.2.1) ++ c.spill.filterMap (fun e => e.2.park.map (·.1))
/-- The path of these lanes changes where it stands: the masks of a group's paths are disjoint (R162). -/
def LaneCtx.onPath (c : LaneCtx) (m : Mask) (f : Path → Path) : LaneCtx :=
  let g (p : Path × Nat) : Path × Nat := if p.1.mask = m then (f p.1, p.2) else p
  { c with slots := c.slots.map (fun e => (e.1, g e.2)), spill := c.spill.map (fun e => (e.1, { e.2 with park := e.2.park.map g })) }
/-- The path of these lanes. -/
def LaneCtx.pathOf (c : LaneCtx) (m : Mask) : Path := (c.paths.find? (fun p => p.mask == m)).getD { pc := 0, mask := m, inner := none }
/-- The slot in which it is live. -/
def LaneCtx.slotOf (c : LaneCtx) (m : Mask) : Option Nat := (c.slots.find? (fun e => e.2.1.mask == m)).map (·.1)
/-- What is left of a lane word that completed in some lanes (R142, R143, R172). -/
def WordMark.redo (m : WordMark) (skip : Bool) : Redo :=
  { active := m.active, lanes := m.active &&& ~~~m.done, skip := skip, done := m.push, unread := m.unread }
/-- The path of these lanes has a word to finish. -/
def LaneCtx.leave (c : LaneCtx) (m : Mask) (r : Redo) : LaneCtx := c.onPath m (fun p => { p with redo := some r })
/-- A stream's words are partly completed, and the lanes that have completed theirs (R172). -/
def LaneCtx.partDone (c : LaneCtx) : Option Mask :=
  if c.paths.any (fun p => p.redo.isSome) then
    some (c.paths.foldl (fun m p => match p.redo with | some r => m ||| (r.active &&& ~~~r.lanes) | none => m) 0)
  else none
/-- The lane stream goes on with what is left of the interrupted word. -/
def Group.keepMark (x : Group) (m : Option WordMark) : Group :=
  match m with
  | none => x
  | some m => { x with lane := x.lane.leave m.path (m.redo false) }
/-- A lane word whose fault still waits for a park slot leaves its completed lanes completed (R172): what is left of it runs again. -/
def Group.cutPending (x : Group) : Group :=
  match x.pendingFault with
  | none => x
  | some f => { x with pendingFault := none }.keepMark f.mark
/-- A parked vwait's waiter becomes an interrupted waiter of its level (R236); a wait of any kind is not complete (R147). -/
def State.interruptWait (s : State) (g : Nat) : State :=
  let x := (s.group g).cutPending
  let mark (e : WEntry) : WEntry :=
    { e with waiters := e.waiters.map (fun w => if w.group = g && w.level = x.level then { w with interrupted := true } else w) }
  { s with waits := s.waits.map mark }.setGroup g { x with wait := none }
/-- What a handler entry sets aside (R127, R173, R222, R396). -/
def Group.aside (x : Group) (mark : Option WordMark) (size dev : Nat) : Aside :=
  { dev := dev, lane := x.lane, arrival := x.arrival, k := x.k, pending := x.pending, tok := x.tok, level := x.level, loss := x.lossNext, word := mark, size := size,
    fmask := x.fmask, dmask := x.dmask, frec := x.frec, hcause := x.hcause, sframe := x.sframe }
/-- The scalar registers of a level context are the group's own now: those of the running level, which a user trap handler shares. -/
def Group.liveTok (x : Group) (tok : Nat) : Bool :=
  tok == x.tok || (x.level == 0 && (match x.uAside with | some a => a.tok == tok | none => false))
/-- Replies that came while the registers were set aside or saved are merged into them (R135, R314). -/
def Group.mergeReplies (x : Group) : Group :=
  let here (r : Reply) : Bool := r.got.isSome && x.liveTok r.tok
  { x with
    sr := x.replies.foldl (fun (sr : SRegs) r =>
      match r.got with
      | some (v, p) => if x.liveTok r.tok then sr.put r.reg v p else sr
      | none => sr) x.sr
    replies := x.replies.filter (fun r => !here r) }
/-- The group as a handler finds it (R173): empty queues, no path, nothing pending, latches lost (R171). It is ACTIVE whatever it was (R147), also where its core's active
set is full: the limit of R174 binds the filling of the set alone (DESIGN CHOICE; log entry 17). -/
def Group.fresh (x : Group) (tok : Nat) : Group :=
  { x with
    lane := .empty, arrival := .clear, k := 0, pending := [], tok := tok, lr := x.lr.loseLatches, lossNext := false,
    gstate := .active, retries := [], want := [], pairReady := none, pairMatch := none, pairLost := false }
/-- Entry to level H or H2 (R129, R430): kind, orig, masks, record address, the address at which the scalar stream will resume, the lane word
and the size of the scalar instruction that caused it. -/
def State.enter (s : State) (g kind orig : Nat) (fmask dmask : Mask) (frec : Nat) (pc : DWord) (mark : Option WordMark)
    (size : Nat) : State :=
  let s := (s.interruptWait g).finishMatrix g
  let x := s.group g
  let up := x.level
  let base := s.frameVa g up
  let o := s.owner (s.ownerOf g)
  let (dev, s) := s.freeRun 202
  let s := if up = 0 then s.putBlock g base (if kind = 33 || kind = 35 then 2 else 1) pc fmask dmask dev
    else s.putBlock g base (if kind = 33 || kind = 35 then 2 else 1) pc x.fmask x.dmask dev
  let (tok, s) := s.fresh
  let vec := match kind with | 33 => o.pvec | 35 => o.pvec | 36 => o.rvec | _ => o.hvec
  s.updGroup g (fun x =>
    let a := x.aside mark size dev
    { x.fresh tok with
      level := up + 1, pc := vec, fmask := fmask, dmask := dmask, frec := BitVec.ofNat 64 frec,
      hcause := BitVec.ofNat 64 (kind + orig * 256 + up * 2 ^ 14), sframe := BitVec.ofNat 64 base,
      hAside := if up = 0 then some a else x.hAside, h2Aside := if up = 0 then x.h2Aside else some a })

/-! ## Saves (R130, R132, R133) -/
/-- Words of a store, re-keyed, into the reserve (R107, R131). -/
def State.dumpStore (s : State) (o : Nat) (m : Store) (src va : Nat) : Nat → State
  | 0 => s
  | n + 1 =>
    let (w, c) := m.read src
    let l := s.reserveLoc o va
    let s := match l with | .dev ma => s.dropHeld ma | _ => s
    (s.homeWrite l w (rekeyCode c (src % 65536) l.off)).dumpStore o m (src + 4) (va + 4) n
/-- Words from the reserve into a store, re-keyed. -/
def loadStore (s : State) (o : Nat) (m : Store) (dst va : Nat) : Nat → Store
  | 0 => m
  | n + 1 =>
    let l := s.reserveLoc o va
    let (w, c) := s.readLoc l
    loadStore s o (m.write dst w (rekeyCode c l.off (dst % 65536))) (dst + 4) (va + 4) n
/-- The registers and lane-private slices of a group go into its save frame (R130, R133). -/
def State.putVectors (s : State) (g base : Nat) : State :=
  let x := s.group g
  let o := s.ownerOf g
  let d := s.descOf x.team
  let s := (List.range d.regs).foldl (fun s k =>
    let s := s.putReserveWords o (base + 0x6000 + 128 * k) ((List.range 32).map (fun l => x.lr.get k l))
    s.putReserve o (base + 0xC000 + 4 * k) (maskOf (fun l => (x.lr.get k l).2)) false) s
  (List.range 32).foldl (fun s l => s.dumpStore o x.priv (x.privAt + d.lanepriv * l) (base + 0x4000 + 256 * l) (d.lanepriv / 4)) s
/-- They return (R134): a register is poisoned as its bit says. -/
def restoreVectors (g base : Nat) : S Unit := do
  let s ← get
  let x := s.group g
  let d := s.descOf x.team
  let regs ← (List.range d.regs).mapM (fun k => do
    let (p, _) ← restWord g (base + 0xC000 + 4 * k)
    (List.range 32).mapM (fun l => do
      let (w, q) ← restWord g (base + 0x6000 + 128 * k + 4 * l)
      pure (k * 32 + l, w, p.getLsbD l || q)))
  modify (fun s => s.updGroup g (fun x =>
    { x with
      lr := { x.lr with v := regs.flatten.foldl (fun v (e : Nat × Word × Bool) => tabPut v e.1 (e.2.1, e.2.2)) x.lr.v }.loseLatches
      priv := (List.range 32).foldl
        (fun m l => loadStore s (s.ownerOf g) m (x.privAt + d.lanepriv * l) (base + 0x4000 + 256 * l) (d.lanepriv / 4)) .zero }))
/-- The first team frame of a team's run (R426). -/
def State.teamFrameVa (s : State) (t : Nat) : Nat :=
  reserveBase + ((s.team t).run.getD 0 + 2 * (s.descOf t).max) * frameBytes
/-- The park slots of a group become free (R282). -/
def State.releaseParks (s : State) (g : Nat) : State :=
  let held := (s.group g).slotsHeld.map (·.2)
  ({ s with parks := s.parks.filter (fun p => !held.contains p.1) }).updGroup g
    (fun x => { x with slotsHeld := [], pendingFault := none })
/-- The group that a group's waiting pair has found, while that one's waits too, with the later of the cycles at which the two became ready (R359). -/
def State.matched (s : State) (g : Nat) : Option (Nat × Nat) :=
  (s.group g).pairMatch.filter (fun m => (s.group m.1).pairMatch == some (g, m.2))
/-- A group that loses its pairing (R361): its partner loses it too, and takes trap 10 where it waits in pair or vmmap. -/
def State.losePair (s : State) (g : Nat) : State :=
  let p := (s.group g).partner <|> (s.matched g).map (·.1)
  let s := s.updGroup g (fun x => { x with partner := none, pairReady := none, pairMatch := none, seq := 0 })
  match p with
  | none => s
  | some h =>
    let waits := s.matrix.any (fun m => m.2.group == h && m.2.kind == 2 && !m.2.started)
    { s with matrix := s.matrix.filter (fun m => !(m.2.group == h && m.2.kind == 2 && !m.2.started)) }.updGroup h
      (fun x => { x with partner := none, pairMatch := none, seq := 0, pairLost := waits || x.pairReady.isSome })
/-- A forced save of a group (R133): its running level's control state, vectors and slices go to its frame; it becomes SAVED. A release at .dev scope
goes first (R245); a vmma that has not started waits for the resume (R354). The block's c.dmask records the lanes that completed a word which is cut. -/
def State.forceSave (s : State) (g : Nat) : State :=
  let s := (s.interruptWait g).finishMatrix g
  let x := s.group g
  let s := (s.commit x.team).losePair g
  let b := if x.level = 2 then 1 else 0
  let base := s.frameVa g b
  let (dev, s) := s.freeRun 202
  let s := s.putBlock g (base + 0x2000) 4 x.pc x.fmask (x.lane.partDone.getD x.dmask) dev
  let s := s.putVectors g base
  let s := s.releaseParks g
  let s := s.updTeam x.team (fun t => { t with forced := true })
  s.updGroup g (fun x =>
    { x with
      gstate := .saved, coop := false, pleft := 0, dev := dev, preempt := none, lr := x.lr.loseLatches, retries := [], want := [],
      pairLost := false })
/-- The lane registers of a group are not preserved (R132): every one holds a free value from number k on (log entry 2). -/
def Group.loseVectors (x : Group) (regs k : Nat) : Group :=
  { x with
    lr := { x.lr with v := (List.range (regs * 32)).map (fun n => (n, (Config.freeWord (k + n), Config.freeBit (k + n)))) }.loseLatches }
/-- A cooperatively saved group's registers are not preserved (R132); its slices and its team's scratchpad are open from the placement of the resume on. -/
def State.loseGroup (s : State) (g : Nat) : State :=
  let d := s.descOf (s.group g).team
  let (n, s) := s.freeRun (d.regs * 32)
  s.updGroup g (fun x => x.loseVectors d.regs n)
/-- The staged tiles of a team's vmmas words that the engine has not begun, in the order of their groups and of their issue (R357, R358). -/
def State.stagedOps (s : State) (t : Nat) : List (Nat × MatrixOp) :=
  s.matrix.filter (fun m => m.2.kind == 1 && m.2.staged.isSome && (s.group m.2.group).team == t)
/-- The words of a tile pair as they stand in 4 KiB of staging. -/
def MatrixOp.tiles (m : MatrixOp) : List (Word × Bool) := match m.staged with | some (a, b, _, _) => a ++ b | none => []
/-- When every group of a team is saved it becomes SAVED (R133, R202): with one forced its scratchpad and its staged tiles go into its team frames, the tiles behind the
scratchpad (log entry 8). -/
def State.settleTeam (s : State) (t : Nat) : State :=
  if (s.team t).tstate = .placed && (s.groupsOf t).all (fun g => (s.group g).gstate == .saved) then
    let n := (s.descOf t).scratch / 4
    let o := (s.kernelOf t).owner
    let s := if (s.team t).forced then
        let s := s.dumpStore o (s.team t).sram (s.team t).sramAt (s.teamFrameVa t) n
        (s.stagedOps t).zipIdx.foldl (fun s (e : (Nat × MatrixOp) × Nat) =>
          s.putReserveWords o (s.teamFrameVa t + 4 * n + 4096 * e.2) e.1.2.tiles) s
      else s
    s.updTeam t (fun x => { x with tstate := .saved })
  else s
/-- The staged tiles of a resumed team return from its team frames (R134). -/
def restoreTiles (t : Nat) : S Unit := do
  let s ← get
  (s.stagedOps t).zipIdx.forM (fun (e : (Nat × MatrixOp) × Nat) => do
    let va := s.teamFrameVa t + 4 * ((s.descOf t).scratch / 4) + 4096 * e.2
    let na := match e.1.2.staged with | some (a, _, _, _) => a.length | none => 0
    let nb := match e.1.2.staged with | some (_, b, _, _) => b.length | none => 0
    let ws ← (List.range (na + nb)).mapM (fun i => restWord e.1.2.group (va + 4 * i))
    modify (fun s => { s with matrix := s.matrix.map (fun m =>
      if m.1 = e.1.1 then (m.1, { m.2 with staged := m.2.staged.map (fun x => (ws.take na, ws.drop na, x.2.2.1, x.2.2.2)) }) else m) }))
/-- The merge of a saved group's completion area (R135): the area clears, but for the wake counts. Replies and completed copies stand in the group already. -/
def State.clearArea (s : State) (g : Nat) : State :=
  let o := s.ownerOf g
  let va := s.frameVa g 0 + 0xC300
  let s := s.putReserve64s o va [0, 0]
  s.putReserve64s o (va + 0x18) (List.replicate 17 0)

end Sys2Proof.Machine
end

