-- ==== Sys2Proof/Machine/Stop.lean ====
section
/-! DEFINITION. Owners and errors: the record, queues that stop, engine operations that end, the stop latch, team rollback, and the severity matrix (R113, R120, R136, R183, R212, R392, R396, R399 to R402). -/
namespace Sys2Proof.Machine

/-! ## The owner record in reserve frame 0 (R113) -/
def State.putRecord (s : State) (o : Nat) : State :=
  let x := s.owner o
  let d (n : Nat) : DWord := BitVec.ofNat 64 n
  s.putReserve64s o reserveBase
    [d (o + 256), x.ostat, d (x.frames + x.reserve * 2 ^ 32 + x.contexts * 2 ^ 48), d (x.walkBudget + x.memBudget * 2 ^ 32),
     d (x.fabBudget + x.copyBudget * 2 ^ 32), d (x.share + x.encrypted.toNat * 2 ^ 16), x.hvec, x.pvec, x.rvec,
     x.pbud &&& 0xFFFFFFFF, x.wline, x.spool, x.fqbase, x.fqcap &&& 0xFFFFFFFF]
/-- The owner changes and its record with it. -/
def State.setOwnerRec (s : State) (o : Nat) (x : Owner) : State := (s.setOwner o x).putRecord o
/-- The owner moves to a state (R120). -/
def State.setOstate (s : State) (o : Nat) (st : OState) : State := s.setOwnerRec o { s.owner o with ostate := st }

/-! ## Queues of an owner (R183) -/
def State.queuesOf (s : State) (o : Nat) : List Nat :=
  (s.queues.filter (fun q => q.2.owner == o && q.2.qstate != .unbound)).map (·.1)
/-- The owner leaves RUNNING: its EMPTY and READY queues are HELD. -/
def State.holdQueues (s : State) (o : Nat) : State :=
  (s.queuesOf o).foldl (fun s q =>
    let x := s.queue q
    if x.qstate = .empty || x.qstate = .ready then s.putQueue q { x with qstate := .held } else s) s
/-- The owner enters RUNNING: HELD queues look at their head record again. -/
def State.releaseQueues (s : State) (o : Nat) : State :=
  (s.queuesOf o).foldl (fun s q => if (s.queue q).qstate = .held then s.examine q else s) s

/-! ## Ends of engine operations (R319, R392, R396) -/
/-- All copies of batches 1 to n of a group are complete (R397). -/
def State.batchesDone (s : State) (g n : Nat) : Bool :=
  (s.group g).batches.all (fun b => decide (n < b.1) || b.2.all (fun c => (tabFind s.copies c).isNone))
/-- The highest batch of a group with every batch up to it complete. -/
def State.highestBatch (s : State) (g : Nat) : Nat :=
  (List.range (s.group g).n).foldl (fun m i => if m = i && s.batchesDone g (i + 1) then i + 1 else m) 0
/-- One completed copy more for the level that issued it (R396). -/
def Group.addK (x : Group) (tok : Nat) : Group :=
  let add (a : Option Aside) : Option Aside := a.map (fun y => if y.tok = tok then { y with k := y.k + 1 } else y)
  if x.tok = tok then { x with k := x.k + 1 }
  else { x with uAside := add x.uAside, hAside := add x.hAside, h2Aside := add x.h2Aside }
/-- A parked group whose copies are done becomes READY (R397). -/
def State.checkCopyWait (s : State) (g : Nat) : State :=
  match (s.group g).wait with
  | some (.copies k) => if k ≤ (s.group g).k then s.wakeGroup g 0 else s
  | some (.batch n) => if s.batchesDone g n then s.wakeGroup g 0 else s
  | some (.barrier _ _ _) => s
  | some (.word _) => s
  | none => s
/-- An acquire that reads the completion value at a place joins its operation (R264). -/
def State.noteCompletion (s : State) (l : Loc) (v : DWord) : State :=
  match l with
  | .dev ma => { s with completions := tabPut s.completions (ma / 8) v }
  | .host _ _ => s | .window _ _ => s | .regs _ _ => s | .sram _ _ => s | .priv _ _ _ => s | .chip _ _ => s | .closed _ _ => s
/-- A completion word at an owner's address: an access of the level that issued the operation (R431), released at .sys (R264). DESIGN CHOICE: R114 keeps the owner's
stores from the records in bytes 0x0000 to 0x11FF of reserve frame 0 and says nothing of the device's completion words there: they are written (log entry 8). -/
def State.completionWrite (s : State) (o lvl va : Nat) (v : DWord) : State :=
  match s.xlateNow o va 1 lvl with
  | (.ok l _ _ _, s1) => (s1.homeWrite64 l v).noteCompletion l v
  | (.fault _ _, s1) => s1 | (.range, s1) => s1 | (.beyond, s1) => s1 | (.wait, s1) => s1
/-- The park slots of an engine operation become free: the one its fault waits in, and the one its chunk keeps (R282). -/
def State.freeSlots (s : State) (fault : Option (FaultInfo × Nat)) (slot : Option Nat) : State :=
  { s with parks := s.parks.filter (fun p => some p.1 != slot && some p.1 != fault.map (fun f => f.2)) }
/-- A copy completes with its code (R392): the completion word, the group's count, the batch it may end, and a saved group's completion
area (R135). -/
def State.completeCopy (s : State) (id : Nat) : State :=
  match tabFind s.copies id with
  | none => s
  | some c =>
    let left := if c.code = 1 then 0 else c.total - c.written
    let v := BitVec.ofNat 64 (left * 2 ^ 32 + c.detail * 256 + c.code)
    let s := { s with copies := tabDel s.copies id }.freeSlots c.fault c.slot
    let s := if c.completion = 0 then s else s.completionWrite c.owner c.level c.completion.toNat v
    if (s.group c.group).gstate = .free then s
    else
      let s := s.updGroup c.group (fun x => x.addK c.tok)
      let s := if (s.group c.group).gstate = .saved then
          let va := s.frameVa c.group 0 + 0xC300
          (s.putReserve64 c.owner va (BitVec.ofNat 64 (s.highestBatch c.group))).putReserve64 c.owner (va + 8)
            (s.getReserve64 c.owner (va + 8) + 1)
        else s
      s.checkCopyWait c.group
/-- A collective completes at this member (R319). One that fails sends no more of what waits at its ports. -/
def State.completeColl (s : State) (id code : Nat) : State :=
  match tabFind s.colls id with
  | none => s
  | some c =>
    let v := BitVec.ofNat 64 (c.seq % 2 ^ 48 * 2 ^ 16 + (c.sat.toNat + 2 * c.failed.toNat) * 256 + code)
    let mine (r : OutReq) : Bool := r.msg.isSome && r.agent == id
    let s := { s with colls := tabDel s.colls id, fabricOut := if 3 ≤ code then s.fabricOut.filter (fun r => !mine r.2) else s.fabricOut }.freeSlots c.fault c.slot
    s.completionWrite c.owner c.level c.completion.toNat v

/-! ## Stopping an owner (R120, R121, R136) -/
/-- The stop latch is set, or a later cause is counted: every group is forced-saved, the queues stop, parked accesses are released, parked
copies are abandoned with code 2 and collectives end with code 4 (steps 1 to 4 of R136). g is the causing group for reasons 1 to 5. -/
def State.stopOwner (s : State) (o reason arg va : Nat) (g : Option Nat) : State :=
  let x := s.owner o
  match x.ostate with
  | .stopping => s.setOwner o { x with further := x.further + 1 }
  | .free => s
  | .stopped => s
  | .teardown => s
  | .built | .ready | .running | .preempting | .saved =>
    let spc := match g with | some h => (s.group h).pc | none => 0
    let frame := match g with
      | some h => BitVec.ofNat 64 (s.frameVa h (if (s.group h).level = 2 then 1 else 0))
      | none => 0
    let s := s.setOwnerRec o { x with
      ostate := .stopping, reason := reason, seq := (x.seq + 1) % 2 ^ 32, stopArg := arg, stopCycle := s.cycle, further := 0,
      stopVa := BitVec.ofNat 64 va, stopSpc := spc, stopFrame := frame }
    let s := s.count (match g with | some h => s.dieOf h | none => (diesOf x.dies).headD 0) o 30 1
    let s := (s.groupsOfOwner o).foldl (fun s h => if (s.group h).gstate = .saved then s else s.forceSave h) s
    let s := (s.teamsOfOwner o).foldl State.settleTeam s
    let s := s.holdQueues o
    let s := { s with walks := s.walks.filter (fun w => w.owner != o), walkers := s.walkers.filter (fun w => w.1 != o), flight := s.flight.filter (fun f => f.owner != o) }
    let parked := (s.copies.filter (fun c => c.2.owner == o && (c.2.fault.isSome || c.2.waits.isSome))).map (·.1)
    let s := parked.foldl (fun s c =>
      match tabFind s.copies c with
      | some y => { s with copies := tabPut s.copies c { y with code := if y.code = 0 then 2 else y.code } }.completeCopy c
      | none => s) s
    let colls := (s.colls.filter (fun c => c.2.owner == o)).map (·.1)
    colls.foldl (fun s c => s.completeColl c 4) s

/-- A group of a team has been saved: the team may be SAVED, and with its last group the owner leaves PREEMPTING for SAVED (R120). -/
def State.afterSave (s : State) (t : Nat) : State :=
  let s := s.settleTeam t
  let o := (s.kernelOf t).owner
  if (s.owner o).ostate = .preempting && (s.groupsOfOwner o).all (fun g => (s.group g).gstate == .saved) then s.setOstate o .saved else s

/-! ## Rollback (R212) -/
/-- A team of a set that may roll back: every team of the set placed and clean, and relaunched fewer than three times. -/
def State.canRollback (s : State) (t : Nat) : Bool :=
  (s.setTeams t).all (fun u => (s.team u).clean && decide ((s.team u).relaunch < 3) && (s.team u).tstate == .placed)
/-- The groups of a team are discarded with everything that waits for them. -/
def State.dropGroups (s : State) (t : Nat) : State :=
  let gs := s.groupsOf t
  let s := gs.foldl (fun s g => (s.losePair g).releaseParks g) s
  { s with
    groups := s.groups.filter (fun g => !gs.contains g.1)
    waits := s.waits.filterMap (fun e =>
      let e := { e with waiters := e.waiters.filter (fun w => !gs.contains w.group) }
      if e.waiters.isEmpty && e.queues.isEmpty then none else some e)
    matrix := s.matrix.filter (fun m => !gs.contains m.2.group) }
/-- A set rolls back: held stores dropped, core resources free, every team WAITING again, to be placed on another cluster. -/
def State.rollback (s : State) (t : Nat) : State :=
  let ts := s.setTeams t
  let s := s.count (dieOfCore (s.team t).core) (s.kernelOf t).owner 29 1
  ts.foldl (fun s u =>
    let s := s.dropGroups u
    s.updTeam u (fun x => { Team.init with
      kernel := x.kernel, idx := x.idx, die := x.die, relaunch := x.relaunch + 1, avoid := some (clusterOfCore x.core) })) s

/-! ## The severity matrix (R400 to R402) -/
/-- One record of the error log of a die, written at c.elbase; a full ring drops it (R402). -/
def State.logEvent (s : State) (e : Event) (action : Nat) : State :=
  let d := s.die e.die
  let n := fld d.eltail 0 48
  if d.elcap.toNat ≤ (n - fld d.elhead 0 48) then
    s.setDie e.die { d with eltail := d.eltail + BitVec.ofNat 64 (2 ^ 48) }
  else
    let at_ := d.elbase.toNat + 32 * (n % d.elcap.toNat)
    let place := match e.core with
      | some c => c % 8 + clusterOfCore c % 20 * 256 + dieOfCore c * 65536
      | none => 2 ^ 32 - 1
    let s := s.homeWrite64 (.dev at_) (BitVec.ofNat 64 (e.cls + e.src * 256 + action * 65536 + e.owner * 2 ^ 24 + place * 2 ^ 32))
    let s := s.homeWrite64 (.dev (at_ + 8)) (BitVec.ofNat 64 e.ma)
    let s := s.homeWrite64 (.dev (at_ + 16)) s.cycle
    let s := s.homeWrite64 (.dev (at_ + 24)) (BitVec.ofNat 64 e.detail)
    s.updDie e.die (fun x => { x with eltail := BitVec.ofNat 64 (fld x.eltail 48 16 * 2 ^ 48 + (n + 1) % 2 ^ 48) })
/-- MSI-X vector 0 of an owner's VF, or of the PF for owner 0. -/
def State.interrupt (s : State) (o : Nat) : State := { s with interrupts := s.interrupts ++ [(o, 0)] }
/-- The registers of die d after a partition reset (R11, R401, R410): the Reset column's values, those of c.pcfg, c.mint and c.nbnd the strap's. The role of c.spstat, whose
Reset column gives no value, keeps its own, so that a halted pair stays halted (DESIGN CHOICE; log entry 53). -/
def Die.partitionReset (x : Die) (strap d pstat : Nat) : Die :=
  { Die.reset strap d with role := x.role, leader := (Die.reset 0 d).elect % 4, pstat := pstat, started := x.started }
/-- The status registers of an owner's virtual function after a partition reset (R11, R273, R321); a walk setup on the way goes with its engine. -/
def Owner.partitionReset (x : Owner) : Owner :=
  { x with vreqst := 0, qbindst := 0, comst := 0, expst := 0, wdone := 0, wresult := 0, wsetup := none }
/-- The dies of the partition changes that a reset of some dies refuses: those asked for or begun there (R401, R412). -/
def State.changing (s : State) (mask : Nat) : List Nat :=
  ((diesOf mask).map (fun d => if (s.die d).pstat % 16 = 1 then diesOf (fld (s.die d).pcmd 56 4) else [])).flatten
/-- The bound mirrors of a die's cores, and the pushes on their way to them, are gone with its engines. -/
def State.dropMirrors (s : State) (mask : Nat) : State :=
  let on (core : Nat) : Bool := mask / 2 ^ dieOfCore core % 2 == 1
  { s with mirrors := s.mirrors.filter (fun m => !on (m.1 / 8)), pushes := s.pushes.filter (fun p => !on p.core) }
/-- Reset partition (R401): its owners stop with reason 6, then the registers, caches, mirrors and service pairs of its dies reset, and the status registers of its owners'
virtual functions; memory, frame maps and records are kept, and a partition change in progress is refused. c.elect and c.pcap are the package's (R410): every die's take their reset values. -/
def State.resetPartition (s : State) (die arg : Nat) : State :=
  let mask := (s.die die).pcfg
  let os := (s.owners.filter (fun o => (diesOf o.2.dies).any (fun d => mask / 2 ^ d % 2 == 1))).map (·.1)
  let s := os.foldl (fun s o => s.stopOwner o 6 arg 0 none) s
  let s := { s with tlb := s.tlb.filter (fun t => !os.contains t.owner), badCopies := [], remote := s.remote.filter (fun e => mask / 2 ^ (e.1 % 4) % 2 != 1), hostLines := s.hostLines.filter (fun e => mask / 2 ^ (e.1 % 4) % 2 != 1) }
  let dies := s.changing mask
  let s := { s with pchanges := s.pchanges.filter (fun c => !(diesOf c.dies).any (fun d => mask / 2 ^ d % 2 == 1)) }
  let s := os.foldl (fun s o => s.updOwner o Owner.partitionReset) (s.dropMirrors mask)
  let s := dies.foldl (fun s d => s.updDie d (fun x => { x with pstat := 0x403 })) s
  let s := (List.range 4).foldl (fun s d => s.updDie d (fun x => { x with elect := (Die.reset 0 d).elect, pcap := (Die.reset 0 d).pcap })) s
  (diesOf mask).foldl (fun s d =>
    (s.setDie d ((s.die d).partitionReset s.strap d (if dies.contains d then 0x403 else 0))).setGroup (serviceGroup d) servicePair) s
/-- The team that an event falls on: the one whose group consumed the word (R401). -/
def State.eventTeam (s : State) (e : Event) : Option Nat :=
  e.group.bind (fun g => if (s.group g).level != 3 && (s.group g).gstate != .free then some (s.group g).team else none)
/-- The severity entry of an event. -/
def State.severity (s : State) (e : Event) : Nat := fld (tabGet 0 (s.die e.die).sev e.cls) (4 * e.src) 4
/-- An event rolls its team back (R212, R401). -/
def State.rollsBack (s : State) (e : Event) (t : Option Nat) : Bool :=
  decide (8 ≤ s.severity e) && decide (e.src ≤ 4) && (match t with | some t => s.canRollback t | none => false)
/-- One event meets the severity matrix (R401). decided lists the teams whose fate an earlier event of the same instruction decided, t is the team it falls on, and
only says that a reset of its partition overrides its own action, so that it decides nothing. -/
def State.applyEvent (s : State) (decided : List Nat) (e : Event) (t : Option Nat) (only : Bool) : State × List Nat :=
  let s := s.count e.die e.owner e.cls 1
  let decided' := if only then decided else t.toList ++ decided
  if only || t.any (fun t => decided.contains t) then (s.logEvent e 1, decided')
  else if s.rollsBack e t then ((s.logEvent e 5).rollback (t.getD 0), decided')
  else
    let arg := e.cls * 256 + e.src
    let s' := match s.severity e % 8 with
      | 0 => s
      | 1 => s.logEvent e 1
      | 2 => (s.logEvent e 2).interrupt e.owner
      | 3 => if e.owner = 0 then (s.logEvent e 2).interrupt 0 else (s.logEvent e 3).stopOwner e.owner 7 arg 0 none
      | 4 => (s.logEvent e 4).resetPartition e.die arg
      | _ => s
    (s', decided')
/-- The events of an instruction or a step meet the matrix in order, each with its team and whether it is overridden. -/
def applyEvents (s : State) (decided : List Nat) : List (Event × Option Nat × Bool) → State
  | [] => s
  | (e, t, only) :: r =>
    let (s', d) := s.applyEvent decided e t only
    applyEvents s' d r
/-- An event resets its partition, as the table stands. -/
def State.resets (s : State) (e : Event) : Bool := !s.rollsBack e (s.eventTeam e) && s.severity e % 8 == 4
/-- The events reported so far meet the matrix. A reset of a partition overrides the other actions in it (R401). -/
def State.flush (s : State) : State :=
  let over_ (e : Event) : Bool := !s.resets e && s.evs.any (fun f => s.resets f && (s.die f.die).pcfg / 2 ^ e.die % 2 == 1)
  applyEvents { s with evs := [] } [] (s.evs.map (fun e => (e, s.eventTeam e, over_ e)))

end Sys2Proof.Machine
end

