-- ==== Sys2Proof/Machine/Ops.lean ====
section
/-! DEFINITION. The operations every instruction is made of: taking an exception and returning from one, each ONE shared operation; the checks and waits
of the two streams; and the accesses to memory (R127 to R129, R142, R143, R287 to R289, R368 to R385). -/
namespace Sys2Proof.Machine

/-! ## Taking an exception -/
/-- A trap: cause, argument, the trapping word's address, whether it is a lane word, the trapping lanes, the active lanes that
completed, c.tinfo, the bytes of a scalar instruction, and the lane word's mark (R123, R127). -/
structure TrapInfo where
  cause : Nat
  arg : Nat
  pc : DWord
  lane : Bool
  mask : Mask
  done : Mask
  info : DWord
  size : Nat
  mark : Option WordMark
  deriving DecidableEq, Repr

/-- c.tcause (R123). -/
def TrapInfo.causeReg (t : TrapInfo) : DWord := BitVec.ofNat 64 (t.arg * 65536 + t.lane.toNat * 128 + t.cause)
/-- c.tpc: bit 0 is 1 for a lane word (R122). -/
def TrapInfo.pcReg (t : TrapInfo) : DWord := if t.lane then t.pc ||| 1 else t.pc
/-- The address at which the scalar stream resumes (R127, R430); spc is its next unexecuted instruction. -/
def TrapInfo.resume (t : TrapInfo) (spc : DWord) : DWord :=
  if t.lane then spc else if t.cause = 6 then t.pc + 4 else t.pc
/-- The four registers that every delivery writes (R127, R430). -/
def TrapInfo.regs (t : TrapInfo) (r : TrapRegs) : TrapRegs :=
  { r with tcause := t.causeReg, tpc := t.pcReg, tmask := t.mask.zeroExtend 64, tinfo := t.info }

/-- Delivery to the user trap handler (R127). -/
def State.userTrap (s : State) (g : Nat) (t : TrapInfo) : State :=
  let s := s.finishMatrix g
  let (tok, s) := s.fresh
  s.updGroup g (fun x =>
    { x.fresh tok with
      uAside := some (x.aside t.mark 0 0), pc := x.utrap,
      tr := { t.regs x.tr with tspc := t.resume x.pc, tctl := 2 } })
/-- The entry of kind 34 (R128, R430): the entry block keeps the trap registers as they were. -/
def State.escalate (s : State) (g : Nat) (t : TrapInfo) : State :=
  let size := if t.lane || t.cause == 6 then 0 else t.size
  let s := s.enter g 34 t.cause t.mask t.done 0 (t.resume (s.group g).pc) t.mark size
  s.updGroup g (fun x => { x with tr := t.regs x.tr })
/-- A trap at level S (R405). -/
def State.serviceTrap (s : State) (g : Nat) (t : TrapInfo) : State :=
  s.updGroup g (fun x =>
    { x with
      tr := { x.tr with tcause := t.causeReg, tpc := t.pcReg, tinfo := t.info },
      pc := (s.die (s.dieOf g)).svec, retries := [], want := [] })
/-- Taking a trap (R127, R128, R405): the user handler, an entry of kind 34, a stop with reason 5 at levels H and H2, or c.svec. -/
def State.takeTrap (s : State) (g : Nat) (t : TrapInfo) : State :=
  match (s.group g).level with
  | 0 => if (s.group g).utrap != 0 && !(s.group g).tr.tctl.getLsbD 1 then s.userTrap g t else s.escalate g t
  | 3 => s.serviceTrap g t
  | _ => (s.updGroup g (fun x => x.keepMark t.mark)).stopOwner (s.ownerOf g) 5 t.cause 0 (some g)

/-- A free park slot of a die that the owner may take (R282). -/
def State.freePark (s : State) (die o : Nat) : Option Nat :=
  let mine := (s.parks.filter (fun p => p.1 / Config.parkSlots == die && p.2.owner == o)).length
  if Config.parkSlotsPerOwner ≤ mine then none
  else (leastFrom (fun n => (tabFind s.parks (die * Config.parkSlots + n)).isNone) 0 Config.parkSlots).map
    (die * Config.parkSlots + ·)
/-- The double words of a fault record (R290). Its cycle is that of the fault, which may have waited for its park slot. -/
def State.recordWords (s : State) (g : Nat) (f : FaultInfo) (seq park : Nat) : List DWord :=
  let x := s.group g
  let t := s.team x.team
  let kindOf (l : Nat) : Nat := ((f.lanes.find? (fun e => e.1 == l)).map (fun e => e.2.1)).getD 0
  let d (n : Nat) : DWord := BitVec.ofNat 64 n
  let kinds (b : Nat) : DWord := d ((List.range 8).foldl (fun v i => v + kindOf (8 * b + i) * 256 ^ i) 0)
  [d seq, d (f.source + f.kind * 2 ^ 8 + f.access * 2 ^ 16 + max x.level f.level * 2 ^ 24 + f.code % 2 ^ 32 * 2 ^ 32), f.dmask ++ f.fmask, f.instr,
   d (t.idx % 2 ^ 32 + x.idx % 256 * 2 ^ 32 + s.lcoreOf x.team % 256 * 2 ^ 40 + t.die.getD 0 % 4 * 2 ^ 48), f.since.getD s.cycle,
   d (park % Config.parkSlots + f.width * 2 ^ 16), 0,
   kinds 0, kinds 1, kinds 2, kinds 3] ++ List.replicate 20 0 ++
  (List.range 32).map (fun l => ((f.lanes.find? (fun e => e.1 == l)).map (fun e => e.2.2)).getD 0)
/-- A record joins the owner's queue (R287 step 3): its address and the state. -/
def State.putFaultRecord (s : State) (g : Nat) (f : FaultInfo) (park : Nat) : Nat × State :=
  let o := s.ownerOf g
  let x := s.owner o
  let va := x.fqbase.toNat + 512 * (x.fqtail.toNat % x.fqcap.toNat)
  let s := s.updOwner o (fun x => { x with fqtail := x.fqtail + 1, records := x.records + 1 })
  (va, s.putReserve64s o va (s.recordWords g f (x.records + 1) park))
/-- The address a fault names in a stop record (R137): that of its lowest faulting lane. -/
def FaultInfo.va (f : FaultInfo) : Nat := ((f.lanes.head?).map (fun e => e.2.2.toNat)).getD 0
/-- The accesses of a fault, one for each 64 KiB page. -/
def FaultInfo.pages (f : FaultInfo) (lvl : Nat) : List (DWord × Nat × Nat) :=
  f.lanes.foldl (fun r e => if r.any (fun p => p.1.toNat / 65536 == e.2.2.toNat / 65536) then r else r ++ [(e.2.2, f.access, lvl)]) []
/-- Taking a translation fault (R287, R289): the park slot, the record, and the entry of kind 32; a stop with reason 4 where the queue is full
and with reason 2 at H2. Counter 26 counts every one. With no park slot the fault waits in place, which counter 27 counts (R282, R404). -/
def State.takeFault (s : State) (g : Nat) (f : FaultInfo) : State :=
  let o := s.ownerOf g
  if (s.group g).level = 2 then ((s.count (s.dieOf g) o 26 1).updGroup g (fun x => x.keepMark f.mark)).stopOwner o 2 f.kind f.va (some g)
  else
    match s.freePark (s.dieOf g) o with
    | none => s.updGroup g (fun x => { x with pendingFault := some { f with since := some (f.since.getD s.cycle) } })
    | some p =>
      let w := s.owner o
      let s := s.count (s.dieOf g) o 27 (s.cycle - f.since.getD s.cycle).toNat
      let s := { s with parks := tabPut s.parks p { owner := o, pages := f.pages (s.group g).level } }.updGroup g
        (fun x => { x with pendingFault := none, slotsHeld := (x.level, p) :: x.slotsHeld })
      let s := s.count (s.dieOf g) o 26 1
      if w.fqtail - w.fqhead == w.fqcap then
        (s.updGroup g (fun x => x.keepMark f.mark)).stopOwner o 4 f.kind f.va (some g)
      else
        let (va, s) := s.putFaultRecord g f p
        s.enter g 32 0 f.fmask f.dmask va (s.group g).pc f.mark f.size
/-- A fault on a reserve address beyond the reserve (R289): a stop with reason 3 at H, and with reason 2 at H2. -/
def State.takeReserve (s : State) (g : Nat) (f : FaultInfo) : State :=
  ((s.count (s.dieOf g) (s.ownerOf g) 26 1).updGroup g (fun x => x.keepMark f.mark)).stopOwner (s.ownerOf g) (if (s.group g).level = 2 then 2 else 3) 7 f.va (some g)

/-! ## Returning from an exception -/
/-- A restored lane context with the interrupted word still to be finished (R142, R143): for some lanes, or skipped. -/
def Aside.resumeLane (a : Aside) (skip : Bool) : LaneCtx :=
  match a.word with
  | none => a.lane
  | some m => a.lane.leave m.path (m.redo skip)
/-- The return from a user trap handler (R142). -/
def Group.returnUser (x : Group) (a : Aside) : Group :=
  { x with
    lane := a.resumeLane (!(x.tr.tmask != 0 && x.tr.tctl.getLsbD 0)), arrival := a.arrival, k := a.k, pending := a.pending,
    tok := a.tok, lr := x.lr.loseLatches, lossNext := a.loss, pc := x.tr.tspc, tr := { x.tr with tctl := 0 }, uAside := none,
    replies := x.replies.map (fun r => if r.tok = x.tok then { r with tok := a.tok } else r), retries := [], want := [] }
/-- The return from level H or H2 (R143) once the entry block's fields stand in the group: pc is the recorded address, lane the lane
context with the block's queue words. -/
def Group.returnLevel (x : Group) (a : Aside) (lane : LaneCtx) (pc : DWord) : Group :=
  let kind := fld x.hcause 0 6
  let skip := x.hcause.getLsbD 16 && (kind == 32 || kind == 34)
  let a' := { a with lane := lane }
  { x with
    lane := a'.resumeLane skip, k := a.k, pending := a.pending, tok := a.tok, lr := x.lr.loseLatches, lossNext := a.loss,
    pc := if skip then pc + BitVec.ofNat 64 a.size else pc, level := a.level, fmask := a.fmask, dmask := a.dmask, frec := a.frec,
    hcause := a.hcause, sframe := a.sframe, hAside := if a.level = 0 then none else x.hAside,
    h2Aside := if a.level = 0 then x.h2Aside else none, retries := [], want := [] }
/-- The park slots that a level's entries took are released (R282). -/
def State.releaseLevelParks (s : State) (g lvl : Nat) : State :=
  let mine := (s.group g).slotsHeld.filter (fun e => e.1 == lvl)
  ({ s with parks := s.parks.filter (fun p => !mine.any (fun e => e.2 == p.1)) }).updGroup g
    (fun x => { x with slotsHeld := x.slotsHeld.filter (fun e => e.1 != lvl) })
/-- A pre-emption that has not saved a group reaches it whenever it is back at level U: it enters the pre-empt handler with the budget it has left, and
runs nothing at level U (R121). The entry is a commit point of the team (R245, R421), and c.dmask shows the lanes that have completed a word that is cut (R172). -/
def State.meetPreempt (s : State) (g : Nat) : State :=
  match (s.group g).preempt with
  | some kind =>
    if (s.group g).level = 0 then
      (s.commit (s.group g).team).enter g kind 0 0 ((s.group g).cutPending.lane.partDone.getD 0) 0 (s.group g).pc none 0
    else s
  | none => s
/-- Matrix operations that a handler issued and the engine has not started go on as its group's (R354). -/
def State.retag (s : State) (g old new : Nat) : State :=
  { s with matrix := s.matrix.map (fun m => if m.2.group = g && m.2.tok = old then (m.1, { m.2 with tok := new }) else m) }
/-- The return from the level a group runs at, H or H2 (R143). -/
def State.returnLevel (s : State) (g : Nat) : State :=
  match (if (s.group g).level = 2 then (s.group g).h2Aside else (s.group g).hAside) with
  | none => s
  | some a =>
    let base := (s.group g).sframe.toNat
    let (pc, s) := restoreBlock g base (s.retag g (s.group g).tok a.tok)
    let (lane, s) := restoreDev g base a.dev a.lane s
    let (lane, s) := restoreQueues g base lane s
    ((s.updGroup g (fun x => (x.returnLevel a lane pc).mergeReplies)).releaseLevelParks g a.level).meetPreempt g

/-! ## The scalar stream -/
/-- The scalar stream as a stream of its group: the lane stream's are its slots, 0 and 1 (R108). -/
def scalarStream : Nat := 2
/-- The words that a stream has read again are forgotten once its instruction has ended (R108). -/
def Group.endReads (x : Group) (z : Nat) : Group :=
  { x with retries := x.retries.filter (fun e => e.1 != z), want := x.want.filter (fun e => e.1 != z) }
/-- The acting group goes on n bytes further. -/
def Group.advance (x : Group) (n : Nat) : Group := { x.endReads scalarStream with pc := x.pc + BitVec.ofNat 64 n }
/-- The acting group goes on at an address. -/
def Group.goto (x : Group) (pc : DWord) : Group := { x.endReads scalarStream with pc := pc }
/-- The trap of a scalar instruction whose first word is w. -/
def scalarTrap (pc : DWord) (w size cause arg : Nat) : TrapInfo :=
  { cause := cause, arg := arg, pc := pc, lane := false, mask := 0, done := 0, info := BitVec.ofNat 64 (w % 2 ^ 32), size := size,
    mark := none }
/-- How an instruction of the scalar stream ends (R13): it completes, it takes its trap or its fault with nothing done, it parks, or it waits in place.
What was reported on the way to a wait in place is reported by the execution that follows (R420); a parked instruction is not executed again. -/
def scalarEnd (w size : Nat) (s : State) (r : EStateM.Result Stop State Unit) : Host.Outcome State Fault Refusal :=
  match r with
  | .ok _ t => .next t.flush
  | .error .wait t => .next (if (t.group t.cur).gstate = .parked then t else { t with evs := s.evs }).flush
  | .error (.trap c a) t => .next (t.takeTrap t.cur (scalarTrap (t.group t.cur).pc w size c a)).flush
  | .error (.tfault f) t => .next (t.takeFault t.cur { f with size := size }).flush
  | .error (.reserve f) t => .next (t.takeReserve t.cur f).flush
  | .error (.fault f) _ => .fault f
/-- An instruction of the scalar stream whose effect leaves the pc where it shall be. -/
def scalarJump (i : Instr) (m : M Unit) (s : State) : Host.Outcome State Fault Refusal :=
  scalarEnd (encodeWord i) (wordBytes i) s (m s)
/-- An instruction of the scalar stream that goes on with the next one. -/
def scalarOp (i : Instr) (m : M Unit) (s : State) : Host.Outcome State Fault Refusal :=
  scalarJump i (do m; upd (fun t => t.updG (fun x => x.advance (wordBytes i)))) s

/-! ## Operands and checks -/
def trap {α : Type} (cause : Nat) : M α := throw (.trap cause 0)
/-- s register a. -/
def sval (a : Nat) : M DWord := fun s => .ok (s.g.sr.get a) s
/-- A poisoned s register takes trap 3 (R100). -/
def clean (a : Nat) : M Unit := fun s => if s.g.sr.bad a then .error (.trap 3 0) s else .ok () s
/-- An s register that must not be poisoned. -/
def useReg (a : Nat) : M DWord := do
  clean a
  sval a
/-- A result and its poison bit. -/
def putReg (d : Nat) (v : DWord) (p : Bool) : M Unit := upd (fun s => s.setSr (s.g.sr.put d v p))
/-- The lane blocks that the stream enqueued have ended (R160, R418). -/
def Group.lanesIdle (x : Group) : Bool := x.lane.blocks.isEmpty && !x.lane.running
def needLanes : M Unit := fun s => if s.g.lanesIdle then .ok () s else .error .wait s
/-- Trap 15 at levels other than U and inside a user trap handler (R178, R179, R213). -/
def needUser : M Unit := fun s =>
  if s.g.level = 0 && !s.g.tr.tctl.getLsbD 1 then .ok () s else .error (.trap 15 0) s
/-- The privilege trap below level H (R75). -/
def needHandler : M Unit := fun s => if s.g.level = 0 then .error (.trap 2 0) s else .ok () s
/-- The privilege trap at levels other than H and H2 (R75, R292). -/
def needPaging : M Unit := fun s => if s.g.level = 1 || s.g.level = 2 then .ok () s else .error (.trap 2 0) s
/-- The privilege trap below level S (R75, R411). -/
def needService : M Unit := fun s => if s.g.level = 3 then .ok () s else .error (.trap 2 0) s
/-- Trap 15 at level S, which runs for no owner (log entry 7). -/
def needOwner : M Unit := fun s => if s.g.level = 3 then .error (.trap 15 0) s else .ok () s
/-- The group waits at a switch point and leaves the active set (R147, R176). -/
def park (w : Wait) : M Unit := do
  upd (fun s => s.updG (fun x => { x.endReads scalarStream with gstate := .parked, wait := some w, lossNext := true }))
  throw .wait
/-! ## Addresses (R237, R238) -/
/-- The place of an address in levels 2 to 4, for team t of owner o; none where the address breaks its form or range. -/
def State.teamPlace (s : State) (o t : Nat) (ms : Space) (ea : Nat) : Option Loc :=
  let d := s.descOf t
  match ms with
  | .gl => none
  | .pv => none
  | .sp => if ea < d.scratch then some (.sram t ((s.team t).sramAt + ea)) else none
  | .cl =>
    if ea < 2 ^ 22 && decide (ea % 2 ^ 19 < d.scratch) then
      (s.teamAt t (ea / 2 ^ 19)).map (fun u => .sram u ((s.team u).sramAt + ea % 2 ^ 19))
    else none
  | .ch =>
    let dies := diesOf (s.owner o).dies
    if ea < 2 ^ 32 && decide (ea % 2 ^ 30 < (s.owner o).share * 2 ^ 24) then
      (dies[ea / 2 ^ 30]?).map (fun p => .chip o (p * 2 ^ 30 + ea % 2 ^ 30))
    else none
/-- The place of an address in one of the spaces of levels 1 to 4, for lane l of group g. -/
def State.spacePlace (s : State) (g l : Nat) (ms : Space) (ea : Nat) : Option Loc :=
  let t := (s.group g).team
  match ms with
  | .pv =>
    if ea < (s.descOf t).lanepriv then some (.priv g l ((s.group g).privAt + (s.descOf t).lanepriv * l + ea)) else none
  | .gl => none
  | .sp => s.teamPlace (s.ownerOf g) t .sp ea | .cl => s.teamPlace (s.ownerOf g) t .cl ea | .ch => s.teamPlace (s.ownerOf g) t .ch ea
/-- The first access to a step of the chip scratchpad carves it (R241): its words are zero with their codes. -/
def State.carve (s : State) (l : Loc) : State :=
  match l with
  | .chip o a =>
    s.updOwner o (fun x =>
      if x.carved.contains (a / 2 ^ 30, a % 2 ^ 30 / 2 ^ 24) then x
      else { x with carved := x.carved ++ [(a / 2 ^ 30, a % 2 ^ 30 / 2 ^ 24)] })
  | .dev _ => s | .host _ _ => s | .window _ _ => s | .regs _ _ => s | .sram _ _ => s | .priv _ _ _ => s | .closed _ _ => s

/-- How an access to one address ends before it is performed (R369): its place and memory type, or why not. -/
inductive Reach where
  | ok (l : Loc) (ty : Nat)
  | trap (cause : Nat)
  | fault (kind code : Nat)
  | beyond
  | wait
  deriving DecidableEq, Repr
/-- Bytes 0x0000 to 0x11FF of reserve frame 0 take no store of the owner's code (R114). -/
def inRecord (ofi off : Nat) : Bool := ofi == 0 && decide (off < 0x1200)
/-- An access to host-coherent memory leaves a copy of the 64-byte line in the L2 of the die (R255). -/
def State.noteHost (s : State) (die : Nat) (l : Loc) (kind : Nat) : State :=
  match l with
  | .host ha true =>
    let k := ha / 64 * 4 + die
    let dirty := (kind == 1 || kind == 2) || tabGet false s.hostLines k
    { s with hostLines := tabPut s.hostLines k dirty }
  | .host _ false => s | .dev _ => s | .window _ _ => s | .regs _ _ => s | .sram _ _ => s | .priv _ _ _ => s | .chip _ _ => s | .closed _ _ => s
/-- Steps 2 to 5 of R369 for a global address: form, alignment, the records of R114, translation, memory type. -/
def State.reachGlobal (s : State) (g : Nat) (ea kind align : Nat) (types : Nat → Bool) : Reach × State :=
  let lvl := (s.group g).level
  if decide (2 ^ (if lvl = 3 then 48 else 56) ≤ ea) then (.trap 14, s)
  else if ea % align ≠ 0 then (.trap 12, s)
  else if (kind == 1 || kind == 2) && lvl != 3 && inReserve ea && inRecord ((ea - reserveBase) / 65536) (ea % 65536) then (.trap 2, s)
  else
    match s.xlate (s.caches g) (s.ownerOf g) ea kind lvl with
    | (.ok l ty ofi off, s') =>
      if (kind == 1 || kind == 2) && lvl != 3 && inRecord ofi off then (.trap 2, s')
      else if !types ty then (.trap 13, s')
      else if lvl != 3 && (s'.fillHeld (s.ownerOf g) l).1 then (.wait, (s'.fillHeld (s.ownerOf g) l).2)
      else (.ok l ty, s'.noteHost (s.dieOf g) l kind)
    | (.fault k c, s') => (.fault k c, s')
    | (.range, s') => (.trap 14, s')
    | (.beyond, s') => (.beyond, s')
    | (.wait, s') => (.wait, s')
/-- The same for any space; a chip-scratchpad step is carved. -/
def State.reach (s : State) (g l : Nat) (ms : Space) (ea kind align : Nat) (types : Nat → Bool) : Reach × State :=
  match ms with
  | .gl => s.reachGlobal g ea kind align types
  | .pv | .sp | .cl | .ch =>
    match s.spacePlace g l ms ea with
    | none => (.trap 14, s)
    | some p => if ea % align ≠ 0 then (.trap 12, s) else (.ok p 0, s.carve p)
/-- The fault of a scalar access to ea (R288): no masks, lane 0 of the record. -/
def scalarFault (pc : DWord) (source kind access code width : Nat) (ea : DWord) : FaultInfo :=
  { level := 0, source := source, kind := kind, access := access, code := code, fmask := 0, dmask := 0, instr := pc, width := width,
    lanes := [(0, kind, ea)], mark := none, size := 0, since := none }
/-- The place of a scalar access (R369). -/
def place (ms : Space) (ea : DWord) (kind width : Nat) (types : Nat → Bool) : M (Loc × Nat) := fun s =>
  let pc := s.g.pc
  match s.reach s.cur 0 ms ea.toNat kind width types with
  | (.ok l ty, s') => .ok (l, ty) s'
  | (.trap c, s') => .error (.trap c 0) s'
  | (.fault k c, s') => .error (.tfault (scalarFault pc 1 k kind c width ea)) s'
  | (.beyond, s') => .error (.reserve (scalarFault pc 1 7 kind 0 width ea)) s'
  | (.wait, s') => .error .wait s'
/-- The memory types that each kind of access reaches (R370). -/
def typesWide (ty : Nat) : Bool := ty != 4
def typesNarrow (ty : Nat) : Bool := decide (ty ≤ 3)
def typesAtomic (ty : Nat) : Bool := decide (ty ≤ 2)
def typesDevice (ty : Nat) : Bool := decide (ty ≤ 1)
def typesWindow (ty : Nat) : Bool := ty == 4
/-- The types of a scalar load or store of a width. -/
def typesOf : MWidth → Nat → Bool
  | .b => typesNarrow | .h => typesNarrow | .w => typesWide | .d => typesWide

/-! ## Reading words (R106, R108, R374) -/
/-- The machine address of a place, for an event. -/
def Loc.ma : Loc → Nat
  | .dev ma => ma | .host _ _ => 0 | .window _ _ => 0 | .regs _ _ => 0 | .sram _ _ => 0 | .priv _ _ _ => 0 | .chip _ _ => 0 | .closed ma _ => ma
/-- The word that a stream of the acting group has read again at an address (R108). -/
def Group.reread (x : Group) (z ma : Nat) : Option (Word × Byte) :=
  (x.retries.find? (fun e => e.1 == z && e.2.1 == ma)).map (fun e => e.2.2)
/-- A stream waits for its one retry of a word. -/
def Group.wants (x : Group) (z ma : Nat) : Group :=
  { x with want := if x.want.contains (z, ma) then x.want else x.want ++ [(z, ma)] }
/-- The word of a place is consumed by unit src of the acting group (R108). A word of device memory that is neither correct nor poison waits for
its one retry at the home (CHECK_RETRY); in the other spaces the retry reads the same word. -/
def consumeAt (src : Nat) (l : Loc) : M (Word × Bool) := fun s =>
  let l := l.word
  let (w, c) := s.firstRead s.cur l
  if codeOk w c l.off then .ok (w, false) s
  else if codePoison w c l.off then .ok (w, true) (s.report 3 src l.ma)
  else
    match l with
    | .dev ma =>
      match s.g.reread s.slot ma with
      | none => .error .wait (s.updG (fun x => x.wants s.slot ma))
      | some (w', c') =>
        if codeOk w' c' l.off then .ok (w', false) (s.report 1 src ma)
        else if codePoison w' c' l.off then .ok (w', true) (s.report 3 src ma)
        else .ok (w', true) (s.report 2 src ma)
    | .host _ _ => .ok (w, true) (s.report 2 src 0) | .window _ _ => .ok (w, true) (s.report 2 src 0)
    | .regs _ _ => .ok (w, true) (s.report 2 src 0) | .sram _ _ => .ok (w, true) (s.report 2 src 0)
    | .priv _ _ _ => .ok (w, true) (s.report 2 src 0) | .chip _ _ => .ok (w, true) (s.report 2 src 0) | .closed _ _ => .ok (w, true) (s.report 2 src 0)
/-- The n bytes from byte i of a word. -/
def bytesOf (w : Word) (i n : Nat) : DWord := BitVec.ofNat 64 (w.toNat / 2 ^ (8 * i) % 2 ^ (8 * n))
/-- The value at a place in a width, zero extended, and whether a covering word is poisoned (R372, R374). -/
def loadAt (src : Nat) (l : Loc) (wd : MWidth) : M (DWord × Bool) := do
  let (w, p) ← consumeAt src l
  match wd with
  | .b => pure (bytesOf w l.byte 1, p)
  | .h => pure (bytesOf w l.byte 2, p)
  | .w => pure (w.zeroExtend 64, p)
  | .d =>
    let (h, q) ← consumeAt src (l.plus 4)
    pure (h ++ w, p || q)

/-! ## Writing words (R101, R109, R375, R380) -/
/-- The place is in host memory: no codes, byte enables (R110, R380). -/
def Loc.isHost : Loc → Bool
  | .host _ _ => true
  | .dev _ => false | .window _ _ => false | .regs _ _ => false | .sram _ _ => false | .priv _ _ _ => false | .chip _ _ => false | .closed _ _ => false
/-- The whole words, with their codes, that a store of a width writes: a narrow one merges into the old word (R109). -/
def wordsFor (src : Nat) (l : Loc) (wd : MWidth) (v : DWord) (p : Bool) : M (List (Loc × Word × Byte)) := do
  let narrow (n : Nat) : M (List (Loc × Word × Byte)) := do
    if l.isHost then
      let s ← get
      let w := mergeBytes (s.readLoc l.word).1 l.byte n v.toNat
      pure [(l.word, w, checkCode w l.word.off)]
    else
      let (old, bad) ← consumeAt src l
      let w := mergeBytes old l.byte n v.toNat
      pure [(l.word, w, codeFor w (bad || p) l.word.off)]
  let w0 : Word := v.truncate 32
  let w1 : Word := (v >>> 32).truncate 32
  match wd with
  | .b => narrow 1
  | .h => narrow 2
  | .w => pure [(l, w0, codeFor w0 p l.off)]
  | .d => pure [(l, w0, codeFor w0 p l.off), (l.plus 4, w1, codeFor w1 p (l.plus 4).off)]
/-- The words are stored by the acting group's team: held in device memory, or at once at their homes (home, and always at level S). -/
def State.putWords (s : State) (home : Bool) : List (Loc × Word × Byte) → State
  | [] => s
  | (l, w, c) :: r =>
    (if home || s.g.level == 3 then s.agentWrite l w c else s.store s.g.team l w c).putWords home r
/-- A store at a place: a poisoned value loses its poison in host memory, with an event (R110). -/
def storeAt (src : Nat) (home : Bool) (l : Loc) (wd : MWidth) (v : DWord) (p : Bool) : M Unit := do
  let ws ← wordsFor src l wd v p
  upd (fun s => s.putWords home ws)
  if p && l.isHost then upd (fun s => s.report 4 9 0) else pure ()

/-! ## Orders and scopes (R256, R257, R260, R261, R425) -/
/-- Scopes from .clus up. -/
def scWide : MScope → Bool
  | .none => false | .grp => false | .team => false | .clus => true | .die => true | .dev => true | .sys => true | .rmt => true
def scSys : MScope → Bool
  | .sys => true
  | .none => false | .grp => false | .team => false | .clus => false | .die => false | .dev => false | .rmt => false
def scRmt : MScope → Bool
  | .rmt => true
  | .none => false | .grp => false | .team => false | .clus => false | .die => false | .dev => false | .sys => false
/-- The order releases, or acquires. -/
def ordRel : MOrder → Bool
  | .rel => true | .ar => true | .rlx => false | .acq => false
def ordAcq : MOrder → Bool
  | .acq => true | .ar => true | .rlx => false | .rel => false
/-- The acting group's team commits, unless the group is a service pair's, which holds nothing. -/
def State.commitMine (s : State) : State := if s.g.level = 3 then s else s.commit s.g.team
/-- A release (R256, R425): from .clus up the team commits and the agent's mirror pushes have landed; at .sys every acknowledgement is in (R311). -/
def release (sc : MScope) : M Unit := fun s =>
  if !scWide sc then .ok () s
  else if s.pushes.any (fun p => p.groups.contains s.cur) || (scSys sc && s.g.acks != 0) then .error .wait s
  else .ok () s.commitMine
/-- The scope reaches other dies: from .dev up, and .rmt. -/
def scDev : MScope → Bool
  | .none => false | .grp => false | .team => false | .clus => false | .die => false | .dev => true | .sys => true | .rmt => true
/-- What an acquire waits for first: at .sys every reply is in (R311). -/
def acquireWait (sc : MScope) : M Unit := fun s =>
  if scSys sc && s.g.replies.any (fun r => r.got.isNone) then .error .wait s else .ok () s
/-- What an acquire that reads no word does: from .dev up the copies that the acting group's die keeps of remote-home lines go (R254, R257). -/
def State.acquired (s : State) (sc : MScope) : State := if scDev sc then s.dropCopies (s.dieOf s.cur) else s
/-- The word that the acting group reads, at the home or through its die's copy, is of a completion value that the device wrote there (R264). -/
def State.readsCompletion (s : State) (home : Bool) (l : Loc) : Bool :=
  match l with
  | .dev ma =>
    let w := if home then s.mem.read ma else (s.copyWord (s.dieOf s.cur) ma).getD (s.mem.read ma)
    (tabFind (s.team s.g.team).held (ma / 4)).isNone &&
      (match tabFind s.completions (ma / 8) with | some v => w.1 == (v >>> (ma / 4 % 2 * 32)).truncate 32 | none => false)
  | .host _ _ => false | .window _ _ => false | .regs _ _ => false | .sram _ _ => false | .priv _ _ _ => false | .chip _ _ => false | .closed _ _ => false
/-- What an acquire does with the places that it has read: one that reads a completion value joins the operation whatever its scope (R264). -/
def State.acquiredFrom (s : State) (sc : MScope) (home : Bool) (ls : List Loc) : State :=
  if scDev sc || ls.any (fun l => s.readsCompletion home l) then s.dropCopies (s.dieOf s.cur) else s
/-- An acquire (R257). -/
def acquire (sc : MScope) : M Unit := do
  acquireWait sc
  upd (fun s => s.acquired sc)
/-- The promotion of R261 at a place: the other teams recorded on its line commit, and the read that follows is performed at the home, past its die's copy. -/
def promote (l : Loc) : M Unit :=
  match l with
  | .dev ma => upd (fun s => (s.commitAll (s.releasers s.g.team ma)).dropCopy (s.dieOf s.cur) ma)
  | .host _ _ => pure () | .window _ _ => pure () | .regs _ _ => pure () | .sram _ _ => pure () | .priv _ _ _ => pure ()
  | .chip _ _ => pure () | .closed _ _ => pure ()
/-- The line of a held release is recorded (R260). -/
def State.noteRelease (s : State) (l : Loc) : State :=
  match l with
  | .dev ma =>
    if s.g.level = 3 then s else
    s.updTeam s.g.team (fun x => if x.released.contains (ma / 512) then x else { x with released := x.released ++ [ma / 512] })
  | .host _ _ => s | .window _ _ => s | .regs _ _ => s | .sram _ _ => s | .priv _ _ _ => s | .chip _ _ => s | .closed _ _ => s

/-! ## Atomics (R259, R382, R383) -/
/-- Op of R382 on n bits. -/
def atomicVal {n : Nat} (op : AOp) (v b c : BitVec n) : BitVec n :=
  match op with
  | .add => v + b
  | .min => if b.slt v then b else v
  | .max => if v.slt b then b else v
  | .and => v &&& b
  | .or => v ||| b
  | .xor => v ^^^ b
  | .exch => b
  | .cas => if v = c then b else v
/-- The same on the low bits that a width names. -/
def atomicVal64 (op : AOp) (wd : MWidth) (v b c : DWord) : DWord :=
  match wd with
  | .d => atomicVal op v b c
  | .b | .h | .w => (atomicVal op (v.truncate 32) (b.truncate 32) (c.truncate 32) : Word).zeroExtend 64
/-- The operation uses c. -/
def isCas : AOp → Bool
  | .cas => true
  | .add => false | .min => false | .max => false | .and => false | .or => false | .xor => false | .exch => false
/-- A word as an atomic unit reads it for the acting group: held over committed, consumed there (R106, R383). -/
def atomicRead (l : Loc) : M (Word × Bool) := fun s =>
  if l.isHost then .ok ((s.readLoc l).1, false) s
  else
    let (w, c) := s.viewLoc s.g.team l
    let (v, p, e) := consume w c l.off
    .ok (v, p) (if e = 0 then s else s.report e 4 l.ma)
/-- The teams that hold atomic results on the line commit before another team's atomic (R259). -/
def settleAtomics (l : Loc) : M Unit :=
  match l with
  | .dev ma => upd (fun s => s.commitAll (s.atomicHolders s.g.team ma))
  | .host _ _ => pure () | .window _ _ => pure () | .regs _ _ => pure () | .sram _ _ => pure () | .priv _ _ _ => pure ()
  | .chip _ _ => pure () | .closed _ _ => pure ()
/-- After an atomic on device memory: the team is not clean (R212), and a held result is an atomic hold of its line (R210). -/
def State.noteAtomic (s : State) (home : Bool) (l : Loc) : State :=
  match l with
  | .dev ma =>
    if s.g.level = 3 then s
    else if home then s.soil s.g.team
    else s.updTeam s.g.team (fun x =>
      { x with clean := false, atomics := if x.atomics.contains (ma / 512) then x.atomics else x.atomics ++ [ma / 512] })
  | .host _ _ => s | .window _ _ => s | .regs _ _ => s | .sram _ _ => s | .priv _ _ _ => s | .chip _ _ => s | .closed _ _ => s
/-- One atomic operation at a place (R383): the old value and whether it is delivered poisoned. A poisoned operand or old value leaves the data as it
was, with poison codes. Each word of the returned value is checked again at unit src (R372). -/
def atomicAt (src : Nat) (home : Bool) (l : Loc) (op : AOp) (wd : MWidth) (b c : DWord) (bp cp : Bool) : M (DWord × Bool) := do
  settleAtomics l
  let (w0, p0) ← atomicRead l
  let (v, p1) ← (match wd with
    | .d => do
      let (w1, p1) ← atomicRead (l.plus 4)
      pure ((w1 ++ w0 : DWord), p1)
    | .b | .h | .w => pure ((w0.zeroExtend 64 : DWord), false) : M (DWord × Bool))
  let bad := p0 || p1 || bp || (isCas op && cp)
  storeAt src home l wd (if bad then v else atomicVal64 op wd v b c) bad
  upd (fun s => s.noteAtomic home l)
  if p0 then upd (fun s => s.report 3 src l.ma) else pure ()
  if p1 then upd (fun s => s.report 3 src (l.plus 4).ma) else pure ()
  pure (v, bad)

end Sys2Proof.Machine
end

