-- ==== Sys2Proof/Machine/Lanes.lean ====
section
/-! DEFINITION. The lane stream: paths and join records, lane sources and destinations, and how a lane word ends (R54 to R60, R154 to R156, R159, R162 to
R171, R323, R332, R369). -/
namespace Sys2Proof.Machine

/-! ## Paths and join records (R162 to R168) -/
/-- What is left to do when paths move (R165). -/
inductive PathWork where
  | arrive (z : Nat)
  | settle (k z : Nat)
  | place (p : Path × Nat)
  | fill
  deriving DecidableEq, Repr
/-- Some slot, park field or entry names record k. -/
def LaneCtx.names (c : LaneCtx) (k : Nat) : Bool :=
  c.slots.any (fun e => e.2.1.inner == some k) ||
  c.spill.any (fun e => e.2.outer == some k || (match e.2.park with | some (p, _) => p.inner == some k | none => false))
/-- A displaced path that still waits for its place names record k (R165, R167). -/
def waitsFor (k : Nat) (w : List PathWork) : Bool :=
  w.any (fun x => match x with | .place p => p.1.inner == some k | .arrive _ => false | .settle _ _ => false | .fill => false)
/-- The lowest empty slot. -/
def LaneCtx.emptySlot (c : LaneCtx) : Option Nat := leastFrom (fun z => (tabFind c.slots z).isNone) 0 2
/-- The entry that holds the earliest parked path, the lowest one on a tie. -/
def LaneCtx.earliest (c : LaneCtx) : Option (Nat × Path × Nat) :=
  c.spill.foldl (fun b e =>
    match e.2.park with
    | none => b
    | some (p, t) => (match b with
      | some (k, q, u) => if t < u then some (e.1, p, t) else some (k, q, u)
      | none => some (e.1, p, t))) none
/-- The lowest entry whose park field is empty takes a path. -/
def parkLowest (p : Path × Nat) : Tab JoinRec → Tab JoinRec
  | [] => []
  | (k, r) :: t => if r.park.isNone then (k, { r with park := some p }) :: t else (k, r) :: parkLowest p t
/-- CheckArrival, Settle and the filling of empty slots (R165, R168) at a time. A record that a displaced path names stands while the path waits for its place: no
continuation passes a join without its lanes (R167). -/
def LaneCtx.work (now : Nat) : Nat → List PathWork → LaneCtx → LaneCtx
  | 0, _, c => c
  | _ + 1, [], c => c
  | n + 1, .arrive z :: r, c =>
    match tabFind c.slots z with
    | some (p, _) =>
      (match p.inner with
      | some k =>
        (match tabFind c.spill k with
        | some j =>
          if p.pc = j.join then
            work now n (.settle k z :: r)
              { c with slots := tabDel c.slots z, spill := tabPut c.spill k { j with arrived := j.arrived ||| p.mask } }
          else work now n r c
        | none => work now n r c)
      | none => work now n r c)
    | none => work now n r c
  | n + 1, .settle k z :: r, c =>
    match tabFind c.spill k with
    | none => work now n (.fill :: r) c
    | some j =>
      if c.names k || waitsFor k r then work now n (.fill :: r) c
      else
        let c := { c with spill := tabDel c.spill k }
        let rest := (match j.park with | some p => [PathWork.place p] | none => []) ++ .fill :: r
        if j.arrived = 0 then
          (match j.outer with
          | some o => work now n (.settle o z :: rest) c
          | none => work now n rest c)
        else
          let q : Path := { pc := j.join, mask := j.arrived, inner := j.outer }
          work now n (.arrive z :: rest) { c with slots := tabPut c.slots z (q, now) }
  | n + 1, .place p :: r, c =>
    match c.emptySlot with
    | some z => work now n (.arrive z :: r) { c with slots := tabPut c.slots z (p.1, now) }
    | none => work now n r { c with spill := parkLowest p c.spill }
  | n + 1, .fill :: r, c =>
    match c.emptySlot, c.earliest with
    | some z, some (k, p, _) =>
      (match tabFind c.spill k with
      | some j =>
        work now n (.arrive z :: .fill :: r)
          { c with slots := tabPut c.slots z (p, now), spill := tabPut c.spill k { j with park := none } }
      | none => work now n r c)
    | some _, none => work now n r c
    | none, some _ => work now n r c
    | none, none => work now n r c
/-- The block has ended when no path remains; then every entry is free (R166). -/
def LaneCtx.close (c : LaneCtx) : LaneCtx :=
  if c.slots.isEmpty && c.spill.all (fun e => e.2.park.isNone) then { c with running := false, spill := [] } else c
/-- Work until nothing is left; a group has 16 records, so that is at most a few steps for each. -/
def LaneCtx.settleAll (c : LaneCtx) (now : Nat) (w : List PathWork) : LaneCtx := (c.work now 512 w).close
/-- The path of slot z goes on at pc (R165). -/
def LaneCtx.movePath (c : LaneCtx) (now z : Nat) (pc : DWord) : LaneCtx :=
  match tabFind c.slots z with
  | some (p, t) => { c with slots := tabPut c.slots z ({ p with pc := pc, redo := none }, t) }.settleAll now [.arrive z]
  | none => c
/-- vend: the path of slot z ends (R166). -/
def LaneCtx.endPath (c : LaneCtx) (now z : Nat) : LaneCtx :=
  match tabFind c.slots z with
  | some (p, _) =>
    let c := { c with slots := tabDel c.slots z }
    (match p.inner with
    | some k => c.settleAll now [.settle k z]
    | none => c.settleAll now [.fill])
  | none => c
/-- The branch of a path whose lanes part (R164): the lanes t go to a, the others to b, and all meet at join. None where every spill-stack
entry is in use. -/
def LaneCtx.diverge (c : LaneCtx) (now z : Nat) (t : Mask) (a b join : DWord) : Option LaneCtx :=
  match tabFind c.slots z, leastFrom (fun k => (tabFind c.spill k).isNone) 0 Config.spillDepth with
  | some (p, _), some k =>
    let y := 1 - z
    let rec_ : JoinRec := { join := join, arrived := 0, outer := p.inner, park := (tabFind c.slots y).map (fun e => (e.1, now)) }
    let pa : Path := { pc := a, mask := t, inner := some k }
    let pb : Path := { pc := b, mask := p.mask &&& ~~~t, inner := some k }
    some ({ c with
      spill := tabPut c.spill k rec_, slots := tabPut (tabPut c.slots z (pa, now)) y (pb, now) }.settleAll now
        [.arrive z, .arrive y])
  | some _, none => none
  | none, some _ => none
  | none, none => none
/-- The slot whose path was installed earlier, 0 on a tie (R168). -/
def LaneCtx.olderSlot (c : LaneCtx) : Nat :=
  match tabFind c.slots 0, tabFind c.slots 1 with
  | some (_, t0), some (_, t1) => if t1 < t0 then 1 else 0
  | some _, none => 0
  | none, _ => 0
/-- PATH_ROTATION (R168): the parked path of entry k, at least 1,024 cycles of the group's clock parked while both slots are taken, changes places with the path
installed earlier. -/
def LaneCtx.rotate (c : LaneCtx) (now : Nat) : Option LaneCtx :=
  match c.earliest, tabFind c.slots 0, tabFind c.slots 1 with
  | some (k, p, t), some (p0, t0), some (p1, t1) =>
    if now < t + 1024 then none
    else
      let z := c.olderSlot
      let out := if t1 < t0 then p1 else p0
      (match tabFind c.spill k with
      | some j =>
        some ({ c with spill := tabPut c.spill k { j with park := some (out, now) }, slots := tabPut c.slots z (p, now) }.settleAll now
          [.arrive z])
      | none => none)
  | some _, some _, none => none
  | some _, none, _ => none
  | none, _, _ => none

/-! ## The word that issues -/
/-- The lane word of a path: its slot, its path, its active lanes (R15), and those that execute it now. -/
structure LaneWord where
  slot : Nat
  path : Path
  active : Mask
  run : Mask
  redo : Option Redo
  deriving DecidableEq, Repr
/-- The word that the acting group's slot issues under a predicate field (R60); after tret or hret only what is left of it. -/
def State.laneWord (s : State) (p : LPred) : LaneWord :=
  let x := s.g
  let path := ((tabFind x.lane.slots s.slot).map (fun e => e.1)).getD { pc := 0, mask := 0, inner := none }
  let pr := if p.neg then ~~~(x.lr.pred p.p) else x.lr.pred p.p
  let act := path.mask &&& pr
  match path.redo with
  | some r =>
    let on (m : Mask) : Mask := if r.unread then m &&& pr else m
    { slot := s.slot, path := path, active := on r.active, run := on r.lanes, redo := some r }
  | none => { slot := s.slot, path := path, active := act, run := act, redo := none }

/-! ## Results of one lane -/
/-- What one lane does with a word: it completes with its result words and the sticky flags it raises; it traps, raising flags; its
address faults; it names a reserve address beyond the reserve; or it has to run again with the lanes it reads from. -/
inductive LRes where
  | done (ws : List (Word × Bool)) (flags : Nat)
  | trap (cause flags : Nat)
  | fault (kind code : Nat) (va : DWord)
  | beyond (va : DWord)
  | hold
  deriving DecidableEq, Repr
def LRes.isDone : LRes → Bool
  | .done _ _ => true | .trap _ _ => false | .fault _ _ _ => false | .beyond _ => false | .hold => false
def LRes.isTrap : LRes → Bool
  | .trap _ _ => true | .done _ _ => false | .fault _ _ _ => false | .beyond _ => false | .hold => false
def LRes.isFault : LRes → Bool
  | .fault _ _ _ => true | .beyond _ => true | .done _ _ => false | .trap _ _ => false | .hold => false
/-- A destination (R56, R57): lane registers, latches and return queues; a predicate; a run of registers; or none. -/
inductive LaneDst where
  | dst (d : LDest)
  | pred (k : Nat)
  | run (d : Nat)
  | none
  deriving DecidableEq, Repr
/-- The destination's return queue, if it pushes one. -/
def LaneDst.queue : LaneDst → Option Nat
  | .dst (.y k _) => some k
  | .dst (.v _ _) => .none | .dst (.latch _) => .none | .pred _ => .none | .run _ => .none | .none => .none
/-- The destination's results go to registers, predicates or queues, so that its exceptions may trap (R332). -/
def LaneDst.mayTrap : LaneDst → Bool
  | .none => false
  | .dst _ => true | .pred _ => true | .run _ => true

/-! ## Sources (R58, R154, R170) -/
/-- A source as one lane receives it. -/
inductive LArg where
  | val (w : Word) (bad : Bool)
  | res (r : LRes)
  deriving DecidableEq, Repr
/-- The head entry of an operand queue. -/
def LaneCtx.head (c : LaneCtx) (q : Nat) : List QLane := ((tabGet [] c.q q).head?).getD []
/-- Src of R15 for lane l: a queue word may carry a fault mark or a range mark, a latch may be lost. -/
def Group.laneSrc (x : Group) (imm : Word) (l : Nat) : LSrc → LArg
  | .v n => .val (x.lr.get n l).1 (x.lr.get n l).2
  | .q k =>
    match (x.lane.head k)[l]? with
    | some e =>
      (match e.fault with
      | some (kind, code) => .res (.fault kind code e.va)
      | none => if e.range then .res (.trap 14 0) else .val e.word e.poison)
    | none => .val 0 false
  | .b k =>
    match x.lr.getLatch k l with
    | some (w, p) => .val w p
    | none => .res (.trap 7 0)
  | .zero => .val 0 false
  | .lane => .val (BitVec.ofNat 32 l) false
  | .imm => .val imm false
  | .sbc => .val ((x.sr.get (imm.toNat % 64)).truncate 32) (x.sr.bad (imm.toNat % 64))
/-- The sources of one lane; or why the lane does not get them all, with those it gets. -/
abbrev LaneArgs := Except (LRes × List (Word × Bool)) (List (Word × Bool))
/-- The sources of one lane, or why the lane does not get them: a fault outranks a lost latch, which outranks a range mark. -/
def Group.laneArgs (x : Group) (imm : Word) (l : Nat) (srcs : List LSrc) : LaneArgs :=
  let as := srcs.map (x.laneSrc imm l)
  let got : List (Word × Bool) := as.map (fun a => match a with | .val w p => (w, p) | .res _ => (0, false))
  let bad (p : LRes → Bool) : Option LRes := as.findSome? (fun a => match a with | .res r => if p r then some r else none | .val _ _ => none)
  match bad LRes.isFault with
  | some r => .error (r, got)
  | none =>
    match bad (fun r => r == .trap 7 0) with
    | some r => .error (r, got)
    | none =>
      match bad LRes.isTrap with
      | some r => .error (r, got)
      | none => .ok got
/-- How a lane ends that does not get all its sources: a poisoned operand for which the instruction itself takes trap 3 outranks a range mark (R332). -/
def missRes (r own : LRes) : LRes :=
  match r, own with
  | .trap 14 _, .trap 3 fl => .trap 3 fl
  | r, _ => r
/-- A lane's result from its own sources, where it gets them. -/
def LaneArgs.res (a : LaneArgs) (f : List (Word × Bool) → LRes) : LRes :=
  match a with
  | .ok as => f as
  | .error (r, as) => missRes r (f as)
/-- The queues a word names, each once (R59). -/
def queuesOf (srcs : List LSrc) : List Nat :=
  (srcs.filterMap (fun a => match a with
    | .q k => some k | .v _ => none | .b _ => none | .zero => none | .lane => none | .imm => none | .sbc => none)).eraseDups

/-! ## Writing results -/
/-- The latch that a destination also writes. -/
def LDest.write (r : LRegs) (l : Nat) (w : Word) (p : Bool) : LDest → LRegs
  | .v n b => match b with
    | some k => (r.put n l w p).putLatch k l w p
    | none => r.put n l w p
  | .latch k => r.putLatch k l w p
  | .y _ b => match b with
    | some k => r.putLatch k l w p
    | none => r
/-- One lane's result words in its destination. A lane that completes without a result keeps it. -/
def LaneDst.write (d : LaneDst) (r : LRegs) (l : Nat) (ws : List (Word × Bool)) : LRegs :=
  match d, ws with
  | .dst d, (w, p) :: _ => LDest.write r l w p d
  | .dst _, [] => r
  | .pred k, (w, _) :: _ => r.putPred k (if w = 0 then r.pred k &&& ~~~(laneBit l) else r.pred k ||| laneBit l)
  | .pred _, [] => r
  | .run n, ws => ws.zipIdx.foldl (fun r e => r.put (n + e.2) l e.1.1 e.1.2) r
  | .none, _ => r
/-- A lane's sticky flags (R330). -/
def raise (t : Tab Mask) (l flags : Nat) : Tab Mask :=
  (List.range 6).foldl (fun t k => if flags / 2 ^ k % 2 = 1 then tabPut t k (tabGet 0 t k ||| laneBit l) else t) t
/-- An exception that c.fpen enables makes its lane trap (R332). -/
def enabled (fpen : DWord) (d : LaneDst) (r : LRes) : LRes :=
  match r with
  | .done ws fl =>
    if !d.mayTrap then .done ws fl
    else if (List.range 5).any (fun k => fl / 2 ^ k % 2 == 1 && fpen.getLsbD k) then .trap 4 fl
    else if fl / 32 % 2 = 1 && fpen.getLsbD 5 then .trap 5 fl
    else .done ws fl
  | .trap c fl => .trap c fl | .fault k c v => .fault k c v | .beyond v => .beyond v | .hold => .hold
/-- The results of the lanes that complete, and the flags of those that complete or trap. -/
def Group.takeResults (x : Group) (d : LaneDst) (res : List (Nat × LRes)) : Group :=
  res.foldl (fun x e =>
    match e.2 with
    | .done ws fl => { x with lr := d.write x.lr e.1 ws, sticky := raise x.sticky e.1 fl }
    | .trap _ fl => { x with sticky := raise x.sticky e.1 fl }
    | .fault _ _ _ => x | .beyond _ => x | .hold => x) x
/-- The lanes for which p holds of the result. -/
def lanesWith (res : List (Nat × LRes)) (p : LRes → Bool) : Mask :=
  maskOf (fun l => res.any (fun e => e.1 == l && p e.2))
/-- The causes of R332 and R369 in their order: the first that applies. -/
def firstCause (res : List (Nat × LRes)) : Nat :=
  ([7, 3, 14, 12, 13, 4, 5].find? (fun c => res.any (fun e => match e.2 with
    | .trap k _ => k == c | .done _ _ => false | .fault _ _ _ => false | .beyond _ => false | .hold => false))).getD
    ((res.findSome? (fun e => match e.2 with
      | .trap k _ => some k | .done _ _ => none | .fault _ _ _ => none | .beyond _ => none | .hold => none)).getD 0)
/-- The lowest lane that completed, with the value a push carries: of an earlier execution of the word or of this one (R156, R332). -/
def pushValue (free : Word) (before : Option (Nat × Word × Bool)) (res : List (Nat × LRes)) : Option (Nat × Word × Bool) :=
  let mine := res.findSome? (fun e => match e.2 with
    | .done ((w, p) :: _) _ => some (e.1, w, p)
    | .done [] _ => some (e.1, free, false)
    | .trap _ _ => none | .fault _ _ _ => none | .beyond _ => none | .hold => none)
  match before, mine with
  | some a, some b => if a.1 < b.1 then some a else some b
  | some a, none => some a
  | none, m => m

/-- The entries that a completed word names leave their queues, and their pending check events are reported (R154). -/
def State.popQueues (s : State) : List Nat → State
  | [] => s
  | q :: r =>
    let es := tabGet [] s.g.lane.q q
    let s := (s.g.lane.head q).foldl (fun s e => if e.event = 0 then s else s.report e.event 0 e.ma) s
    (s.updG (fun x => { x with lane := { x.lane with q := tabPut x.lane.q q (es.drop 1) } })).popQueues r
/-- One entry joins a return queue (R156): 0, not poisoned, where no lane completed. -/
def Group.pushY (x : Group) (k : Nat) (v : Option (Nat × Word × Bool)) : Group :=
  let e := match v with | some (_, w, p) => (w, p) | none => ((0 : Word), false)
  { x with lane := { x.lane with y := tabPut x.lane.y k (tabGet [] x.lane.y k ++ [e]) } }
/-- The paths of a group move. The words read again for a slot are forgotten where another path is in it now (R108). -/
def Group.withLane (x : Group) (c : LaneCtx) : Group :=
  let stays (z : Nat) : Bool := z == scalarStream || (tabFind x.lane.slots z).map (·.1.mask) == (tabFind c.slots z).map (·.1.mask)
  { x with lane := c, retries := x.retries.filter (fun e => stays e.1), want := x.want.filter (fun e => stays e.1) }
/-- The path goes past its word of 12 bytes. -/
def Group.pastWord (x : Group) (now z : Nat) (pc : DWord) : Group :=
  (x.endReads z).withLane (x.lane.movePath now z (pc + 12))
/-- The word is complete: its queues pop, its push happens, and its path goes on. -/
def State.endWord (s : State) (w : LaneWord) (qs : List Nat) (d : LaneDst) (v : Option (Nat × Word × Bool)) : State :=
  let s := s.popQueues qs
  let s := match d.queue with | some k => s.updG (fun x => x.pushY k v) | none => s
  s.updG (fun x => x.pastWord (s.clock s.cur) w.slot w.path.pc)

/-- c.tinfo of a lane trap (R122): opcode and destination of the word. -/
def laneInfo (bits : Nat) : DWord := BitVec.ofNat 64 (bits / 2 ^ 76 % 2 ^ 20 * 2 ^ 44)
/-- The trap of a lane word for the lanes of a mask. -/
def State.laneTrap (s : State) (w : LaneWord) (bits cause arg : Nat) (mask done : Mask) (mark : WordMark) : State :=
  s.takeTrap s.cur
    { cause := cause, arg := arg, pc := w.path.pc, lane := true, mask := mask, done := done, info := laneInfo bits, size := 0,
      mark := some mark }

/-- How a lane word ends once each lane's result is known (R288, R332, R369): the completed lanes keep their results; faults come
first, then traps, and otherwise the word is complete. The mask of the lanes that completed names all that did, in an earlier execution of the word too (R130, R143). -/
def State.laneEnd (s : State) (bits : Nat) (w : LaneWord) (qs : List Nat) (d : LaneDst) (source access width : Nat)
    (res : List (Nat × LRes)) : State :=
  let res := res.map (fun e => (e.1, enabled s.g.fpen d e.2))
  let free := Config.freeWord s.freeIdx
  let s := { s with freeIdx := s.freeIdx + 1 }
  let before := match w.redo with | some r => r.done | none => none
  let v := pushValue free before res
  let done := (w.active &&& ~~~w.run) ||| lanesWith res LRes.isDone
  let mark : WordMark := { path := w.path.mask, active := w.active, done := done, push := v }
  let only (p : LRes → Bool) : List (Nat × LRes) := res.filter (fun e => p e.2)
  let clear (x : Group) : Group := x.endReads w.slot
  if res.any (fun e => e.2.isFault) then
    let s := s.updG (fun x => clear (x.takeResults d (only LRes.isDone)))
    let lanes := res.filterMap (fun e => match e.2 with
      | .fault k _ va => some (e.1, k, va) | .beyond va => some (e.1, 7, va)
      | .done _ _ => none | .trap _ _ => none | .hold => none)
    let code := (res.findSome? (fun e => match e.2 with
      | .fault _ c _ => some c | .beyond _ => some 0 | .done _ _ => none | .trap _ _ => none | .hold => none)).getD 0
    let f : FaultInfo :=
      { level := 0, source := source, kind := ((lanes.head?).map (fun e => e.2.1)).getD 0, access := access, code := code,
        fmask := lanesWith res LRes.isFault, dmask := done, instr := w.path.pc ||| 1, width := width, lanes := lanes,
        mark := some mark, size := 0, since := none }
    if lanes.any (fun e => e.2.1 == 7) then s.takeReserve s.cur f else s.takeFault s.cur f
  else if res.any (fun e => e.2.isTrap) then
    let s := s.updG (fun x => clear (x.takeResults d res))
    s.laneTrap w bits (firstCause res) 0 (lanesWith res LRes.isTrap) done mark
  else
    (s.updG (fun x => x.takeResults d res)).endWord w qs d v

/-! ## Queues before the word runs -/
/-- The operand port takes the word of a reloaded lane (R154): the word, its poison bit and its pending event. -/
def portRead (e : QLane) (l : Loc) : M QLane := fun s =>
  let l := l.word
  let (w, c) := s.firstRead s.cur l
  if codeOk w c l.off then .ok { e with word := w, poison := false, event := 0, fault := none } s
  else if codePoison w c l.off then .ok { e with word := w, poison := true, event := 3, ma := l.ma, fault := none } s
  else
    match s.g.reread s.slot l.ma with
    | none =>
      (match l with
      | .dev ma => .error .wait (s.updG (fun x => x.wants s.slot ma))
      | .host _ _ | .window _ _ | .regs _ _ | .sram _ _ | .priv _ _ _ | .chip _ _ | .closed _ _ =>
        .ok { e with word := w, poison := true, event := 2, ma := l.ma, fault := none } s)
    | some (w', c') =>
      if codeOk w' c' l.off then .ok { e with word := w', poison := false, event := 1, ma := l.ma, fault := none } s
      else .ok { e with word := w', poison := true, event := if codePoison w' c' l.off then 3 else 2, ma := l.ma, fault := none } s
/-- One lane's word of a queue entry from an address: performed, or marked (R154, R370). -/
def portLoad (ms : Space) (l : Nat) (ea : DWord) : M QLane := do
  let e : QLane := { word := 0, poison := false, event := 0, ma := 0, fault := none, va := ea, space := ms, range := false }
  let s ← get
  let (r, s') := s.reach s.cur l ms ea.toNat 0 4 (fun _ => true)
  set s'
  match r with
  | .ok p ty => if 4 ≤ ty then pure { e with poison := true, event := 5 } else portRead e p
  | .trap _ => pure { e with range := true }
  | .fault k c => pure { e with fault := some (k, c) }
  | .beyond => pure { e with fault := some (7, 0) }
  | .wait => throw .wait
/-- The marked lanes of the head entry of a queue are loaded again from their kept addresses before the word re-executes (R154). -/
def reload (run : Mask) (q : Nat) : M Unit := do
  let s ← get
  match tabGet [] s.g.lane.q q with
  | [] => pure ()
  | h :: t =>
    let h' ← h.zipIdx.mapM (fun e => if e.1.fault.isSome && run.getLsbD e.2 then portLoad e.1.space e.2 e.1.va else pure e.1)
    upd (fun s => s.updG (fun x => { x with lane := { x.lane with q := tabPut x.lane.q q (h' :: t) } }))
/-- A lane word waits in place for an entry of each queue it pops and for room in the one it pushes (R155, R156). -/
def needQueues (qs : List Nat) (d : LaneDst) : M Unit := fun s =>
  let full := match d.queue with | some k => decide (Config.queueDepth ≤ (tabGet [] s.g.lane.y k).length) | none => false
  if full || qs.any (fun q => (tabGet [] s.g.lane.q q).isEmpty) then .error .wait s else .ok () s

/-! ## Running a lane word -/
/-- A lane word as every lane instruction runs it: queue stalls, the word skipped after a return, marked queue words loaded again, the sources of each
lane, the instruction's own body, and the end of the word. The body gives each lane its result; a trap it throws is the whole
word's. -/
def laneOp (i : Instr) (p : LPred) (srcs : List LSrc) (imm : Word) (d : LaneDst) (access width : Nat)
    (body : LaneWord → List (Nat × LaneArgs) → M (List (Nat × LRes))) (s : State) :
    Host.Outcome State Fault Refusal :=
  let w := s.laneWord p
  let qs := queuesOf srcs
  let skip := match w.redo with | some r => r.skip | none => false
  let before := match w.redo with | some r => r.done | none => none
  let run : M (Option (List (Nat × LRes) × List Nat)) := do
    needQueues qs d
    if skip then pure none
    else
      if w.redo.isSome then qs.forM (reload w.run) else pure ()
      let t ← get
      let args := (lanesOf w.run).map (fun l => (l, t.g.laneArgs imm l srcs))
      let r ← body w args
      pure (some (r, args.filterMap (fun e => match e.2 with
        | .error r => if r.1.isFault then some e.1 else none
        | .ok _ => none)))
  match run s with
  | .ok none t => .next (t.endWord w qs d before).flush
  | .ok (some (res, popped)) t =>
    -- the record's source is that of the lowest faulting lane (R290): a pop reads one word
    let pop := match res.find? (fun e => e.2.isFault) with | some e => popped.contains e.1 | none => false
    .next (t.laneEnd (encodeWord i) w qs d (if pop then 2 else 0) (if pop then 0 else access) (if pop then 4 else width) res).flush
  | .error .wait t => .next { t with evs := s.evs }.flush
  | .error (.trap c a) t =>
    let mark : WordMark := { path := w.path.mask, active := w.active, done := w.active &&& ~~~w.run, push := before }
    .next (t.laneTrap w (encodeWord i) c a w.run (w.active &&& ~~~w.run) mark).flush
  | .error (.tfault f) t => .next (t.takeFault t.cur f).flush
  | .error (.reserve f) t => .next (t.takeReserve t.cur f).flush
  | .error (.fault f) _ => .fault f
/-- Each lane by itself from its own sources. -/
def laneEach (f : Nat → List (Word × Bool) → LRes) (_ : LaneWord) (args : List (Nat × LaneArgs)) :
    M (List (Nat × LRes)) :=
  pure (args.map (fun e => (e.1, e.2.res (f e.1))))
/-- A lane instruction whose result in a lane depends on that lane's sources alone. -/
def laneMap (i : Instr) (p : LPred) (srcs : List LSrc) (imm : Word) (d : LaneDst) (f : Nat → List (Word × Bool) → LRes) (s : State) :
    Host.Outcome State Fault Refusal :=
  laneOp i p srcs imm d 0 4 (laneEach f) s
/-- A source that an instruction reads. -/
def argVal (as : List (Word × Bool)) (n : Nat) : Word := (as.getD n (0, false)).1
def argBad (as : List (Word × Bool)) (n : Nat) : Bool := (as.getD n (0, false)).2
/-- A source is poisoned. -/
def anyBad (as : List (Word × Bool)) : Bool := as.any (fun a => a.2)

end Sys2Proof.Machine
end

