-- ==== Sys2Proof/Machine/Fetch.lean ====
section
/-! DEFINITION. Fetching a word of either stream, the waits a stream meets before its word executes, what the machine does with a word that does not execute,
and where the next instruction is placed for a run (R73, R76, R149, R264, R314, R429). -/
namespace Sys2Proof.Machine

/-! ## Fetching (R429) -/
/-- The words at an address for a stream, 4 bytes each: each word is translated and consumed on its own. pc is what a fault record names the instruction by: the
address of its first byte, with bit 0 set for a lane word (R290). -/
def fetchWords (source : Nat) (pc va : DWord) : Nat → M (List (Word × Bool))
  | 0 => pure []
  | n + 1 => do
    let s ← get
    let (r, s') := s.reach s.cur 0 .gl va.toNat 3 4 typesNarrow
    set s'
    let w ← (match r with
      | .ok l _ => consumeAt 3 l
      | .trap c => throw (.trap c 0)
      | .fault k c => throw (.tfault (scalarFault pc source k 3 c 4 va))
      | .beyond => throw (.reserve (scalarFault pc source 7 3 0 4 va))
      | .wait => throw .wait : M (Word × Bool))
    let rest ← fetchWords source pc (va + 4) n
    pure (w :: rest)
/-- What a fetch gives: an instruction, an illegal word with its subcause (R74), or a word delivered poisoned, with the bits as delivered. -/
inductive Fetched where
  | ok (i : Instr)
  | illegal (sub bits : Nat)
  | poisoned (bits : Nat)
  deriving DecidableEq, Repr
/-- The scalar instruction at the acting group's pc. The extension word of a wide one is fetched before either word is checked, and a poisoned one is told with the
bits of the first word: the manual orders neither (R53, R429; log entry 55). -/
def fetchScalar : M Fetched := do
  let s ← get
  let pc := s.g.pc
  let first ← fetchWords 3 pc pc 1
  let (w0, p0) := first.getD 0 (0, false)
  if p0 then pure (.poisoned w0.toNat)
  else if Dec.isWide w0.toNat then
    let second ← (fun t => match fetchWords 3 pc (pc + 4) 1 t with
      | .error (.tfault f) u => .error (.tfault { f with width := 8 }) u
      | r => r : M (List (Word × Bool)))
    let (w1, p1) := second.getD 0 (0, false)
    if p1 then pure (.poisoned w0.toNat)
    else match Dec.decodeScalar w0.toNat w1.toNat with
      | .ok i => pure (.ok i)
      | .illegal k => pure (.illegal k w0.toNat)
  else match Dec.decodeScalar w0.toNat 0 with
    | .ok i => pure (.ok i)
    | .illegal k => pure (.illegal k w0.toNat)
/-- The lane word at an address, for a group that declares so many registers. -/
def fetchLane (regs : Nat) (pc : DWord) : M Fetched := do
  let ws ← (fun t => match fetchWords 4 (pc ||| 1) pc 3 t with
    | .error (.tfault f) u => .error (.tfault { f with width := 12 }) u
    | r => r : M (List (Word × Bool)))
  let bits := (ws.getD 0 (0, false)).1.toNat + 2 ^ 32 * (ws.getD 1 (0, false)).1.toNat + 2 ^ 64 * (ws.getD 2 (0, false)).1.toNat
  if ws.any (fun e => e.2) then pure (.poisoned bits)
  else match Dec.decodeLane regs bits with
    | .ok i => pure (.ok i)
    | .illegal k => pure (.illegal k bits)

/-! ## Registers that an instruction reads or writes -/
/-- The s registers a scalar instruction names, for the wait of R314. -/
def scalarRegs (i : Instr) : List Nat :=
  match i with
  | .add d a b | .sub d a b | .mul d a b | .mulh d a b | .div d a b | .divu d a b | .and d a b | .or d a b | .xor d a b
  | .shl d a b | .shr d a b | .sar d a b | .min d a b | .max d a b | .minu d a b | .maxu d a b => [d, a, b]
  | .mov d a | .clz d a | .popc d a | .extB d a | .extH d a | .extW d a => [d, a]
  | .movY d _ | .li d _ | .lih d _ | .loop d _ | .mcnt d _ | .mfirst d _ | .crd d _ | .bclose d | .bread d _ => [d]
  | .sel d a b _ => [d, a, b]
  | .cmp _ _ a b => [a, b]
  | .addImm d a _ | .mulImm d a _ | .andImm d a _ | .orImm d a _ | .xorImm d a _ | .shlImm d a _ | .shrImm d a _
  | .sarImm d a _ | .minImm d a _ | .maxImm d a _ | .minuImm d a _ | .maxuImm d a _ => [d, a]
  | .cmpImm _ _ a _ => [a]
  | .aluWide op d a _ => match op with | .cmp _ => [a] | _ => [d, a]
  | .call _ => [63]
  | .ldB d a _ | .ldH d a _ | .ldW d a _ | .ldD d a _ | .stB d a _ | .stH d a _ | .stW d a _ | .stD d a _
  | .ldk d a _ | .stk d a _ => [d, a]
  | .ldX _ _ _ _ d a _ | .stX _ _ _ _ d a _ | .rld _ d a _ | .rst _ d a _ => [d, a]
  | .amo op _ _ _ _ d a b c _ | .ramo op _ d a b c _ => match op with | .cas => [d, a, b, c] | _ => [d, a, b]
  | .ldq _ a _ | .cwr _ a | .ret a | .ostop a | .launch a | .waitk a | .waitb a | .mset _ a | .astep _ a | .bwait a => [a]
  | .tinv a b | .fgrow a b | .frel a b | .ckinj a b | .pset a b | .fxfer a b | .aset _ a b | .barinit a b | .arrive a b
  | .arrivew a b | .bmin _ a b => [a, b]
  | .dqpush _ a b => [a, b, b + 1]
  | .spawn d a b => d :: a :: (List.range 8).map (b + ·)
  | .qpost d a b | .cpy d a b | .cpy2 d a b | .cpy3 d a b | .vwait d a b | .vwake d a b => [d, a, b]
  | .coll d a => [d, a]
  | .dqpop d a _ | .dqsteal d a _ => [d, d + 1, a]
  | _ => []
/-- The v registers a lane source names. -/
def srcRegs : LSrc → List Nat
  | .v n => [n]
  | .q _ | .b _ | .zero | .lane | .imm | .sbc => []
def dstRegs : LDest → List Nat
  | .v n _ => [n]
  | .latch _ | .y _ _ => []
/-- The v registers a lane word reads or writes. -/
def laneRegs (i : Instr) : List Nat :=
  match i with
  | .vadd d a b _ _ | .vsub d a b _ _ | .vmul d a b _ _ | .vand d a b _ _ | .vor d a b _ _ | .vxor d a b _ _ | .vshl d a b _ _
  | .vshr d a b _ _ | .vsar d a b _ _ | .vfmin d a b _ _ | .vfmax d a b _ _ => dstRegs d ++ srcRegs a ++ srcRegs b
  | .vmulh _ d a b _ _ | .vmin _ d a b _ _ | .vmax _ d a b _ _ | .vfadd _ d a b _ _ | .vfsub _ d a b _ _ | .vfmul _ d a b _ _
  | .vshfl _ d a b _ _ => dstRegs d ++ srcRegs a ++ srcRegs b
  | .vmad d a b c _ _ | .vffma _ d a b c _ _ | .vdot4 _ d a b c _ _ | .vdot8 _ d a b c _ _ | .vscacc d a b c _ _ _ _ =>
    dstRegs d ++ srcRegs a ++ srcRegs b ++ srcRegs c
  | .vnot d a _ _ | .vpopc d a _ _ | .vclz d a _ _ | .vmov d a _ _ | .vfrcp d a _ _ | .vfrsq d a _ _ | .vfsqrt _ d a _ _
  | .vfex2 d a _ _ | .vflg2 d a _ _ | .vfsin d a _ _ | .vfcos d a _ _ | .vcvt _ _ _ d a _ _ | .vred _ d a _ _ | .vscan d a _ _
  | .vpoison d a _ _ => dstRegs d ++ srcRegs a
  | .vcmp _ _ a b _ _ | .vfcmp _ _ a b _ _ => srcRegs a ++ srcRegs b
  | .vsel _ _ d a b _ _ => dstRegs d ++ srcRegs a ++ srcRegs b
  | .vvote m d a _ _ => (match m with | .ballot => dstRegs d | .any | .all => []) ++ srcRegs a
  | .vptest _ a _ _ => srcRegs a
  | .vld _ _ _ _ _ d a _ _ => dstRegs d ++ [a, a + 1]
  | .vst _ _ _ _ a b _ _ => [a, a + 1] ++ srcRegs b
  | .vamo _ _ _ _ d a b c _ _ => dstRegs d ++ [a, a + 1] ++ srcRegs b ++ srcRegs c
  | .vldc _ n _ _ d a _ _ => dstRegs d ++ (match d with | .v r _ => (List.range n).map (r + ·) | .latch _ | .y _ _ => []) ++ [a, a + 1]
  | .vstc _ n _ a b _ _ => [a, a + 1] ++ (List.range n).map (b + ·)
  | .vcupd _ _ a b _ _ => [a, a + 1, b, b + 1, b + 2, b + 3]
  | .vmma _ _ d a b _ | .vmmap _ _ d a b _ =>
    (List.range 32).map (d + ·) ++ (List.range 16).map (a + ·) ++ (List.range 16).map (b + ·)
  | .vmmas _ _ d _ _ _ _ _ => (List.range 32).map (d + ·)
  | _ => []
/-- Register n is in the C run of a matrix operation (R351); a vmmap that waits for its partner has no C yet. -/
def MatrixOp.covers (m : MatrixOp) (n : Nat) : Bool := (m.kind != 2 || m.started) && decide (m.d ≤ n) && decide (n < m.d + 32)
/-- The sources that a lane instruction may take from queues, latches or a scalar register, with the word's constant. -/
def laneSrcs (i : Instr) : List LSrc × Word :=
  match i with
  | .vadd _ a b _ k | .vsub _ a b _ k | .vmul _ a b _ k | .vand _ a b _ k | .vor _ a b _ k | .vxor _ a b _ k | .vshl _ a b _ k
  | .vshr _ a b _ k | .vsar _ a b _ k | .vfmin _ a b _ k | .vfmax _ a b _ k => ([a, b], k)
  | .vmulh _ _ a b _ k | .vmin _ _ a b _ k | .vmax _ _ a b _ k | .vfadd _ _ a b _ k | .vfsub _ _ a b _ k | .vfmul _ _ a b _ k
  | .vshfl _ _ a b _ k | .vcmp _ _ a b _ k | .vfcmp _ _ a b _ k => ([a, b], k)
  | .vmad _ a b c _ k | .vffma _ _ a b c _ k | .vdot4 _ _ a b c _ k | .vdot8 _ _ a b c _ k => ([a, b, c], k)
  | .vscacc _ a b c _ _ _ _ => ([a, b, c], 0)
  | .vnot _ a _ k | .vpopc _ a _ k | .vclz _ a _ k | .vmov _ a _ k | .vfrcp _ a _ k | .vfrsq _ a _ k | .vfsqrt _ _ a _ k
  | .vfex2 _ a _ k | .vflg2 _ a _ k | .vfsin _ a _ k | .vfcos _ a _ k | .vred _ _ a _ k | .vscan _ a _ k | .vpoison _ a _ k
  | .vptest _ a _ k | .vvote _ _ a _ k => ([a], k)
  | .vcvt _ _ _ _ a e _ => ([a], BitVec.ofNat 32 e)
  | .vsel _ _ _ a b _ k => ([a, b], k)
  | .vst _ _ _ _ _ b _ k => ([b], k)
  | .vamo _ _ _ _ _ _ b c _ k => ([b, c], k)
  | _ => ([], 0)
/-- The destination of a lane instruction that may be a return queue. -/
def laneDest (i : Instr) : Option LDest :=
  match i with
  | .vadd d _ _ _ _ | .vsub d _ _ _ _ | .vmul d _ _ _ _ | .vand d _ _ _ _ | .vor d _ _ _ _ | .vxor d _ _ _ _ | .vshl d _ _ _ _
  | .vshr d _ _ _ _ | .vsar d _ _ _ _ | .vfmin d _ _ _ _ | .vfmax d _ _ _ _ | .vmulh _ d _ _ _ _ | .vmin _ d _ _ _ _
  | .vmax _ d _ _ _ _ | .vfadd _ d _ _ _ _ | .vfsub _ d _ _ _ _ | .vfmul _ d _ _ _ _ | .vshfl _ d _ _ _ _ | .vmad d _ _ _ _ _
  | .vffma _ d _ _ _ _ _ | .vdot4 _ d _ _ _ _ _ | .vdot8 _ d _ _ _ _ _ | .vscacc d _ _ _ _ _ _ _ | .vnot d _ _ _ | .vpopc d _ _ _
  | .vclz d _ _ _ | .vmov d _ _ _ | .vfrcp d _ _ _ | .vfrsq d _ _ _ | .vfsqrt _ d _ _ _ | .vfex2 d _ _ _ | .vflg2 d _ _ _
  | .vfsin d _ _ _ | .vfcos d _ _ _ | .vred _ d _ _ _ | .vscan d _ _ _ | .vpoison d _ _ _ | .vvote _ d _ _ _ | .vcvt _ _ _ d _ _ _
  | .vsel _ _ d _ _ _ _ | .vld _ _ _ _ _ d _ _ _ | .vamo _ _ _ _ d _ _ _ _ _ | .vldc _ _ _ _ d _ _ _ => some d
  | _ => none
/-- The s registers a lane word reads: a broadcast's, and the bases and descriptors of vmmas (R314, R357). -/
def laneScalars (i : Instr) : List Nat :=
  match i with
  | .vmmas _ _ _ a b c d _ => [a, b, c, d]
  | _ => if (laneSrcs i).1.contains .sbc then [(laneSrcs i).2.toNat % 64] else []
/-- A reply that is outstanding for one of some s registers (R314). -/
def Group.awaits (x : Group) (regs : List Nat) : Bool := x.replies.any (fun r => x.liveTok r.tok && r.reg != 0 && regs.contains r.reg)
/-- A lane word waits for a matrix operation of its group whose C it reads or writes (R264, R354), one that a handler entry set aside unstarted not being
executed, and for the reply of a remote access whose register it reads (R314). -/
def State.laneHazard (s : State) (i : Instr) : Bool :=
  s.matrix.any (fun m => m.2.group == s.cur && (m.2.started || m.2.tok == s.g.tok) && (laneRegs i).any m.2.covers) ||
  s.g.awaits (laneScalars i)
/-- A scalar instruction waits for the reply of a remote access whose register it names (R314). -/
def State.scalarHazard (s : State) (i : Instr) : Bool :=
  s.g.awaits (scalarRegs i)

/-! ## Words that do not execute -/
/-- The acting group's word waits in place (R420): nothing of it has happened. -/
def State.waitHere (s t : State) : Host.Outcome State Fault Refusal := .next { t with evs := s.evs }.flush
/-- What an issue of the scalar stream comes to when its word does not execute (R73, R429). A trap of the fetch itself has no word to tell: its c.tinfo is 0, for which
the manual gives no value (log entry 55). -/
def State.scalarMiss (s : State) (r : EStateM.Result Stop State Fetched) : Host.Outcome State Fault Refusal :=
  match r with
  | .ok (.illegal k w) t => .next (t.takeTrap t.cur (scalarTrap t.g.pc w (if Dec.isWide w then 8 else 4) 1 k)).flush
  | .ok (.poisoned w) t => .next (t.takeTrap t.cur (scalarTrap t.g.pc w (if Dec.isWide w then 8 else 4) 3 0)).flush
  | .ok (.ok _) t => s.waitHere t
  | .error .wait t => s.waitHere t
  | .error (.trap c a) t => .next (t.takeTrap t.cur (scalarTrap t.g.pc 0 4 c a)).flush
  | .error (.tfault f) t => .next (t.takeFault t.cur { f with size := f.width }).flush
  | .error (.reserve f) t => .next (t.takeReserve t.cur f).flush
  | .error (.fault f) _ => .fault f
/-- The same for a lane word: every lane of the issuing path traps (R76, R429). A word that a return skips is past. Where a return executes the word again for some lanes
(R142, R143), those alone trap, and a lane that has completed the word does not (DEDUCED; log entry 33). -/
def State.laneMiss (s : State) (w : LaneWord) (r : EStateM.Result Stop State Fetched) : Host.Outcome State Fault Refusal :=
  let (mark, lanes, skip) : WordMark × Mask × Bool :=
    match w.path.redo with
    | some r => ({ path := w.path.mask, active := r.active, done := r.active &&& ~~~r.lanes, push := r.done, unread := r.unread }, r.lanes, r.skip)
    | none => ({ path := w.path.mask, active := w.path.mask, done := 0, push := none, unread := true }, w.path.mask, false)
  let all (t : State) (bits c a : Nat) : Host.Outcome State Fault Refusal :=
    if skip then .next (t.endWord w [] .none none).flush else .next (t.laneTrap w bits c a lanes mark.done mark).flush
  match r with
  | .ok (.illegal k b) t => all t b 1 k
  | .ok (.poisoned b) t => all t b 3 0
  | .ok (.ok _) t => s.waitHere t
  | .error .wait t => s.waitHere t
  | .error (.trap c a) t => all t 0 c a
  | .error (.tfault f) t => .next (t.takeFault t.cur { f with mark := some mark }).flush
  | .error (.reserve f) t => .next (t.takeReserve t.cur { f with mark := some mark }).flush
  | .error (.fault f) _ => .fault f

/-! ## Issue -/
/-- A group may issue a scalar word: it is ACTIVE, no fault of it waits for a park slot, its pre-empt budget is not spent, and a service pair is not halted
(R133, R148, R407). -/
def State.mayIssue (s : State) (g : Nat) : Bool :=
  match tabFind s.groups g with
  | none => false
  | some x => x.gstate == .active && x.pendingFault.isNone && !x.spent s.cycle && (x.level != 3 || (s.die (s.dieOf g)).role != 0)
/-- It may issue the lane word of a slot. -/
def State.mayIssueLane (s : State) (g z : Nat) : Bool := s.mayIssue g && (tabFind (s.group g).lane.slots z).isSome
/-- A group outside the active set stands still (R168). -/
def Group.rest (x : Group) (n : Nat) : Group := if x.gstate = .active then x else { x with idle := x.idle + n }
/-- A push meets its slot (R226). -/
def Mirror.meet (m : Mirror) (tag : Nat × Nat × Nat) (v : DWord) : Mirror :=
  if m.tag = some tag then { m with value := if v.ult m.value then v else m.value } else { tag := some tag, value := v }
/-- A push updates its slot. -/
def State.landPush (s : State) (p : Push) : State :=
  let i := p.core * 8 + p.slot
  { s with mirrors := tabPut s.mirrors i ((tabGet { tag := none, value := 0 } s.mirrors i).meet p.tag p.value) }
/-- The pushes that left 64 cycles ago have updated their slots (R227). -/
def State.landDue (s : State) : State :=
  (s.pushes.filter (fun p => decide (p.since + 64 ≤ s.cycle.toNat))).foldl State.landPush
    { s with pushes := s.pushes.filter (fun p => !decide (p.since + 64 ≤ s.cycle.toNat)) }
/-- The walks of the step before have ended, and serve only those accesses that were in flight with them (R281). -/
def State.landWalks (s : State) : List Flight := (s.flight.filter (fun f => !f.late.isEmpty)).map (fun f => { f with now := false })
/-- Time passes with a step (log entry 2). -/
def State.tick (s : State) : State :=
  State.landDue { s with
    cycle := s.cycle + BitVec.ofNat 64 (Config.stepCycles s.steps), steps := s.steps + 1, flight := s.landWalks,
    groups := s.groups.map (fun g => (g.1, g.2.rest (Config.stepCycles s.steps))) }
/-- The state as a group issues from one of its streams: slot 0 or 1 of the lane stream, or its scalar stream (R175). -/
def State.issueFrom (s : State) (g z : Nat) : State :=
  { s with cur := g, slot := z }
/-- A stream of a group, where it still is, has issued in this step (R175). -/
def State.stampIssue (s : State) (g z : Nat) : State :=
  match tabFind s.groups g with
  | some x => s.setGroup g (if z = scalarStream then { x with issued := s.steps } else { x with issuedLane := s.steps })
  | none => s

/-! ## Switch points (R171, R176) -/
/-- The lane word at a slot's path stalls on its queues: one it pops is empty, or the one it pushes is full (R155, R156). A word whose fetch does not give it
does not. -/
def State.stalled (s : State) (z : Nat) : Bool :=
  let t := { s with slot := z }
  match fetchLane (t.descOf t.g.team).regs (t.laneWord { neg := false, p := 0 }).path.pc t with
  | .ok (.ok i) _ =>
    let full := match laneDest i with | some (.y k _) => decide (Config.queueDepth ≤ (tabGet [] t.g.lane.y k).length) | _ => false
    full || (Machine.queuesOf (laneSrcs i).1).any (fun q => (tabGet [] t.g.lane.q q).isEmpty)
  | _ => false
/-- The lane stream of the acting group has no block that can issue (R176): none, or a running one whose every path stalls on queues that the waiting S-stream alone
would fill or empty. -/
def State.lanesStuck (s : State) : Bool :=
  s.g.lanesIdle || (s.g.lane.running && !s.g.lane.slots.isEmpty && s.g.lane.slots.all (fun e => s.stalled e.1))
/-- A switch point (R171, R176): it completes when its condition holds, and the next enqueued block begins without latches; else the group parks once its lane
stream has no block that can issue, and waits in place before (log entry 17). -/
def switchPoint (ready : Bool) (w : Wait) : M Unit :=
  if ready then upd (fun s => s.updG (fun x => { x with lossNext := true }))
  else do
    let s ← get
    if s.lanesStuck then park w else throw .wait

end Sys2Proof.Machine
end

