-- ==== Sys2Proof/Machine/Barrier.lean ====
section
/-! DEFINITION. Barrier words, bound words and their mirrors, and the wait-and-wake table (R216 to R236, R422, R425). -/
namespace Sys2Proof.Machine

/-! ## Words at an atomic unit -/
/-- The committed double word at a place, consumed by the atomic unit of its home (R106), and whether it is delivered poisoned. -/
def homeDwordP (l : Loc) : M (DWord × Bool) := fun s =>
  let (w0, c0) := s.readLoc l
  let (w1, c1) := s.readLoc (l.plus 4)
  let (v0, p0, e0) := consume w0 c0 l.off
  let (v1, p1, e1) := consume w1 c1 (l.plus 4).off
  let s := if e0 = 0 then s else s.report e0 4 l.ma
  let s := if e1 = 0 then s else s.report e1 4 (l.plus 4).ma
  .ok (v1 ++ v0, p0 || p1) s
/-- The same with trap 3 on poison. -/
def homeDword (l : Loc) : M DWord := do
  let (v, p) ← homeDwordP l
  need (!p) (.trap 3 0)
  pure v

/-! ## Barrier words (R216 to R218) -/
/-- The fields of a barrier word (R216). -/
structure BarWord where
  count : Nat
  arrivals : Nat
  phase : Bool
  fixed : Bool
  reserved : Nat
  deriving DecidableEq, Repr
def BarWord.ofWord (v : DWord) : BarWord :=
  { count := fld v 0 16, arrivals := fld v 16 16, phase := v.getLsbD 32, fixed := v.getLsbD 33, reserved := fld v 34 30 }
def BarWord.toWord (w : BarWord) : DWord :=
  BitVec.ofNat 64 (w.count + w.arrivals * 2 ^ 16 + w.phase.toNat * 2 ^ 32 + w.fixed.toNat * 2 ^ 33 + w.reserved * 2 ^ 34)
/-- A well-formed barrier word (R217). -/
def BarWord.wf (w : BarWord) : Bool :=
  w.reserved == 0 && (if w.fixed then w.count != 0 && decide (w.arrivals < w.count) else w.arrivals == 0)
/-- An arrival with count n (R218): the word after it and whether the phase flips; none where n is not the phase's count. -/
def BarWord.arrive (w : BarWord) (n : Nat) : Option (BarWord × Bool) :=
  if w.fixed then
    if n ≠ w.count then none
    else if w.arrivals + 1 < w.count then some ({ w with arrivals := w.arrivals + 1 }, false)
    else some ({ w with arrivals := 0, fixed := false, phase := !w.phase }, true)
  else if n = 1 then some ({ w with phase := !w.phase }, true)
  else some ({ w with count := n, arrivals := 1, fixed := true }, false)
/-- The word that barinit writes (R216). -/
def BarWord.init (n : Nat) : BarWord := { count := n, arrivals := 0, phase := false, fixed := n != 0, reserved := 0 }

/-- The place of a barrier or bound word, always a cluster-shared address (R422): trap 3, 12 or 14. The flag says that the word is in another core's
scratchpad. -/
def sharedWord (a : Nat) : M (Nat × Nat × Bool) := do
  needOwner
  let v ← useReg a
  need (v.toNat % 8 == 0) (.trap 12 0)
  let s ← get
  match s.spacePlace s.cur 0 .cl v.toNat with
  | some (.sram t o) => pure (t, o, t != s.g.team)
  | some (.dev _) => trap 14 | some (.host _ _) => trap 14 | some (.window _ _) => trap 14 | some (.regs _ _) => trap 14
  | some (.priv _ _ _) => trap 14 | some (.chip _ _) => trap 14 | some (.closed _ _) => trap 14
  | none => trap 14
/-- The scope of a barrier operation (R223). -/
def barScope (other : Bool) : MScope := if other then .clus else .team
/-- The word of a barrier operation: trap 3 where it is poisoned, trap 14 where it is malformed (R220). -/
def barRead (t o : Nat) : M BarWord := do
  let v ← homeDword (.sram t o)
  let w := BarWord.ofWord v
  need w.wf (.trap 14 0)
  pure w
/-- A double word into a scratchpad, with codes. -/
def State.putShared (s : State) (t o : Nat) (v : DWord) : State := s.homeWrite64 (.sram t o) v
/-- A group is parked on the barrier word at o of team t's scratchpad. -/
def Group.waitsOn (x : Group) (t o : Nat) : Bool :=
  match x.wait with
  | some (.barrier t' o' _) => t' == t && o' == o
  | some (.copies _) => false | some (.batch _) => false | some (.word _) => false | none => false
/-- Every group parked on a barrier word becomes READY in one step (R221, R224). -/
def State.wakeBarrier (s : State) (t o : Nat) : State :=
  ((s.groups.filter (fun e => e.2.waitsOn t o)).map (fun e => e.1)).foldl (fun s g => s.wakeGroup g 0) s
/-- The operand that a barrier instruction reads as its count (R220): trap 3 before all else. -/
def barCount (a b lo : Nat) : M Nat := do
  needOwner
  clean a
  let n ← useReg b
  let _ ← sharedWord a
  need (decide (lo ≤ n.toNat) && decide (n.toNat ≤ 65535)) (.trap 14 0)
  pure n.toNat
/-- barinit (R221): the word is read with its checks, and written whole. -/
def execBarinit (a b : Nat) (s : State) : Host.Outcome State Fault Refusal :=
  scalarOp (.barinit a b) (do
    let n ← barCount a b 0
    let (t, o, _) ← sharedWord a
    let _ ← homeDword (.sram t o)
    upd (fun s => (s.putShared t o (BarWord.init n).toWord).wakeBarrier t o)) s
/-- One arrival (R218, R222, R223), a release at the word's scope: the record names the word and the phase it arrived in. -/
def arriveOn (a n t o : Nat) (other pending : Bool) : M Unit := do
  let w ← barRead t o
  match w.arrive n with
  | none => trap 8
  | some (w', flip) => do
    release (barScope other)
    upd (fun s =>
      let s := s.putShared t o w'.toWord
      let r : Arrival := { addr := s.g.sr.get a, phase := w.phase, set := true, pending := pending }
      let s := s.updG (fun x => { x with arrival := r })
      if flip then s.wakeBarrier t o else s)
/-- arrive (R222). -/
def execArrive (a b : Nat) (s : State) : Host.Outcome State Fault Refusal :=
  scalarOp (.arrive a b) (do
    let n ← barCount a b 1
    let (t, o, other) ← sharedWord a
    arriveOn a n t o other false) s
/-- The wait of bwait and arrivew (R222): a switch point, and an acquire when it completes. -/
def barWait (a t o : Nat) (other : Bool) : M Unit := do
  let w ← barRead t o
  let s ← get
  let r := s.g.arrival
  need (r.set && r.addr == s.g.sr.get a) (.trap 14 0)
  switchPoint (w.phase != r.phase) (.barrier t o r.phase)
  upd (fun s => s.updG (fun x => { x with arrival := { x.arrival with pending := false } }))
  acquire (barScope other)
/-- bwait (R222). -/
def execBwait (a : Nat) (s : State) : Host.Outcome State Fault Refusal :=
  scalarOp (.bwait a) (do
    let (t, o, other) ← sharedWord a
    barWait a t o other) s
/-- arrivew (R222): an arrival already made and still pending is not made again. -/
def execArrivew (a b : Nat) (s : State) : Host.Outcome State Fault Refusal :=
  scalarOp (.arrivew a b) (do
    let n ← barCount a b 1
    let (t, o, other) ← sharedWord a
    let s ← get
    let r := s.g.arrival
    if r.set && r.pending && r.addr == s.g.sr.get a then pure () else arriveOn a n t o other true
    barWait a t o other) s

/-! ## Bound words (R225 to R228) -/
/-- The tag of a team's set. -/
def State.mirrorTag (s : State) (t : Nat) : Nat × Nat × Nat := ((s.kernelOf t).owner, (s.team t).kernel, s.setOf t)
/-- The cores of a set's placed teams, ascending, each once. -/
def State.setCores (s : State) (t : Nat) : List Nat :=
  (((s.setTeams t).filter (fun u => (s.team u).tstate == .placed)).map (fun u => (s.team u).core)).eraseDups
/-- The releases of the acting group wait for the pushes of its set to a slot that are under way: they carry a value that its bmin has found in the word (R425). -/
def State.joinPushes (s : State) (k : Nat) (tag : Nat × Nat × Nat) : State :=
  { s with pushes := s.pushes.map (fun p =>
      if p.slot = k && p.tag = tag && !p.groups.contains s.cur then { p with groups := p.groups ++ [s.cur] } else p) }
/-- A team comes to a core on which no other team of its set stands: what its set left in the core's slots, or has on its way to them, is not seen (R227). -/
def State.clearMirrors (s : State) (t core : Nat) : State :=
  let tag := s.mirrorTag t
  if ((s.setTeams t).filter (fun u => u != t)).any (fun u => (s.team u).tstate == .placed && (s.team u).core == core) then s
  else
    { s with
      mirrors := s.mirrors.filter (fun m => !(m.1 / 8 == core && m.2.tag == some tag))
      pushes := s.pushes.filter (fun p => !(p.core == core && p.tag == tag)) }
/-- bmin (R226): the word falls to b, and a push to each core of the set leaves. -/
def execBmin (k a b : Nat) (s : State) : Host.Outcome State Fault Refusal :=
  scalarOp (.bmin k a b) (do
    needOwner
    clean a
    let v ← useReg b
    let (t, o, _) ← sharedWord a
    let w ← homeDword (.sram t o)
    upd (fun s =>
      let me := s.g.team
      let s := s.soil me
      if v.ult w then
        let s := s.putShared t o v
        { s with pushes := s.pushes ++
            (s.setCores me).map (fun c => { core := c, slot := k, tag := s.mirrorTag me, value := v, groups := [s.cur], since := s.cycle.toNat }) }
      else s.joinPushes k (s.mirrorTag me))) s
/-- bread (R227): all ones where the slot is not the set's. -/
def execBread (d k : Nat) (s : State) : Host.Outcome State Fault Refusal :=
  scalarOp (.bread d k) (do
    needOwner
    let s ← get
    let m := tabGet { tag := none, value := 0 } s.mirrors ((s.team s.g.team).core * 8 + k)
    putReg d (if m.tag = some (s.mirrorTag s.g.team) then m.value else -1) false) s
/-- MIRROR_PUSH: push number n of those on their way arrives. -/
def execMirrorPush (n : Nat) (s : State) : Host.Outcome State Fault Refusal :=
  match s.pushes[n]? with
  | none => .fault .notEnabled
  | some p => .next ({ s with pushes := s.pushes.eraseIdx n }.landPush p)

/-! ## The wait-and-wake table (R229 to R236) -/
/-- The checks of R232: the key and the place of its word. -/
def waitWord (a b : Nat) : M (DWord × DWord × Nat) := do
  needOwner
  clean a
  let v ← useReg b
  let ea ← sval a
  let (l, _) ← place .gl ea 0 8 typesDevice
  match l with
  | .dev ma => pure (ea, v, ma)
  | .host _ _ => trap 13 | .window _ _ => trap 13 | .regs _ _ => trap 13 | .sram _ _ => trap 13 | .priv _ _ _ => trap 13
  | .chip _ _ => trap 13 | .closed _ _ => trap 13
/-- The acting group leaves the entry in which an interrupted vwait of its level still stands (R236). -/
def State.leaveWaits (s : State) (g lvl : Nat) : State :=
  { s with waits := s.waits.filterMap (fun e =>
      let e := { e with waiters := e.waiters.filter (fun w => !(w.group == g && w.level == lvl)) }
      if e.waiters.isEmpty && e.queues.isEmpty then none else some e) }
/-- The acting group is appended as a waiter of the key, whose word stands where its read found it; none where a new entry finds the table of its die full (R229, R233). -/
def State.joinWaits (s : State) (o : Nat) (va : DWord) (ma : Nat) : Option State :=
  let w : Waiter := { group := s.cur, level := s.g.level, interrupted := false }
  if s.waits.any (fun e => e.owner == o && e.va == va) then
    some { s with waits := s.waits.map (fun e =>
      if e.owner = o && e.va = va then { e with die := homeDie ma, ma := ma, waiters := e.waiters ++ [w] } else e) }
  else if Config.waitEntries ≤ (s.waits.filter (fun e => e.die == homeDie ma)).length then none
  else some { s with waits := s.waits ++ [{ die := homeDie ma, owner := o, va := va, ma := ma, waiters := [w], queues := [] }] }
/-- A vwait that does not park (R171, R233): its status, and an acquire at .dev. -/
def waitDone (d status : Nat) : M Unit := do
  upd (fun s => s.updG (fun x => { x with lossNext := true }))
  acquire .dev
  putReg d (BitVec.ofNat 64 status) false
/-- vwait (R233): a switch point while the word equals b: the group joins the entry once its lane stream has no block that can issue (R176; log entry 17). -/
def execVwait (d a b : Nat) (s : State) : Host.Outcome State Fault Refusal :=
  scalarOp (.vwait d a b) (do
    let (ea, v, ma) ← waitWord a b
    let s ← get
    let o := s.ownerOf s.cur
    let va := s.wakeCountVa s.cur s.g.level
    if s.getReserve64 o va != 0 then
      upd (fun s => s.putReserve64 o va 0)
      waitDone d 0
    else
      upd (fun s => s.leaveWaits s.cur s.g.level)
      let w ← homeDword (.dev ma)
      if w != v then waitDone d 1
      else
        match (← get).joinWaits o ea ma with
        | none => waitDone d 2
        | some s' =>
          need s'.lanesStuck .wait
          set s'
          park (.word d)) s
/-- The oldest n waiters of a key leave its entry and wake, and the wake counts of the interrupted ones, written at their homes, wake in turn (R234 to R236). -/
def State.wakeOldest (s : State) (o : Nat) (va : DWord) (n : Nat) : State :=
  let ws := (((s.waits.find? (fun e => e.owner == o && e.va == va)).map (fun e => e.waiters)).getD []).take n
  (ws.foldl State.wakeWaiter
    { s with waits := s.waits.filterMap (fun e => if e.owner = o && e.va = va then dropWaiters e n else some e) }).wakeWords
      (ws.filterMap s.countWord) (n + (s.waits.map (fun e => e.waiters.length)).sum + 1)
/-- vwake (R234): the team commits, then the oldest waiters of the key wake. -/
def execVwake (d a b : Nat) (s : State) : Host.Outcome State Fault Refusal :=
  scalarOp (.vwake d a b) (do
    let (ea, v, _) ← waitWord a b
    release .dev
    let s ← get
    let o := s.ownerOf s.cur
    let hit := ((s.waits.find? (fun e => e.owner == o && e.va == ea)).map (fun e => e.waiters)).getD []
    let n := min v.toNat hit.length
    upd (fun s => s.wakeOldest o ea n)
    putReg d (BitVec.ofNat 64 n) false) s

end Sys2Proof.Machine
end

