-- ==== Sys2Proof/Machine/Engine.lean ====
section
/-! DEFINITION. What the engines share: addresses of a team that an engine reaches, faults of engine operations, and requests on the fabric (R282, R288,
R289, R305, R309, R312, R390, R431). -/
namespace Sys2Proof.Machine

/-! ## Addresses -/
/-- How an engine's access to one address ends before it is performed: its place, its memory type, the owner frame index behind a global address, and whether it lies
in the records of R114; or a translation fault; or a wait, for the walk budget or the memory budget. -/
inductive EReach where
  | ok (l : Loc) (ty : Nat) (ofi : Option Nat) (record : Bool)
  | fault (kind code : Nat)
  | wait
  deriving DecidableEq, Repr
/-- An engine's access of kind 0 or 1 for team t of owner o at the level that issued the operation (R431), with the translation caches us. Addresses in levels 2 to 4 were
checked at the issue; a step of the chip scratchpad is carved. -/
def State.engineReach (s : State) (us : List Nat) (o t lvl : Nat) (ms : Space) (ea kind : Nat) : EReach × State :=
  match ms with
  | .gl =>
    match s.xlate us o ea kind lvl with
    | (.ok l ty ofi off, s') =>
      if (s'.fillHeld o l).1 then (.wait, (s'.fillHeld o l).2) else (.ok l ty (some ofi) (inRecord ofi off), (s'.fillHeld o l).2)
    | (.fault k c, s') => (.fault k c, s')
    | (.range, s') => (.fault 1 0, s')
    | (.beyond, s') => (.fault 7 0, s')
    | (.wait, s') => (.wait, s')
  | .pv | .sp | .cl | .ch =>
    match s.teamPlace o t ms ea with
    | some l => (.ok l 0 none false, s.carve l)
    | none => (.fault 1 0, s)
/-- The place n bytes on from one that an engine reached, in the same page: in a frame that moves every line has its own (R252, R285). -/
def State.engineAt (s : State) (o : Nat) (l : Loc) (ofi : Option Nat) (n : Nat) : Loc :=
  match ofi with
  | none => l.plus n
  | some i => ((s.ownerLoc o i (l.off + n)).map (fun e => e.1)).getD (l.plus n)
/-- A word as an engine reads it for team t: the team's held word over the committed contents, unchecked (R263, R372). -/
def State.engineWord (s : State) (t : Nat) (l : Loc) : Word × Byte := s.viewLoc t l
/-- A word for the scratchpad of a team that is SAVED with a forced group reaches the team frames too, from which the scratchpad returns (R133, R134, R394). -/
def State.putSaved (s : State) (l : Loc) (w : Word) (c : Byte) : State :=
  match l with
  | .sram t o =>
    if (s.team t).tstate = .saved && (s.team t).forced then
      s.putReserve (s.kernelOf t).owner (s.teamFrameVa t + (o - (s.team t).sramAt)) w (!codeOk w c o)
    else s
  | .dev _ => s | .host _ _ => s | .window _ _ => s | .regs _ _ => s | .priv _ _ _ => s | .chip _ _ => s | .closed _ _ => s
/-- A word an engine of die d writes at its place: committed at once (R263), with the copy that the die holds (R254); host memory takes it without a code, and the
records of R114 do not change. -/
def State.enginePut (s : State) (d : Nat) (l : Loc) (record : Bool) (w : Word) (c : Byte) : State :=
  if record then s else ((s.copyPut d l w c).homeWrite l w c).putSaved l w c

/-! ## Faults of engine operations (R288, R289) -/
/-- The fault of one word of an engine operation. -/
def engineFault (level source kind access code : Nat) (instr va : DWord) : FaultInfo :=
  { level := level, source := source, kind := kind, access := access, code := code, fmask := 0, dmask := 0, instr := instr, width := 4,
    lanes := [(0, kind, va)], mark := none, size := 0, since := none }
/-- The delivery of an engine's fault to its group: a stop for a fault of level H2, or beyond the reserve; else the record, with the chunk's own park slot,
and the entry of kind 32 to which skip does nothing. -/
def State.deliverEngine (s : State) (g : Nat) (f : FaultInfo) (park : Nat) : State :=
  let o := s.ownerOf g
  let lvl := max (s.group g).level f.level
  let s := s.count (s.dieOf g) o 26 1
  if lvl = 2 then s.stopOwner o 2 f.kind f.va (some g)
  else if f.kind = 7 then s.stopOwner o 3 f.kind f.va (some g)
  else
    let w := s.owner o
    if w.fqtail - w.fqhead == w.fqcap then s.stopOwner o 4 f.kind f.va (some g)
    else
      let (va, s) := s.putFaultRecord g f park
      s.enter g 32 0 0 0 va (s.group g).pc none 0
/-- The group is at a boundary at which it may take a fault of an operation that a level issued: not saved, with no instruction in progress. -/
def State.atBoundary (s : State) (g lvl : Nat) : Bool :=
  let x := s.group g
  decide (x.level ≤ lvl) && x.gstate != .free && x.gstate != .saved && x.pendingFault.isNone && !x.spent s.cycle

/-! ## The memory budget (R115, R404) -/
/-- Sectors of an owner move between an L2 and memory, f filled and b written back, and its memory budget pays for them. -/
def State.payMemory (s : State) (d o f b : Nat) : State :=
  ((s.updOwner o (fun x => { x with memLeft := x.memLeft - (f + b), dry := x.dry || x.memLeft == f + b })).count d o 21 f).count d o 22 b
/-- A chunk's sectors (R390): of the n that it touches, those that its L2 has to fill or to write back, which the manual does not fix, within what the budget has left
(log entry 5). -/
def State.paySectors (s : State) (d o n : Nat) : State :=
  let left := min n (s.owner o).memLeft
  let f := (Config.freeWord s.freeIdx).toNat % (left + 1)
  let b := (Config.freeWord (s.freeIdx + 1)).toNat % (left + 1 - f)
  { s with freeIdx := s.freeIdx + 2 }.payMemory d o f b

/-! ## The fabric (R304, R305, R309, R310, R312) -/
/-- The source unit of the scalar unit of a core, of a cluster's copy engine, of a die's collective engine (R305). -/
def unitCore (c : Nat) : Nat := c
def unitCopy (cluster : Nat) : Nat := 640 + cluster
def unitColl (die : Nat) : Nat := 720 + die
/-- The die of a source unit. -/
def unitDie (u : Nat) : Nat := if u < 640 then dieOfCore u else if u < 720 then (u - 640) / Config.clusters else u - 720
/-- The page that some caches have translated an owner's address by: its first 64 KiB page and how many there are (R294). -/
def State.pageOf (s : State) (us : List Nat) (o va : Nat) : Nat × Nat :=
  match s.tlbFind us o (va / 65536) with
  | some e => (e.page, 2 ^ fld e.res 56 5)
  | none => (va / 65536, 1)
/-- A port is open (R303). -/
def State.portOpen (s : State) (port : Nat) : Bool :=
  let p := tabGet Port.down (s.die (port / 16)).ports (port % 16)
  decide (port < 64) && (p.st == 2 || p.st == 3)
/-- The owner's fabric budget pays n flits, which a die counts (R312, R404). -/
def State.payFabric (s : State) (die o n : Nat) : State :=
  (s.updOwner o (fun x => { x with fabLeft := x.fabLeft - n, dry := x.dry || decide (x.fabLeft ≤ n) })).count die o 23 n
/-- The pair of an access (R309): its issuing agent, which is a group's scalar stream, a copy or a collective, and the destination device (R306). -/
def OutReq.pair (r : OutReq) : Nat × Nat × Nat := (if r.unit < 640 then 0 else if r.unit < 720 then 1 else 2, r.agent, r.frame / 2 ^ 22)
/-- A pair's route: the port that it follows, while that is open; else the lowest open port (R303, R310; log entry 41). -/
def State.route (s : State) (p : Nat × Nat × Nat) : Option Nat :=
  match (s.routes.find? (fun e => e.1 == p)).map (fun e => e.2) with
  | some n => if s.portOpen n then some n else none
  | none => leastFrom s.portOpen 0 64
/-- Flits leave through a port, numbered modulo 2^14 (R304). -/
def State.sendFlits (s : State) (port n : Nat) : State :=
  s.updDie (port / 16) (fun x =>
    let p := tabGet Port.down x.ports (port % 16)
    { x with ports := tabPut x.ports (port % 16) { p with sent := (p.sent + n) % 2 ^ 14 } })
/-- An access has left through a port: one that has no answer is on the fabric, and this device knows no more of it. -/
def State.leave (s : State) (id : Nat) (r : OutReq) (port : Nat) : State :=
  match r.msg with
  | some m => { s with fabricOut := tabDel s.fabricOut id, collOut := s.collOut ++ [{ m with port := port }] }
  | none => { s with fabricOut := tabPut s.fabricOut id { r with port := some port } }
/-- A collective's pair takes no further access after its port has failed: what it had sent counts as lost and has no answer but the refusal that ends the operation (R310;
log entry 41). -/
def State.collLost (s : State) (r : OutReq) : Bool := r.msg.isSome && ((tabFind s.colls r.agent).map (fun c => c.lost)).getD false
/-- An access leaves by its pair's route, and the budget pays for its flits (R312). It waits at its port while the budget is zero or no port is open, behind the accesses
of its pair that wait, and, after the pair's port has failed, for the answers to those that had left by it (R310). -/
def State.depart (s : State) (id : Nat) : State :=
  match tabFind s.fabricOut id with
  | none => s
  | some r =>
    let before := s.fabricOut.any (fun e => e.1 != id && e.2.pair == r.pair &&
      (match e.2.port with | none => decide (e.1 < id) | some p => decide (64 ≤ p)))
    match s.route r.pair with
    | none => s
    | some n =>
      if r.port.isSome || before || s.collLost r || (s.owner r.owner).fabLeft = 0 then s
      else
        (({ s.leave id r n with
          routes := (r.pair, n) :: s.routes.filter (fun e => e.1 != r.pair) }).payFabric (unitDie r.unit) r.owner r.flits).sendFlits n r.sends
/-- Every access that waits at its port leaves, in the order of issue, as far as it may. -/
def State.departs (s : State) : State := (s.fabricOut.map (fun e => e.1)).foldl State.depart s
/-- A request is sent to the device and export that a window frame names (R306), under a fresh number. -/
def State.send (s : State) (r : OutReq) : State :=
  { s with fabricOut := tabPut s.fabricOut s.nextId r, nextId := s.nextId + 1 }.depart s.nextId
/-- The unanswered request that a reply to this device answers, which crosses an open port (R302, R305): by its unit, tag and kind, the oldest one that has left. The
answer of an access that was lost with its port is a refusal of the source's own, and crosses none (R310). -/
def State.request (s : State) (m : FabricMsg) (kind : Nat) : Option (Nat × OutReq) :=
  s.fabricOut.find? (fun e => m.source == s.device && e.2.unit == m.unit && e.2.tag == m.tag && e.2.kind == kind &&
    (match e.2.port with | none => false | some p => s.portOpen m.port || (decide (64 ≤ p) && m.status == 1)))
/-- A header with reserved bits, or of a reserved operation, is discarded and counted (R305); an event arises at level S. -/
def State.discard (s : State) (port : Nat) : State :=
  let d := port / 16
  let n := port % 16
  let s := s.updDie d (fun x =>
    let p := tabGet Port.down x.ports n
    { x with ports := tabPut x.ports n { p with discards := (p.discards + 1) % 65536 } })
  s.reportFor 13 10 0 0 port d

end Sys2Proof.Machine
end

