-- ==== Sys2Proof/Machine/Copy.lean ====
section
/-! DEFINITION. Copies, batches and counts, and the copy engine (R386 to R398). -/
namespace Sys2Proof.Machine

/-! ## Addresses of a copy (R387, R389) -/
/-- Words of a row. -/
def Copy.wpr (c : Copy) : Nat := c.row / 4
/-- The exact address of word n of the copy from a base with a row pitch and a plane pitch. -/
def Copy.exact (c : Copy) (base rp pp : DWord) (n : Nat) : Int :=
  let w := n % c.wpr
  let r := n / c.wpr % c.rows
  let p := n / (c.wpr * c.rows)
  (base.toNat : Int) + p * pp.toInt + r * rp.toInt + 4 * w
/-- The destination and the source of word n. -/
def Copy.dstAt (c : Copy) (n : Nat) : Int := c.exact c.dst c.dpitch c.dplane n
def Copy.srcAt (c : Copy) (n : Nat) : Int := c.exact c.src c.spitch c.splane n
/-- The words at the corners of the copy: addresses are linear in word, row and plane, so they bound all others. -/
def Copy.corners (c : Copy) : List Nat :=
  let r := (c.rows - 1) * c.wpr
  let p := (c.planes - 1) * (c.wpr * c.rows)
  ([0, c.wpr - 1].map (fun w => [0, r].map (fun r => [0, p].map (fun p => w + r + p)))).flatten.flatten
/-- Every word address is in its space (R237, R238). -/
def State.copyRange (s : State) (c : Copy) (ms : Space) (addr : Nat → Int) : Bool :=
  match ms with
  | .gl => c.corners.all (fun n => decide (0 ≤ addr n) && decide (addr n < 2 ^ 56))
  | .pv => false
  | .sp | .cl | .ch =>
    (List.range c.total).all (fun n => decide (0 ≤ addr n) && (s.teamPlace c.owner c.team ms (addr n).toNat).isSome)

/-! ## Issue -/
/-- A copy of the acting group. -/
def State.newCopy (s : State) (dst src : DWord) (row rows planes total : Nat) : Copy :=
  { owner := s.ownerOf s.cur, team := s.g.team, group := s.cur, tok := s.g.tok, level := s.g.level,
    cluster := clusterOfCore (s.team s.g.team).core, instr := s.g.pc, dst := dst, src := src, dspace := .gl, sspace := .gl,
    row := row, rows := rows, planes := planes, spitch := 0, dpitch := 0, splane := 0, dplane := 0, completion := 0,
    next := 0, written := 0, asked := 0, buf := [], total := total, fault := none, slot := none, charged := false, waits := none, delivered := false, code := 0, detail := 0 }
/-- A copy has performed what it will perform: nothing is asked or unanswered, and every word was done, or the copy has ended and no chunk of it is in progress (R391, R392). -/
def State.settleCopy (s : State) (id : Nat) : State :=
  match tabFind s.copies id with
  | none => s
  | some c =>
    let busy := s.fabricOut.any (fun e => match e.2.copy with | some (k, _) => k == id | none => false)
    if busy || (c.next < c.total && (c.code = 0 || c.charged)) then s
    else { s with copies := tabPut s.copies id { c with code := if c.code = 0 then 1 else c.code } }.completeCopy id
/-- The copy is issued: it waits in place while the group has 64 copies incomplete or the engine holds 1,024 operations; then it is pending, the team is
no longer clean (R394), and a copy of no words is complete (R387). -/
def issueCopy (c : Copy) : M Unit := do
  let s ← get
  let mine := (s.copies.filter (fun e => e.2.group == c.group)).length
  let engine := (s.copies.filter (fun e => e.2.cluster == c.cluster)).length
  need (decide (mine < Config.groupCopies) && decide (engine < Config.engineCopies)) .wait
  upd (fun s =>
    let id := s.nextId
    let s := { s with copies := tabPut s.copies id c, nextId := id + 1 }
    ((s.updG (fun x => { x with pending := x.pending ++ [id] })).soil c.team).settleCopy id)
/-- cpy (R387). -/
def execCpy (d a b : Nat) (s : State) : Host.Outcome State Fault Refusal :=
  scalarOp (.cpy d a b) (do
    needOwner
    let dst ← useReg d
    let src ← useReg a
    let n ← useReg b
    need (dst.toNat % 4 == 0 && src.toNat % 4 == 0 && n.toNat % 4 == 0) (.trap 12 0)
    need (decide (n.toNat ≤ 2 ^ 36) && decide (dst.toNat < 2 ^ 56) && decide (src.toNat < 2 ^ 56) &&
      decide (dst.toNat + n.toNat ≤ 2 ^ 56) && decide (src.toNat + n.toNat ≤ 2 ^ 56)) (.trap 14 0)
    issueCopy ((← get).newCopy dst src n.toNat 1 1 (n.toNat / 4))) s

/-! ## Descriptors (R388) -/
/-- A space as a descriptor names it. -/
def copySpace (n : Nat) : Option Space :=
  match n with | 0 => some .gl | 2 => some .sp | 3 => some .cl | 4 => some .ch | _ => none
/-- n words from a place, each checked by unit src; trap 3 on poison. -/
def descWords (src : Nat) (l : Loc) : Nat → M (List Word)
  | 0 => pure []
  | n + 1 => do
    let (w, p) ← consumeAt src l
    need (!p) (.trap 3 0)
    let r ← descWords src (l.plus 4) n
    pure (w :: r)
/-- Double word k of descriptor words. -/
def dwordAt (ws : List Word) (k : Nat) : DWord := ws.getD (2 * k + 1) 0 ++ ws.getD (2 * k) 0
/-- The copy that a descriptor gives; none where it breaks R388. -/
def parseCopy (three : Bool) (c : Copy) (ws : List Word) : Option Copy :=
  let x := dwordAt ws 0
  let row := fld (dwordAt ws 1) 0 32
  let rows := fld (dwordAt ws 1) 32 32
  let planes := fld (dwordAt ws 4) 0 32
  let pitches := [dwordAt ws 2, dwordAt ws 3, dwordAt ws 5, dwordAt ws 6]
  let comp := dwordAt ws 7
  let p := max planes 1
  match copySpace (fld x 0 8), copySpace (fld x 8 8) with
  | some ds, some ss =>
    if fld x 16 48 = 0 && 4 ≤ row && row ≤ 2 ^ 24 && row % 4 = 0 && 1 ≤ rows && rows ≤ 2 ^ 20 && pitches.all (fun v => v.toNat % 4 == 0) &&
       fld (dwordAt ws 4) 32 32 = 0 && (if three then decide (1 ≤ planes) && decide (planes ≤ 65536)
         else planes == 0 && dwordAt ws 5 == 0 && dwordAt ws 6 == 0) &&
       comp.toNat % 8 = 0 && row * rows * p ≤ 2 ^ 36 then
      some { c with
        dspace := ds, sspace := ss, row := row, rows := rows, planes := p, spitch := dwordAt ws 2, dpitch := dwordAt ws 3,
        splane := dwordAt ws 5, dplane := dwordAt ws 6, completion := comp, total := row / 4 * rows * p }
    else none
  | none, _ => none
  | some _, none => none
/-- cpy2 and cpy3 (R389). A descriptor or a completion word outside device memory breaks R388 (log entry 18). -/
def copyDesc (i : Instr) (three : Bool) (d a b : Nat) (s : State) : Host.Outcome State Fault Refusal :=
  scalarOp i (do
    needOwner
    let dst ← useReg d
    let src ← useReg a
    let desc ← useReg b
    need (desc.toNat % 64 == 0 && dst.toNat % 4 == 0 && src.toNat % 4 == 0) (.trap 12 0)
    let (l, ty) ← place .gl desc 0 64 (fun _ => true)
    need (decide (ty ≤ 1)) (.trap 14 0)
    let ws ← descWords 1 l 16
    let t ← get
    match parseCopy three (t.newCopy dst src 0 1 1 0) ws with
    | none => trap 14
    | some c => do
      need (t.copyRange c c.dspace c.dstAt && t.copyRange c c.sspace c.srcAt) (.trap 14 0)
      if c.completion = 0 then pure ()
      else do
        let (_, ty) ← place .gl c.completion 1 8 (fun _ => true)
        need (decide (ty ≤ 1)) (.trap 14 0)
      issueCopy c) s
/-- cpy2 (R389). -/
def execCpy2 (d a b : Nat) (s : State) : Host.Outcome State Fault Refusal := copyDesc (.cpy2 d a b) false d a b s
/-- cpy3 (R389). -/
def execCpy3 (d a b : Nat) (s : State) : Host.Outcome State Fault Refusal := copyDesc (.cpy3 d a b) true d a b s

/-! ## Batches and counts (R395 to R398) -/
/-- bclose (R397). -/
def execBclose (d : Nat) (s : State) : Host.Outcome State Fault Refusal :=
  scalarOp (.bclose d) (do
    needOwner
    upd (fun t => t.updG (fun x =>
      { x with n := x.n + 1, batches := tabPut x.batches (x.n + 1) x.pending, pending := [],
               sr := x.sr.put d (BitVec.ofNat 64 (x.n + 1)) false }))) s
/-- A join of engine operations is an acquire at .dev (R264, R398): the die of the acting group drops its copies of remote-home lines (R254). -/
def joined : M Unit := upd (fun t => t.dropCopies (t.dieOf t.cur))
/-- waitb (R397): a switch point. -/
def execWaitb (a : Nat) (s : State) : Host.Outcome State Fault Refusal :=
  scalarOp (.waitb a) (do
    needOwner
    let v ← useReg a
    let t ← get
    need (decide (v.toNat ≤ t.g.n)) (.trap 14 0)
    switchPoint (t.batchesDone t.cur v.toNat) (.batch v.toNat)
    joined) s
/-- waitk (R397): a switch point that takes a completed copies. -/
def execWaitk (a : Nat) (s : State) : Host.Outcome State Fault Refusal :=
  scalarOp (.waitk a) (do
    needOwner
    let v ← useReg a
    let t ← get
    let open_ := (t.copies.filter (fun c => c.2.group == t.cur && c.2.tok == t.g.tok)).length
    need (decide (v.toNat ≤ t.g.k + open_)) (.trap 14 0)
    switchPoint (decide (v.toNat ≤ t.g.k)) (.copies v.toNat)
    joined
    upd (fun t => t.updG (fun x => { x with k := x.k - v.toNat }))) s

/-! ## Chunks (R390, R391) -/
/-- Words of the chunk that begins at the copy's next word: to the end of the row or of a 64 KiB page of either side, and at most 4 KiB. -/
def Copy.chunk (c : Copy) : Nat :=
  let page (a : Int) : Nat := (65536 - (a % 65536).toNat) / 4
  min (min (c.wpr - c.next % c.wpr) 1024) (min (page (c.srcAt c.next)) (page (c.dstAt c.next)))
/-- The code a word has at its destination (R107, R390): made at the CXL port from host memory, re-keyed otherwise. -/
def copyCode (src dst : Loc) (w : Word) (c : Byte) : Byte := if src.isHost then checkCode w dst.off else rekeyCode c src.off dst.off
/-- A request of one word of a copy (R309); its header, its data and its answer are three flits, as those of rld and rst (R312; log entry 19). -/
def State.copyReq (s : State) (id : Nat) (c : Copy) (kind frame off k : Nat) (ws : List (Word × Byte)) : OutReq :=
  let p := s.pageOf [640 + c.cluster] c.owner (if kind = 0 then c.srcAt k else c.dstAt k).toNat
  { unit := unitCopy c.cluster, port := none, flits := 3, sends := if kind = 0 then 1 else 2, agent := id, group := c.group, team := c.team, owner := c.owner, tok := c.tok, kind := kind, frame := frame,
    off := off, width := .w, aop := .add, vpage := p.1, vlen := p.2, copy := some (id, k), msg := none, words := ws, b := 0, c := 0, poison := false, tag := s.nextId % 65536, retry := false }
/-- The words of a chunk move: n words from word k on, from and to the places of each, with the owner frame indexes behind them. A word for a fabric window leaves as a
write request (R309). -/
def State.moveWords (s : State) (id : Nat) (c : Copy) (src dst : Loc) (si di : Option Nat) (record : Bool) (k : Nat) : Nat → State
  | 0 => s
  | n + 1 =>
    let at_ := s.engineAt c.owner src si (4 * (k - c.next))
    let to_ := s.engineAt c.owner dst di (4 * (k - c.next))
    let (w, x) := (tabFind c.buf k).getD (s.engineWord c.team at_)
    let code := copyCode at_ to_ w x
    let put (s : State) : State := s.enginePut (c.cluster / Config.clusters) to_ record w code
    let s := match to_ with
      | .window f o => s.send (s.copyReq id c 1 f o k [(w, code)])
      | .dev _ => put s | .host _ _ => put s | .sram _ _ => put s | .chip _ _ => put s | .closed _ _ => put s
      | .regs _ _ => s | .priv _ _ _ => s
    s.moveWords id c src dst si di record (k + 1) n
/-- Read requests for the words of a chunk behind a fabric window, one for each word (log entry 19). -/
def State.askWords (s : State) (id : Nat) (c : Copy) (frame off k : Nat) : Nat → State
  | 0 => s
  | n + 1 => (s.send (s.copyReq id c 0 frame off k [])).askWords id c frame (off + 4) (k + 1) n
/-- The frame and offset that a fabric window leads to. -/
def Loc.windowAt (l : Loc) : Option (Nat × Nat) :=
  match l with
  | .window f o => some (f, o)
  | .dev _ => none | .host _ _ => none | .regs _ _ => none | .sram _ _ => none | .priv _ _ _ => none | .chip _ _ => none | .closed _ _ => none
/-- The sectors of device memory in n words from a place on. -/
def Loc.sectors (l : Loc) (n : Nat) : Nat :=
  match l with
  | .dev ma => (ma % 128 + 4 * n + 127) / 128
  | .host _ _ => 0 | .window _ _ => 0 | .regs _ _ => 0 | .sram _ _ => 0 | .priv _ _ _ => 0 | .chip _ _ => 0 | .closed _ _ => 0
/-- The copy ends with a code and a detail, if no other has ended it; it completes when nothing of it is in flight. -/
def Copy.endWith (c : Copy) (code detail : Nat) : Copy := if c.code = 0 then { c with code := code, detail := detail } else c
/-- The chunk that is in progress is not performed. -/
def Copy.dropChunk (c : Copy) : Copy := { c with charged := false, asked := 0, buf := [] }
/-- The copy ends, and its chunk in progress with it. -/
def State.endCopy (s : State) (id code detail : Nat) : State :=
  match tabFind s.copies id with
  | none => s
  | some c => { s with copies := tabPut s.copies id (c.endWith code detail).dropChunk }.settleCopy id
/-- The owner of an engine operation still has its groups served: it is running, or pre-empted. -/
def State.served (s : State) (o : Nat) : Bool :=
  match (s.owner o).ostate with
  | .running => true | .preempting => true | .saved => true
  | .free => false | .built => false | .ready => false | .stopping => false | .stopped => false | .teardown => false
/-- A park slot for a chunk's fault (R282): the one that it keeps, or a free one of its die. -/
def State.slotFor (s : State) (die o : Nat) (slot : Option Nat) : Option Nat := match slot with | some p => some p | none => s.freePark die o
/-- A copy's chunk faults (R282, R288, R392): abandoned where its group is gone or its owner stops; else it takes a park slot, and waits for one where none is free. -/
def State.faultCopy (s : State) (id : Nat) (c : Copy) (f : FaultInfo) : State :=
  let f := { f with since := some (f.since.getD s.cycle) }
  if (s.group c.group).gstate = .free || !s.served c.owner then (s.count (c.cluster / Config.clusters) c.owner 26 1).endCopy id 2 0
  else
    match s.slotFor (c.cluster / Config.clusters) c.owner c.slot with
    | none => { s with copies := tabPut s.copies id { c with waits := some f } }
    | some p =>
      let s := s.count (c.cluster / Config.clusters) c.owner 27 (s.cycle - f.since.getD s.cycle).toNat
      { s with
        parks := tabPut s.parks p { owner := c.owner, pages := [] }
        copies := tabPut s.copies id { c with fault := some (f, p), slot := some p, waits := none, delivered := false } }
/-- The chunk has performed all its words: its park slot is free, and the copy may be complete. -/
def State.endChunk (s : State) (id : Nat) (c : Copy) (n : Nat) (remote : Bool) : State :=
  let c' := { c with next := c.next + n, written := if remote then c.written else c.written + n, asked := 0, buf := [], charged := false, slot := none }
  (({ s with copies := tabPut s.copies id c' }).freeSlots none c.slot).settleCopy id
/-- The chunk of a copy between two places that are reached, its sectors paid (R390): requests to a window first, else its words move. None while its words are under way,
or while it would start with no fabric budget left. -/
def State.performChunk (s : State) (id : Nat) (c : Copy) (src dst : Loc) (si di : Option Nat) (record dry : Bool) : Option State :=
  let n := c.chunk
  let die := c.cluster / Config.clusters
  if dry && (src.windowAt.isSome || dst.windowAt.isSome) then none
  else
    match src.windowAt with
    | some (f, o) =>
      if c.asked = 0 then some (({ s with copies := tabPut s.copies id { c with asked := n, buf := [] } }).askWords id c f o c.next n)
      else if c.buf.length < c.asked then none
      else some (((s.paySectors die c.owner (dst.sectors n)).moveWords id c src dst si di record c.next n).endChunk id c n dst.windowAt.isSome)
    | none =>
      some (((s.paySectors die c.owner (src.sectors n + dst.sectors n)).moveWords id c src dst si di record c.next n).endChunk id c n dst.windowAt.isSome)
/-- The chunk starts: it pays its copy unit, once (R390). -/
def State.chargeChunk (s : State) (id : Nat) (c : Copy) : State :=
  if c.charged then s
  else
    (({ s with copies := tabPut s.copies id { c with charged := true } }).updOwner c.owner
      (fun x => { x with copyLeft := x.copyLeft - 1, dry := x.dry || x.copyLeft == 1 })).count (c.cluster / Config.clusters) c.owner 24 1
/-- A chunk of the copy may start, or go on: one that starts needs a copy unit and memory budget, and starts in no copy that has ended (R115, R390, R391). -/
def State.chunkDue (s : State) (c : Copy) : Bool :=
  c.fault.isNone && c.waits.isNone && decide (c.next < c.total) &&
    (c.charged || (c.code == 0 && decide (0 < (s.owner c.owner).copyLeft) && decide (0 < (s.owner c.owner).memLeft)))
/-- COPY_CHUNK (R390, R391): each page is translated at the level of the issue; a fault parks the chunk, and register space ends the copy. -/
def execCopyChunk (id : Nat) (s : State) : Host.Outcome State Fault Refusal :=
  match tabFind s.copies id with
  | none => .fault .notEnabled
  | some c =>
    if !s.chunkDue c then .fault .notEnabled
    else
      let die := c.cluster / Config.clusters
      let us := [640 + c.cluster]
      let sa := (c.srcAt c.next).toNat
      let da := (c.dstAt c.next).toNat
      let dry := !c.charged && (s.owner c.owner).fabLeft == 0
      let c' := { c with charged := true }
      match s.engineReach us c.owner c.team c.level c.sspace sa 0 with
      | (.fault k x, s1) => .next (((s1.chargeChunk id c).faultCopy id c' (engineFault c.level 5 k 0 x c.instr (BitVec.ofNat 64 sa))).flush)
      | (.wait, s1) => .next s1.flush
      | (.ok src sty si _, s1) =>
        match s1.engineReach us c.owner c.team c.level c.dspace da 1 with
        | (.fault k x, s2) => .next (((s2.chargeChunk id c).faultCopy id c' (engineFault c.level 5 k 1 x c.instr (BitVec.ofNat 64 da))).flush)
        | (.wait, s2) => .next s2.flush
        | (.ok dst dty di record, s2) =>
          let s3 := s2.chargeChunk id c
          if sty = 5 || dty = 5 then .next ((s3.reportFor 6 7 c.owner 0 0 die).endCopy id 3 1).flush
          else
            match s3.performChunk id c' src dst si di record dry with
            | some t => .next t.flush
            | none => .fault .notEnabled
/-- A reply or acknowledgement for a copy's word (R309, R391): a word that came joins the chunk's buffer; a refused one ends the copy, and the chunk whose words cannot come. A
chunk in progress beside a refused write finishes. -/
def State.copyAnswer (s : State) (id k : Nat) (status : Nat) (w : Option (Word × Byte)) : State :=
  match tabFind s.copies id with
  | none => s
  | some c =>
    let die := c.cluster / Config.clusters
    if status ≠ 0 then
      let s := s.reportFor 7 7 c.owner 0 0 die
      let s := if c.code = 0 then s.reportFor 6 7 c.owner 0 0 die else s
      let c' := c.endWith 3 2
      { s with copies := tabPut s.copies id (if w.isSome then c'.dropChunk else c') }.settleCopy id
    else
      let c' := match w with | some x => { c with buf := tabPut c.buf k x } | none => { c with written := c.written + 1 }
      ({ s with copies := tabPut s.copies id c' }).settleCopy id

/-! ## ENGINE_FAULT_DELIVERY (R288) -/
/-- The first undelivered fault of an operation of a group that may be delivered now: copies and collectives. -/
def State.engineFaultOf (s : State) (g : Nat) : Option (Bool × Nat × FaultInfo × Nat) :=
  let pick (level group : Nat) (f : Option (FaultInfo × Nat)) (delivered : Bool) : Bool :=
    group == g && f.isSome && !delivered && s.atBoundary g level
  match s.copies.find? (fun c => pick c.2.level c.2.group c.2.fault c.2.delivered) with
  | some (id, c) => c.fault.map (fun f => (true, id, f.1, f.2))
  | none =>
    match s.colls.find? (fun c => pick c.2.level c.2.group c.2.fault c.2.delivered) with
    | some (id, c) => c.fault.map (fun f => (false, id, f.1, f.2))
    | none => none
/-- ENGINE_FAULT_DELIVERY: the parked chunk's fault enters the group. -/
def execEngineFaultDelivery (g : Nat) (s : State) : Host.Outcome State Fault Refusal :=
  match s.engineFaultOf g with
  | none => .fault .notEnabled
  | some (copy, id, f, p) =>
    let s := if copy then
        (match tabFind s.copies id with | some c => { s with copies := tabPut s.copies id { c with delivered := true } } | none => s)
      else (match tabFind s.colls id with | some c => { s with colls := tabPut s.colls id { c with delivered := true } } | none => s)
    .next (s.deliverEngine g f p).flush

end Sys2Proof.Machine
end

