-- ==== Sys2Proof/Machine/Kernel.lean ====
section
/-! DEFINITION. Kernels and teams: launch records, admission, capture, placement, retirement, and the instructions of the kernel (R178, R179, R181 to R189,
R200 to R209, R213 to R215, R424, R426). -/
namespace Sys2Proof.Machine

/-! ## Completion words and retirement (R185, R189, R202, R209) -/
/-- A kernel's completion word with a code and a detail, released at .sys; a misaligned address takes none, and a translation fault is a fault of the queue that
admitted the kernel, where one still stands. -/
def State.kernelWord (s : State) (k code detail : Nat) : State :=
  let x := s.kernel k
  let va := x.lrec.completion.toNat
  let fail (s : State) : State :=
    match x.queue with
    | none => s
    | some q =>
      let y := s.queue q
      if y.owner = x.owner && y.qstate != .unbound && y.qstate != .faulted then s.queueFault q 3 va else s
  if va % 8 ≠ 0 then s
  else
    match s.xlateFor x.owner va 1 with
    | (.ok l _ _ _, s1) => s1.homeWrite64 l (BitVec.ofNat 64 (x.pos % 2 ^ 48 * 2 ^ 16 + detail * 256 + code))
    | (.fault _ _, s1) => fail s1 | (.range, s1) => fail s1 | (.beyond, s1) => fail s1 | (.wait, s1) => fail s1
/-- A kernel in one state, and a kernel that has not retired. -/
def Kernel.live (x : Kernel) : Bool := x.kstate != .retired
/-- A team has a live child (R209). -/
def State.liveChild (s : State) (t : Nat) : Bool := s.kernels.any (fun k => k.2.parent == some t && k.2.live)
/-- Writes of a kernel's teams to fabric windows are not acknowledged: its release at .sys waits for them (R202, R256). -/
def State.unacked (s : State) (k : Nat) : Bool :=
  s.fabricOut.any (fun e => e.2.kind == 1 && e.2.copy.isNone && (s.team e.2.team).kernel == k && s.teams.any (fun t => t.1 == e.2.team))
/-- A kernel whose last team has exited drains, or retires with its teams and lets its parent retire (R202); fuel bounds the nesting (R209). -/
def State.settleKernel (s : State) (k : Nat) : Nat → State
  | 0 => s
  | fuel + 1 =>
    let x := s.kernel k
    let ts := s.teamsOf k
    if (x.kstate = .running || x.kstate = .draining) && ts.all (fun t => t.2.tstate == .exited) then
      if ts.any (fun t => s.liveChild t.1) then s.setKernel k { x with kstate := .draining }
      else if s.unacked k then s
      else
        let s := (s.setKernel k { x with kstate := .retired }).kernelWord k 2 0
        let s := { s with teams := s.teams.filter (fun t => t.2.kernel != k) }
        match x.parent with
        | none => s
        | some p => s.settleKernel (s.team p).kernel fuel
    else s
/-- A kernel that is refused retires at once with code 3 (R201). -/
def State.refuseKernel (s : State) (k detail : Nat) : State :=
  let x := s.kernel k
  let s := (s.setKernel k { x with kstate := .retired }).kernelWord k 3 detail
  match x.parent with
  | none => s
  | some p => s.settleKernel (s.team p).kernel 12

/-! ## Teams that end (R179, R202, R214, R424) -/
/-- Operations of a group that is gone abandon their parked chunks (R288, R392). -/
def State.abandon (s : State) (g : Nat) : State :=
  let cs := (s.copies.filter (fun c => c.2.group == g && (c.2.fault.isSome || c.2.waits.isSome))).map (fun c => c.1)
  let s := cs.foldl (fun s c => s.endCopy c 2 0) s
  let ls := (s.colls.filter (fun c => c.2.group == g && (c.2.fault.isSome || c.2.waits.isSome))).map (fun c => c.1)
  ls.foldl (fun s c => s.completeColl c 4) s
/-- A group ends: its pairing, its park slots, its waits and its context are free (R179). -/
def State.freeGroup (s : State) (g : Nat) : State :=
  let s := (s.losePair g).releaseParks g
  let gone (e : WEntry) : Option WEntry :=
    let e := { e with waiters := e.waiters.filter (fun w => w.group != g) }
    if e.waiters.isEmpty && e.queues.isEmpty then none else some e
  ({ s with
    groups := tabDel s.groups g
    waits := s.waits.filterMap gone
    matrix := s.matrix.filter (fun m => m.2.group != g) }).abandon g
/-- A team exits: its groups end, its buffer commits, its claims are free; the scratchpads of its set stay until the last team of the set has exited. -/
def State.exitTeam (s : State) (t : Nat) : State :=
  let k := (s.team t).kernel
  let s := (s.groupsOf t).foldl State.freeGroup s
  let s := (s.commit t).updTeam t (fun x => { x with tstate := .exited, run := none })
  let set := s.setTeams t
  let s := if set.all (fun u => (s.team u).tstate == .exited) then set.foldl (fun s u => s.updTeam u (fun x => { x with sram := .zero })) s
    else s
  s.settleKernel k 12

/-! ## Launch records (R184, R186, R187) -/
def parseLaunch (ws : List DWord) : LaunchRec :=
  let w (i : Nat) : DWord := ws.getD i 0
  { kernel := w 0, teams := fld (w 1) 0 32, flags := fld (w 1) 32 16, ndeps := fld (w 1) 48 8, reserved := fld (w 1) 56 8, args := w 2,
    completion := w 3, deps := [w 4, w 5, w 6], seq := w 7 }
/-- The dependence words a record uses. -/
def LaunchRec.used (r : LaunchRec) : List DWord := r.deps.take (min r.ndeps 3)
/-- The first of conditions 1 to 5 of R187 that fails, 0 where none does. -/
def LaunchRec.fails (r : LaunchRec) : Nat :=
  if 4 ≤ r.flags || r.reserved ≠ 0 then 1
  else if 3 < r.ndeps then 2
  else if r.teams = 0 || 2 ^ 24 < r.teams then 3
  else if r.kernel = 0 || r.kernel.toNat % 64 ≠ 0 then 4
  else if r.args.toNat % 64 ≠ 0 || r.used.any (fun d => d.toNat % 8 != 0) then 5
  else 0
/-- What the dependence words of a record say: the address of one that does not translate, whether one holds code 0, another code than 1 or 2, or is poisoned. -/
structure Deps where
  fault : Option Nat
  open_ : Bool
  wrong : Bool
  poison : Bool
  deriving DecidableEq, Repr
def State.readDeps (s : State) (o : Nat) : List DWord → Deps × State
  | [] => ({ fault := none, open_ := false, wrong := false, poison := false }, s)
  | d :: r =>
    match s.ownRead o d.toNat 6 with
    | (none, s1) => ({ fault := some d.toNat, open_ := false, wrong := false, poison := false }, s1)
    | (some (v, p), s1) =>
      let (x, s2) := s1.readDeps o r
      let c := fld v 0 8
      if p then ({ x with poison := true }, s2)
      else ({ x with open_ := x.open_ || c == 0, wrong := x.wrong || decide (2 < c) }, s2)
/-- Conditions 6 and 7 of R187. -/
def Deps.detail (x : Deps) : Nat := if x.wrong then 6 else if x.poison then 7 else 0
/-- A kernel is admitted and no team of it has been placed (R187). -/
def State.unplaced (s : State) (k : Nat) : Bool :=
  match (s.kernel k).kstate with
  | .admitted => true
  | .running => (s.teamsOf k).all (fun t => t.2.die.isNone)
  | .captured => false | .draining => false | .retired => false
/-- How many kernels of an owner are admitted and not placed on a die. -/
def State.waiting (s : State) (o d : Nat) : Nat :=
  (s.kernels.filter (fun k => k.2.owner == o && k.2.die == d && s.unplaced k.1)).length
/-- The owner may have a record taken now (R187). -/
def State.mayTake (s : State) (o d : Nat) : Bool :=
  let x := s.owner o
  x.ostate == .running && decide (s.waiting o d < 64) && x.memLeft != 0 && x.copyLeft != 0

/-! ## TAKE_LAUNCH_RECORD (R183, R187 to R189, R215) -/
/-- How an attempt to take a record ends: the record waits, or the queue has moved on (it was taken, refused, or the queue is faulted). -/
inductive Take where
  | held
  | moved
  deriving DecidableEq, Repr
/-- The round-robin point of a queue's die and class (R188). -/
def State.noteTaken (s : State) (q : Nat) : State := { s with taken := tabPut s.taken (q / Config.queuesPerDie * 4 + (s.queue q).cls) q }
/-- Head moves on (R183, R187): the queue is READY where the next record is published. False where the head word does not translate: head stays, and so does the record
in hand (R189). -/
def State.advanceHead (s : State) (q : Nat) (h : DWord) (refused : Nat) : Bool × State :=
  let x := s.queue q
  let va := x.header.toNat + 0x20
  match s.xlateFor x.owner va 1 with
  | (.ok l _ _ _, s1) =>
    let s1 := ((s1.setQueue q { x with refused := x.refused + refused }).noteTaken q).homeWrite64 l (h + 1)
    (true, match s1.published q with
      | (none, s2) => s2
      | (some true, s2) => s2.putQueue q { s2.queue q with qstate := .ready }
      | (some false, s2) => s2.putQueue q { s2.queue q with qstate := .empty })
  | (.fault _ _, s1) => (false, s1.queueFault q 1 va) | (.range, s1) => (false, s1.queueFault q 1 va) | (.beyond, s1) => (false, s1.queueFault q 1 va)
  | (.wait, s1) => (false, s1.queueFault q 1 va)
/-- A new kernel. -/
def State.addKernel (s : State) (x : Kernel) : State := { s with kernels := tabPut s.kernels s.nextId x, nextId := s.nextId + 1 }
/-- A word written for a record that is no kernel yet; false where its address does not translate. -/
def State.recordWord (s : State) (o : Nat) (va : DWord) (pos code detail : Nat) : Bool × State :=
  match s.xlateFor o va.toNat 1 with
  | (.ok l _ _ _, s1) => (true, s1.homeWrite64 l (BitVec.ofNat 64 (pos % 2 ^ 48 * 2 ^ 16 + detail * 256 + code)))
  | (.fault _ _, s1) => (false, s1) | (.range, s1) => (false, s1) | (.beyond, s1) => (false, s1) | (.wait, s1) => (false, s1)
/-- The record is refused, or admitted where det is 0 (R187): a misaligned completion word refuses it without a write. DESIGN CHOICE: a completion address that was itself
poisoned receives the code at its data as delivered; R189 does not say (log entry 26). The kernel goes to placement once head has moved on. -/
def State.finishTake (s : State) (q d : Nat) (h : DWord) (r : LaunchRec) (det : Nat) : Take × State :=
  let x := s.queue q
  let bad := r.completion.toNat % 8 != 0
  if bad then (.moved, (s.advanceHead q h 1).2)
  else
    match s.recordWord x.owner r.completion h.toNat (if det = 0 then 1 else 3) det with
    | (false, s1) => (.moved, s1.queueFault q 3 r.completion.toNat)
    | (true, s1) =>
      if det = 0 then
        let k : Kernel :=
          { owner := x.owner, kstate := .admitted, lrec := r, pos := h.toNat, queue := some q, parent := none, depth := 1, cls := x.cls, die := d,
            desc := none }
        (.moved, if (s1.advanceHead q h 0).1 then (s1.advanceHead q h 0).2.addKernel k else (s1.advanceHead q h 0).2)
      else (.moved, (s1.advanceHead q h 1).2)
/-- A record with what its poisoned words name left out (DEDUCED; log entry 26): no dependence in a poisoned word, and no flags and no dependences where the word that
holds both is poisoned. -/
def LaunchRec.known (r : LaunchRec) (poison : List Bool) : LaunchRec :=
  let bad (i : Nat) : Bool := poison.getD i false
  { r with
    flags := if bad 1 then 0 else r.flags
    ndeps := if bad 1 then 0 else r.ndeps
    deps := ((r.used.zip [4, 5, 6]).filter (fun e => !bad e.2)).map (fun e => e.1) }
/-- The conditions a record waits for (R187): a dependence word that does not translate, one that holds code 0 or an earlier record of a serial queue that has not
retired, or what dependence words refuse. A misaligned word, which is none (detail 5), holds nothing. DESIGN CHOICE: a live kernel that was admitted under an earlier
binding of the queue's number is an earlier record too; R187 does not say (log entry 26). -/
def State.takeWaits (s : State) (o q : Nat) (r : LaunchRec) : Deps × Bool × State :=
  let (dep, s1) := s.readDeps o (r.used.filter (fun d => d.toNat % 8 == 0))
  (dep, dep.open_ || (r.flags / 2 % 2 == 1 && s1.kernels.any (fun k => k.2.queue == some q && k.2.live)), s1)
/-- The head record of a READY queue of die d (R187, R189): it is taken, and then refused or admitted, once all that it waits for holds, as far as its words that are not
poisoned name it; a record with a poisoned word is then refused. -/
def State.takeHead (s : State) (q d : Nat) : Take × State :=
  let x := s.queue q
  if !s.mayTake x.owner d then (.held, s)
  else
    match s.published q with
    | (none, s1) => (.moved, s1)
    | (some false, s1) => (.held, s1)
    | (some true, s1) =>
      match s1.ownRead x.owner (x.header.toNat + 0x20) 6 with
      | (none, s2) => (.moved, s2.queueFault q 1 (x.header.toNat + 0x20))
      | (some (h, _), s2) =>
        let slot := x.slot h.toNat
        match s2.ownReads x.owner slot 6 8 with
        | (none, s3) => (.moved, s3.queueFault q 2 slot)
        | (some ws, s3) =>
          let r := parseLaunch (ws.map (fun w => w.1))
          let (dep, holds, s4) := s3.takeWaits x.owner q (r.known (ws.map (fun w => w.2)))
          match dep.fault with
          | some va => (.moved, s4.queueFault q 4 va)
          | none =>
            let det := if ws.any (fun w => w.2) then 1 else if r.fails = 0 then dep.detail else r.fails
            if holds then (.held, s4)
            else if det ≠ 0 || r.args = 0 then s4.finishTake q d h r det
            else
              match s4.xlateFor x.owner r.args.toNat 0 with
              | (.ok _ _ _ _, s5) => s5.finishTake q d h r 0
              | (.fault _ _, s5) => (.moved, s5.queueFault q 5 r.args.toNat) | (.range, s5) => (.moved, s5.queueFault q 5 r.args.toNat)
              | (.beyond, s5) => (.moved, s5.queueFault q 5 r.args.toNat) | (.wait, s5) => (.moved, s5.queueFault q 5 r.args.toNat)
/-- A captured child record, admitted or refused as a head record is (R215). A dependence word that does not translate holds it. -/
def State.takeChild (s : State) (k d : Nat) : Take × State :=
  let x := s.kernel k
  if !s.mayTake x.owner d then (.held, s)
  else
    let (dep, s1) := s.readDeps x.owner x.lrec.used
    if dep.fault.isSome || dep.open_ then (.held, s1)
    else if dep.detail ≠ 0 then (.moved, s1.refuseKernel k dep.detail)
    else (.moved, (s1.setKernel k { x with kstate := .admitted }).kernelWord k 1 0)
/-- What may be taken from: a queue or a captured child, with its class. -/
inductive Source where
  | queue (q : Nat)
  | child (k : Nat)
  deriving DecidableEq, Repr
/-- The sources of a die in one class: captured children first (log entry 1), then READY queues in round-robin order of number (R188). -/
def State.sourcesOf (s : State) (d c : Nat) : List Source :=
  let qs := (s.queues.filter (fun e => e.1 / Config.queuesPerDie == d && e.2.qstate == .ready && e.2.cls == c)).map (fun e => e.1)
  ((s.kernels.filter (fun k => k.2.kstate == .captured && k.2.die == d && k.2.cls == c)).map (fun k => Source.child k.1)) ++
  (match tabFind s.taken (d * 4 + c) with
   | some last => qs.filter (fun q => decide (last < q)) ++ qs.filter (fun q => decide (q ≤ last))
   | none => qs).map Source.queue
/-- The first source of a list from which something is taken. -/
def State.takeFirst (s : State) (d : Nat) : List Source → Option State
  | [] => none
  | x :: r =>
    match (match x with | .queue q => s.takeHead q d | .child k => s.takeChild k d : Take × State) with
    | (.moved, s') => some s'
    | (.held, s') => { s' with evs := s.evs }.takeFirst d r
/-- TAKE_LAUNCH_RECORD: from the highest class that has a record to take (R188). -/
def execTakeLaunchRecord (die : Nat) (s : State) : Host.Outcome State Fault Refusal :=
  if Config.dies ≤ die then .fault .notEnabled
  else
    match s.takeFirst die ([3, 2, 1, 0].map (s.sourcesOf die)).flatten with
    | some s' => .next s'.flush
    | none => .fault .notEnabled

/-! ## Claims (R119, R203) -/
/-- What a team claims on its core. -/
structure Claim where
  ctx : Nat
  rf : Nat
  sram : Nat
  stage : Nat
  deriving DecidableEq, Repr
def Claim.add (a b : Claim) : Claim := { ctx := a.ctx + b.ctx, rf := a.rf + b.rf, sram := a.sram + b.sram, stage := a.stage + b.stage }
def Claim.ok (a : Claim) : Bool :=
  decide (a.ctx ≤ Config.contexts) && decide (a.rf ≤ 2 ^ 20) && decide (a.sram ≤ Config.sramMax) && decide (a.stage ≤ 65536)
def KDesc.claim (d : KDesc) : Claim :=
  { ctx := d.max, rf := d.max * d.regs * 128, sram := d.scratch + 32 * d.lanepriv * d.max + 256 * d.max, stage := d.stage * 1024 }
/-- Frames of the save pool (R119). -/
def KDesc.frames (d : KDesc) : Nat := 2 * d.max + (d.scratch + d.stage * 1024 + 65535) / 65536
/-- What a team holds on its core: all of its claim while placed; its scratchpad alone once it has exited and its set has not (R424). -/
def State.teamClaim (s : State) (t : Nat) (x : Team) : Claim :=
  match x.tstate with
  | .placed => (s.descOf t).claim
  | .exited =>
    { ctx := 0, rf := 0, stage := 0,
      sram := if (s.setTeams t).all (fun u => (s.team u).tstate == .exited) then 0 else (s.descOf t).scratch }
  | .waiting | .saved => { ctx := 0, rf := 0, sram := 0, stage := 0 }
/-- The claims on a core, without those of one kernel. -/
def State.coreUse (s : State) (skip : Option Nat) (c : Nat) : Claim :=
  (s.teams.filter (fun t => t.2.core == c && some t.2.kernel != skip)).foldl (fun a t => a.add (s.teamClaim t.1 t.2))
    { ctx := 0, rf := 0, sram := 0, stage := 0 }

/-! ## KERNEL_PLACEMENT_CHECK (R200 to R202) -/
def parseDesc (ws : List DWord) : KDesc :=
  let w (i : Nat) : DWord := ws.getD i 0
  { entry := w 0, laneBase := w 1, groups := fld (w 2) 0 8, max := fld (w 2) 8 8, regs := fld (w 2) 16 8, span := fld (w 2) 24 8,
    scratch := fld (w 2) 32 32, lanepriv := fld (w 3) 0 16, stage := fld (w 3) 16 16,
    reserved := fld (w 3) 32 32 + (w 4).toNat + (w 5).toNat + (w 6).toNat + (w 7).toNat }
/-- The limits of R200. -/
def KDesc.limits (d : KDesc) : Bool :=
  d.entry.toNat % 4 == 0 && d.laneBase.toNat % 512 == 0 && decide (1 ≤ d.groups) && decide (d.groups ≤ d.max) && decide (d.max ≤ 32) &&
  [32, 64, 96, 128, 160, 192].contains d.regs && decide (1 ≤ d.span) && decide (d.span ≤ 8) && decide (d.scratch ≤ 458752) &&
  d.scratch % 256 == 0 && decide (d.lanepriv ≤ 256) && d.lanepriv % 4 == 0 && decide (d.stage ≤ 64) && d.reserved == 0
/-- Teams of the shape that one empty core holds. -/
def KDesc.perCore (d : KDesc) : Nat :=
  let c := d.claim
  let q (lim need : Nat) : Nat := if need = 0 then Config.contexts else lim / need
  min (min (q Config.contexts c.ctx) (q (2 ^ 20) c.rf)) (min (q Config.sramMax c.sram) (q 65536 c.stage))
/-- An empty cluster holds n full sets and a last set of r teams: pairs of logical cores take whole core pairs, odd ones share them (R204). -/
def KDesc.clusterHolds (d : KDesc) (n r : Nat) : Bool :=
  decide (n * (d.span / 2) + r / 2 + (n * (d.span % 2) + r % 2 + 1) / 2 ≤ 4 * d.perCore)
/-- The most full sets that a cluster holds beside a last set of r teams. -/
def KDesc.clusterSets (d : KDesc) (r : Nat) : Nat := ((List.range (8 * Config.contexts + 1)).filter (fun n => d.clusterHolds n r)).length - 1
/-- The whole grid fits the empty partition, the owner's Contexts and its save pool (R201, detail 20). -/
def State.gridFits (s : State) (o : Nat) (d : KDesc) (teams : Nat) : Bool :=
  let clusters := (diesOf (s.owner o).dies).length * Config.clusters
  let full := teams / d.span
  let r := teams % d.span
  decide (teams * d.max ≤ (s.owner o).contexts) && decide (teams * d.frames ≤ fld (s.owner o).spool 32 32) &&
  (if r = 0 then decide (full ≤ clusters * d.clusterSets 0)
   else d.clusterHolds 0 r && decide (full ≤ (clusters - 1) * d.clusterSets 0 + d.clusterSets r))
/-- The first of conditions 17 to 20 that fails (R201), 0 where none does. -/
def State.descFails (s : State) (o : Nat) (d : KDesc) (r : LaunchRec) : Nat :=
  if !d.limits then 17
  else if !d.claim.ok then 18
  else if fld (s.owner o).spool 32 32 < d.frames then 19
  else if r.flags % 2 = 1 && !s.gridFits o d r.teams then 20
  else 0
/-- Every team of a kernel, WAITING. -/
def State.makeTeams (s : State) (k n : Nat) : State :=
  let b := s.nextId
  { s with
    teams := (List.range n).foldl (fun t i => tabPut t (b + i) { Team.init with kernel := k, idx := i }) s.teams
    nextId := b + n }
/-- KERNEL_PLACEMENT_CHECK: the descriptor is read once, and its teams are created or the kernel is refused. -/
def execKernelPlacementCheck (k : Nat) (s : State) : Host.Outcome State Fault Refusal :=
  let x := s.kernel k
  if x.kstate = .admitted && (s.owner x.owner).ostate = .running then
    match s.ownReads x.owner x.lrec.kernel.toNat 6 8 with
    | (none, s1) => .next (s1.refuseKernel k 16).flush
    | (some ws, s1) =>
      if ws.any (fun w => w.2) then .next (s1.refuseKernel k 16).flush
      else
        let d := parseDesc (ws.map (fun w => w.1))
        let det := s1.descFails x.owner d x.lrec
        if det ≠ 0 then .next (s1.refuseKernel k det).flush
        else .next ((s1.setKernel k { x with kstate := .running, desc := some d }).makeTeams k x.lrec.teams).flush
  else .fault .notEnabled

/-! ## PLACE_TEAM_SET (R203 to R208, R426) -/
/-- The lowest context number of a core that no group holds. -/
def State.freeCtx (s : State) (c : Nat) : Nat :=
  (leastFrom (fun n => !s.groups.any (fun g => g.2.ctx == n && g.2.level != 3 && (s.team g.2.team).core == c && g.2.gstate != .free && g.2.gstate != .saved)) 0
    Config.contexts).getD 0
/-- Where a group's lane-private slices begin in its core's SRAM: behind its team's scratchpad and the slices of the groups before it (R103; log entry 9). -/
def State.privAt (s : State) (t gi : Nat) : Nat := (s.team t).sramAt + (s.descOf t).scratch + gi * (32 * (s.descOf t).lanepriv)
/-- A group of a team as placement starts it (R206). -/
def State.startGroup (s : State) (t gi : Nat) : State :=
  let x := s.team t
  let k := s.kernelOf t
  let r := ((SRegs.zero.put 1 k.lrec.args false).put 2 (BitVec.ofNat 64 k.lrec.teams) false)
  let g : Group :=
    { Group.init with
      team := t, idx := gi, ctx := s.freeCtx x.core, gstate := .ready, sr := r, pc := k.d.entry, tok := s.nextId + 1, wake := s.steps,
      privAt := s.privAt t gi, cls := k.cls }
  { s with groups := tabPut s.groups s.nextId g, nextId := s.nextId + 2 }
/-- The frames of the save pool that an owner's teams hold. -/
def State.frameTaken (s : State) (o f : Nat) : Bool :=
  s.teams.any (fun t => (s.kernelOf t.1).owner == o && match t.2.run with | some r => decide (r ≤ f) && decide (f < r + (s.descOf t.1).frames) | none => false)
/-- The lowest run of n free frames of the save pool (R426). -/
def State.poolRun (s : State) (o n : Nat) : Option Nat :=
  let first := fld (s.owner o).spool 0 32
  let count := fld (s.owner o).spool 32 32
  if count < n then none
  else leastFrom (fun f => (List.range n).all (fun i => !s.frameTaken o (f + i))) first (count - n + 1)
/-- The contexts that an owner's placed and saved teams reserve (R203). -/
def State.contextsUsed (s : State) (o : Nat) : Nat :=
  (s.teams.filter (fun t => (t.2.tstate == .placed || t.2.tstate == .saved) && (s.kernelOf t.1).owner == o)).foldl
    (fun n t => n + (s.descOf t.1).max) 0
/-- The bytes of a core's SRAM from an offset on are outside every team that is there. -/
def State.sramClear (s : State) (c at_ n : Nat) : Bool :=
  s.teams.all (fun t =>
    let k := (s.teamClaim t.1 t.2).sram
    t.2.core != c || decide (k = 0) || decide (at_ + n ≤ t.2.sramAt) || decide (t.2.sramAt + k ≤ at_))
/-- Where a team's bytes begin in a core's SRAM: the lowest room, which keys its words and is seen in nothing else. DESIGN CHOICE: where the claims' sum fits but no room of
its size is left, the bytes begin at 0, and words of two teams are then keyed alike (R103; log entry 9). -/
def State.sramRun (s : State) (c n : Nat) : Nat := 128 * (leastFrom (fun i => s.sramClear c (128 * i) n) 0 (Config.sramBytes / 128)).getD 0
/-- Team t is placed on core c; none where it does not fit. What its launch happens after is seen from there (R187; log entry 5). -/
def State.placeTeam (s : State) (t c : Nat) : Option State :=
  let o := (s.kernelOf t).owner
  let d := s.descOf t
  if !((s.coreUse none c).add d.claim).ok || (s.owner o).contexts < s.contextsUsed o + d.max then none
  else
    (s.poolRun o d.frames).map (fun r =>
      let die := (findIdx (fun x => x == dieOfCore c) (diesOf (s.owner o).dies) 0).getD 0
      let at_ := s.sramRun c d.claim.sram
      let s := ((s.dropCopies (dieOfCore c)).clearMirrors t c).updTeam t (fun x =>
        { x with tstate := .placed, core := c, die := some (x.die.getD die), run := some r, clean := true, avoid := none, sramAt := at_, sram := .zero,
                 forced := false, held := [], atomics := [], released := [], landing := false })
      (List.range d.groups).foldl (fun s gi => s.startGroup t gi) s)
def State.placeTeams (s : State) : List (Nat × Nat) → Option State
  | [] => some s
  | (t, c) :: r =>
    match s.placeTeam t c with
    | none => none
    | some s' => s'.placeTeams r
/-- Cores on which a set may stand (R204, R212): of one cluster of the owner's partition, all different, logical cores 2k and 2k + 1 on one pair, and not the
cluster the set has left. -/
def State.coresOk (s : State) (o : Nat) (avoid : Option Nat) (cores : List Nat) : Bool :=
  let c0 := cores.headD 0
  cores.all (fun c => decide (c < Config.dies * Config.clusters * Config.cores) && clusterOfCore c == clusterOfCore c0) &&
  (diesOf (s.owner o).dies).contains (dieOfCore c0) && cores.eraseDups.length == cores.length && avoid != some (clusterOfCore c0) &&
  (List.range (cores.length / 2)).all (fun i => cores.getD (2 * i) 0 / 2 == cores.getD (2 * i + 1) 0 / 2)
/-- The teams of a kernel's set j that wait, by index. -/
def State.waitingSet (s : State) (k j : Nat) : List (Nat × Team) :=
  (s.teamsOf k).filter (fun t => t.2.tstate == .waiting && t.2.idx / (s.kernel k).d.span == j)
/-- The sets of a kernel with waiting teams, ascending. -/
def State.waitingSets (s : State) (k : Nat) : List Nat :=
  (((s.teamsOf k).filter (fun t => t.2.tstate == .waiting)).map (fun t => t.2.idx / (s.kernel k).d.span)).eraseDups
/-- The sets that are placed next, together: every set of a cooperative kernel of which none is placed, else the first that waits (R204, R208). -/
def State.nextSets (s : State) (k : Nat) : List Nat :=
  let w := s.waitingSets k
  if (s.kernel k).lrec.flags % 2 = 1 && (s.teamsOf k).all (fun t => t.2.tstate == .waiting) then w else w.take 1
/-- The cores of a cluster for n teams, where each may stand: pairs on core pairs, a last odd one on any core. -/
def pickCores (ok : Nat → Bool) (base : Nat) : Nat → List Nat → Option (List Nat)
  | 0, _ => some []
  | 1, used => ((List.range 8).find? (fun c => !used.contains c && ok (base + c))).map (fun c => [base + c])
  | n + 2, used =>
    match [0, 2, 4, 6].find? (fun c => !used.contains c && !used.contains (c + 1) && ok (base + c) && ok (base + c + 1)) with
    | none => none
    | some c => (pickCores ok base n (used ++ [c, c + 1])).map (fun r => (base + c) :: (base + c + 1) :: r)
/-- The first cluster of a list on which n teams of a claim find room. -/
def pickSet (use : Nat → Claim) (need : Claim) (n : Nat) : List Nat → Option (List Nat)
  | [] => none
  | cl :: r =>
    match pickCores (fun c => ((use c).add need).ok) (cl * Config.cores) n [] with
    | some cs => some cs
    | none => pickSet use need n r
/-- Claims with one more on some cores. -/
def moreUse (use : Nat → Claim) (need : Claim) (cs : List Nat) : Nat → Claim := fun c => if cs.contains c then (use c).add need else use c
/-- The clusters of a die. -/
def clustersOf (d : Nat) : List Nat := (List.range Config.clusters).map (d * Config.clusters + ·)
/-- The kernels that a kernel depends on and that have not retired, through chains (R207). -/
def State.producers (s : State) (k : Nat) : Nat → List Nat
  | 0 => []
  | fuel + 1 =>
    let x := s.kernel k
    let ps := (s.kernels.filter (fun p => p.1 != k && p.2.owner == x.owner && p.2.live && x.lrec.used.contains p.2.lrec.completion)).map (fun p => p.1)
    (ps ++ (ps.map (fun p => s.producers p fuel)).flatten).eraseDups
/-- The lists of n different elements of a list. -/
def arrangements : Nat → List Nat → List (List Nat)
  | 0, _ => [[]]
  | n + 1, xs => (xs.map (fun x => (arrangements n (xs.filter (fun y => y != x))).map (fun r => x :: r))).flatten
/-- The cores of a cluster. -/
def coresOf (cl : Nat) : List Nat := (List.range Config.cores).map (cl * Config.cores + ·)
/-- Every state in which the waiting set j of kernel k stands somewhere on die d. -/
def State.settings (s : State) (d k j : Nat) : List State :=
  let ts := s.waitingSet k j
  (((clustersOf d).map (fun cl => arrangements ts.length (coresOf cl))).flatten).filterMap (fun cs =>
    if s.coresOk (s.kernel k).owner ((ts.head?.map (fun t => t.2.avoid)).getD none) cs then s.placeTeams ((ts.map (fun t => t.1)).zip cs) else none)
/-- The most teams of some waiting sets, each named by kernel and set, that die d can hold at once beside what it holds. -/
def State.most (d : Nat) : List (Nat × Nat) → State → Nat
  | [], _ => 0
  | (k, j) :: r, s => ((s.settings d k j).map (fun s' => (s.waitingSet k j).length + State.most d r s')).foldl max (State.most d r s)
/-- The reservation of some kernels on die d (R207): how many of their waiting teams it could hold. -/
def State.reservation (s : State) (d : Nat) (ps : List Nat) : Nat :=
  State.most d ((ps.map (fun p => (s.waitingSets p).map (fun j => (p, j)))).flatten) s
/-- The state with no team of a kernel. -/
def State.withoutKernel (s : State) (k : Nat) : State := { s with teams := s.teams.filter (fun t => t.2.kernel != k) }
/-- R207: what kernel k holds, after a placement or a resumption, leaves room on a die for the reservation of each of its producers, and of all of them. -/
def State.leavesRoom (after : State) (k d : Nat) : Bool :=
  let ps := after.producers k after.kernels.length
  (ps.map (fun p => [p]) ++ [ps]).all (fun l => decide ((after.withoutKernel k).reservation d l ≤ after.reservation d l))
/-- R207 on every die of an owner: its contexts and its save pool serve them all. -/
def State.leavesAll (after : State) (o k : Nat) : Bool := (diesOf (after.owner o).dies).all (fun d => after.leavesRoom k d)
/-- The cores named for some sets, one after the other: each set with its teams and its cores; none where the number of cores is another. -/
def State.splitCores (s : State) (k : Nat) : List Nat → List Nat → Option (List (List (Nat × Team) × List Nat))
  | [], [] => some []
  | [], _ :: _ => none
  | j :: r, cores =>
    let ts := s.waitingSet k j
    if cores.length < ts.length then none
    else (s.splitCores k r (cores.drop ts.length)).map (fun x => (ts, cores.take ts.length) :: x)
/-- A physical core, as counted from the first core of a cluster. -/
def coreFrom (die clus n : Nat) : Nat := ((die * Config.clusters + clus) * Config.cores + n) % (Config.dies * Config.clusters * Config.cores)
/-- The placement of the next sets of kernel k on these physical cores; none where a rule forbids it. -/
def State.placeNext (s : State) (k : Nat) (cores : List Nat) : Option State :=
  let o := (s.kernel k).owner
  match s.splitCores k (s.nextSets k) cores with
  | none => none
  | some sets =>
    if sets.isEmpty || !sets.all (fun x => s.coresOk o ((x.1.head?.map (fun t => t.2.avoid)).getD none) x.2) then none
    else
      match s.placeTeams ((sets.map (fun x => (x.1.map (fun t => t.1)).zip x.2)).flatten) with
      | none => none
      | some s' => if s'.leavesAll o k then some s' else none
/-- PLACE_TEAM_SET: the placer's choice for the next set of a kernel, cores counted from the first core of a cluster; for a cooperative kernel the cores of all its
sets, set after set. -/
def execPlaceTeamSet (k die clus : Nat) (cores : List Nat) (s : State) : Host.Outcome State Fault Refusal :=
  let x := s.kernel k
  if x.kstate = .running && (s.owner x.owner).ostate = .running then
    match s.placeNext k (cores.map (coreFrom die clus)) with
    | some s' => .next s'
    | none => .fault .notEnabled
  else .fault .notEnabled

/-! ## commit, spawn, gexit, texit, cwait, launch (R178, R179, R213 to R215) -/
/-- commit (R214). -/
def execCommit (s : State) : Host.Outcome State Fault Refusal :=
  scalarOp .commit (do
    needUser
    needLanes
    upd (fun s => s.commit s.g.team)) s
/-- spawn (R178). -/
def execSpawn (d a b : Nat) (s : State) : Host.Outcome State Fault Refusal :=
  scalarOp (.spawn d a b) (do
    needUser
    let v ← useReg a
    need (v.toNat % 4 == 0) (.trap 12 0)
    needLanes
    upd (fun s =>
      let x := s.g
      let live := (s.groupsOf x.team).map (fun g => (s.group g).idx)
      if (s.descOf x.team).max ≤ live.length then s.setSr (x.sr.put d (-1) false)
      else
        let gi := (leastFrom (fun n => !live.contains n) 0 (s.descOf x.team).max).getD 0
        let r := (List.range 8).foldl (fun (r : SRegs) i => r.put (i + 1) (x.sr.get (b + i)) (x.sr.bad (b + i))) SRegs.zero
        let g : Group :=
          { Group.init with
            team := x.team, idx := gi, ctx := s.freeCtx (s.team x.team).core, gstate := .ready, sr := r, pc := v, utrap := x.utrap, fpen := x.fpen,
            tok := s.nextId + 1, wake := s.steps, privAt := s.privAt x.team gi, cls := x.cls }
        { s with groups := tabPut s.groups s.nextId g, nextId := s.nextId + 2 }.setSr (x.sr.put d (BitVec.ofNat 64 gi) false))) s
/-- The mirror pushes of a team's groups have landed (R425): the release of a team's exit waits for them. -/
def needPushes : M Unit := fun s =>
  if s.pushes.any (fun p => p.groups.any (fun g => (s.group g).team == s.g.team && (s.groupsOf s.g.team).contains g)) then .error .wait s else .ok () s
/-- gexit (R179): the last live group of a team acts as texit. -/
def execGexit (s : State) : Host.Outcome State Fault Refusal :=
  scalarJump .gexit (do
    needUser
    needLanes
    let s ← get
    if (s.groupsOf s.g.team).length ≤ 1 then
      needPushes
      upd (fun s => s.exitTeam s.g.team)
    else upd (fun s => s.freeGroup s.cur)) s
/-- texit (R214): waits in place while another group of the team is at level H or H2. -/
def execTexit (s : State) : Host.Outcome State Fault Refusal :=
  scalarJump .texit (do
    needUser
    needLanes
    let s ← get
    need ((s.groupsOf s.g.team).all (fun g => g == s.cur || (s.group g).level == 0)) .wait
    needPushes
    upd (fun s => s.exitTeam s.g.team)) s
/-- cwait (R214): waits in place until every child of the team has retired. -/
def execCwait (s : State) : Host.Outcome State Fault Refusal :=
  scalarOp .cwait (do
    needUser
    needLanes
    let s ← get
    need (!s.liveChild s.g.team) .wait
    acquire .sys) s
/-- launch (R215): the record is refused at once, or captured as a live child. A child has no queue position: the one its completion word carries is a free
value (log entry 2). -/
def execLaunch (a : Nat) (s : State) : Host.Outcome State Fault Refusal :=
  scalarOp (.launch a) (do
    needUser
    let s ← get
    need (s.g.idx == 0) (.trap 14 0)
    need (decide ((s.kernelOf s.g.team).depth < 10)) (.trap 9 0)
    let v ← useReg a
    need (v.toNat % 64 == 0) (.trap 12 0)
    let (l, _) ← place .gl v 0 64 typesDevice
    needLanes
    let ws ← descWords 1 l 16
    release .dev
    let s ← get
    let o := s.ownerOf s.cur
    let die := s.dieOf s.cur
    need (decide (s.waiting o die < 64)) .wait
    let r := parseLaunch ((List.range 8).map (dwordAt ws))
    let (w0, s) := s.freeWord
    let (w1, s) := s.freeWord
    let pos := (w0.toNat + 2 ^ 32 * w1.toNat) % 2 ^ 48
    let (dep, s) := if r.fails = 0 then s.readDeps o r.used else ({ fault := none, open_ := false, wrong := false, poison := false }, s)
    set s
    let det := if r.fails = 0 then dep.detail else r.fails
    if r.completion.toNat % 8 ≠ 0 then pure ()
    else if det ≠ 0 then
      release .sys
      upd (fun s => (s.recordWord o r.completion pos 3 det).2)
    else
      upd (fun s =>
        let p := s.kernelOf s.g.team
        s.addKernel { owner := o, kstate := .captured, lrec := r, pos := pos, queue := none, parent := some s.g.team, depth := p.depth + 1,
                      cls := p.cls, die := die, desc := none })) s

end Sys2Proof.Machine
end

