-- ==== Sys2Proof/Machine/Registers.lean ====
section
/-! DEFINITION. The control registers: what each reads as, which level may read and write it, and what a write does (R113, R117, R122 to R125, R140, R291,
R329, R330, R400 to R410). -/
namespace Sys2Proof.Machine

/-! ## The conditions of R117 -/
/-- n bytes from a lie inside the reserve window, which R116 gives 1,024 frames of addresses (log entry 54). -/
def inWindow (a n : Nat) : Bool := decide (reserveBase ≤ a) && decide (a + n ≤ reserveBase + 1024 * frameBytes)
/-- A handler's entry: 4-byte aligned and inside the window (R117). -/
def vectorOk (v : DWord) : Bool := v.toNat % 4 == 0 && inWindow v.toNat 4
/-- Condition k of R117. A fault-record queue over bytes 0x0000 to 0x11FF of frame 0 breaks condition 1. -/
def Owner.meets (x : Owner) (k : Nat) : Bool :=
  let base := x.fqbase.toNat
  let cap := x.fqcap.toNat
  let first := fld x.spool 0 32
  let count := fld x.spool 32 32
  let f0 := (base - reserveBase) / frameBytes
  let f1 := (base + 512 * cap - 1 - reserveBase) / frameBytes
  match k with
  | 1 => !(decide (reserveBase ≤ base) && decide (base < reserveBase + 0x1200) && decide (0 < cap))
  | 2 => vectorOk x.hvec && vectorOk x.pvec && vectorOk x.rvec
  | 3 => base % 512 == 0 && decide (2 ≤ cap) && decide (cap ≤ 65536) && inWindow base (512 * cap)
  | 4 => decide (1 ≤ first) && decide (first + count ≤ x.reserve) && (count == 0 || decide (f1 < first) || decide (first + count ≤ f0))
  | 5 => decide (1024 ≤ x.pbud.toNat) && decide (x.pbud.toNat ≤ 65536)
  | _ => x.wline == 0 || (x.wline.toNat % 8 == 0 && decide (x.wline.toNat < 2 ^ 56) && !inReserve x.wline.toNat)
/-- The number of the first failed condition of R117, 0 where all hold. -/
def Owner.recordFails (x : Owner) : Nat := ([1, 2, 3, 4, 5, 6].find? (fun k => !x.meets k)).getD 0

/-! ## Levels (R122, R405) -/
/-- The lowest level that may read register n: 0 U, 1 H, 3 S. -/
def ctlRead (n : Nat) : Nat := if n < 0x100 then 0 else if n < 0x200 then 1 else 3
/-- The lowest level that may write it; none where no level may. -/
def ctlWrite (n : Nat) : Option Nat :=
  if n = 0x010 || n = 0x015 || n = 0x016 || (decide (0x018 ≤ n) && decide (n ≤ 0x01E)) then some 0
  else if (decide (0x100 ≤ n) && decide (n ≤ 0x103)) || n = 0x10B || n = 0x10D || (decide (0x10F ≤ n) && decide (n ≤ 0x112)) then some 1
  else if (decide (0x200 ≤ n) && decide (n ≤ 0x212)) || n = 0x218 || (decide (0x220 ≤ n) && decide (n ≤ 0x22F)) || n = 0x241 then some 3
  else none
/-- The registers whose access waits for the enqueued lane blocks (R140): c.fpen, the flag masks, c.tmask and c.tctl. -/
def ctlWaits (n : Nat) : Bool := n == 0x013 || n == 0x016 || (decide (0x018 ≤ n) && decide (n ≤ 0x01E))

/-! ## Reads -/
/-- A port register (R406); cmd reads as zero. -/
def Port.reg (p : Port) : DWord := BitVec.ofNat 64 (p.retries % 65536 * 2 ^ 32 + p.discards % 65536 * 2 ^ 16 + p.st)
/-- c.spstat of a die (R407). -/
def Die.spstat (d : Die) : DWord := BitVec.ofNat 64 (d.beats % 2 ^ 32 * 2 ^ 32 + d.leader % 4 * 256 + d.role)
/-- The level S registers of the acting group's die (R405, R410). -/
def Die.read (d : Die) (n : Nat) : DWord :=
  let v (k : Nat) : DWord := BitVec.ofNat 64 k
  if n < 0x210 then tabGet 0 d.sev (n - 0x200)
  else if n = 0x210 then d.elbase else if n = 0x211 then d.elcap else if n = 0x212 then d.elhead else if n = 0x213 then d.eltail
  else if n = 0x218 then d.trlim
  else if n < 0x230 then (tabGet Port.down d.ports (n - 0x220)).reg
  else if n = 0x240 then d.spstat else if n = 0x241 then d.svec
  else if n = 0x280 then v d.pcfg else if n = 0x281 then d.pcmd else if n = 0x282 then v d.pstat else if n = 0x283 then v d.mint
  else if n = 0x284 then v d.nbnd else if n = 0x285 then v d.plim else if n = 0x286 then v d.qto else if n = 0x287 then v d.elect
  else if n = 0x288 then v d.pcap
  else if n = 0x300 || n = 0x30F || decide (0x320 ≤ n) then 0
  else tabGet 0 d.cnt (n - 0x300)
/-- The value of a control register for the acting group (R122). -/
def State.readCtl (s : State) (n : Nat) : DWord :=
  let x := s.g
  let t := s.team x.team
  let o := s.owner (s.ownerOf s.cur)
  let v (k : Nat) : DWord := BitVec.ofNat 64 k
  if 0x200 ≤ n then (s.die (s.dieOf s.cur)).read n
  else if n = 0x000 then v (s.ownerOf s.cur) else if n = 0x001 then v (s.lcoreOf x.team) else if n = 0x002 then v (s.setOf x.team)
  else if n = 0x003 then v (t.die.getD 0) else if n = 0x004 then v t.idx else if n = 0x005 then v x.idx
  else if n = 0x006 then v (s.kernelOf x.team).depth else if n = 0x007 then s.cycle
  else if n = 0x010 then x.utrap else if n = 0x011 then x.tr.tcause else if n = 0x012 then x.tr.tpc else if n = 0x013 then x.tr.tmask
  else if n = 0x014 then x.tr.tinfo else if n = 0x015 then x.tr.tspc else if n = 0x016 then x.tr.tctl
  else if n = 0x018 then x.fpen
  else if n ≤ 0x01E then (tabGet 0 x.sticky (n - 0x019)).zeroExtend 64
  else if n = 0x100 then o.hvec else if n = 0x101 then o.pvec else if n = 0x102 then o.rvec else if n = 0x103 then o.pbud
  else if n = 0x104 then v (x.pleft - s.cycle.toNat) else if n = 0x108 then x.fmask.zeroExtend 64 else if n = 0x109 then x.dmask.zeroExtend 64
  else if n = 0x10A then x.frec else if n = 0x10B then x.hcause else if n = 0x10C then x.sframe else if n = 0x10D then o.wline
  else if n = 0x10E then o.ostat else if n = 0x10F then o.spool else if n = 0x110 then o.fqbase else if n = 0x111 then o.fqcap
  else if n = 0x112 then o.fqhead else o.fqtail

/-! ## Writes -/
/-- The trains and downs of a port (R303, R406). -/
def Port.train (p : Port) : Port := if p.st = 0 || p.st = 3 || p.st = 4 then { p with st := 1, failing := 0, trained := 0 } else p
def Port.toDown (p : Port) : Port := { p with st := 0, failing := 0 }
/-- The group's own registers (R122, R140, R329, R330); none for a value out of range. -/
def Group.writeCtl (x : Group) (n : Nat) (v : DWord) : Option Group :=
  if n = 0x010 then (if v.toNat % 4 = 0 then some { x with utrap := v } else none)
  else if n = 0x015 then some { x with tr := { x.tr with tspc := v } }
  else if n = 0x016 then some { x with tr := { x.tr with tctl := (x.tr.tctl &&& 2) ||| (v &&& 1) } }
  else if n = 0x018 then some { x with fpen := v &&& 0x3F }
  else if n = 0x10B then some { x with hcause := (x.hcause &&& ~~~0x10000) ||| (v &&& 0x10000) }
  else some { x with sticky := tabPut x.sticky (n - 0x019) (tabGet 0 x.sticky (n - 0x019) &&& ~~~(v.truncate 32)) }
/-- A value inside the range that R117 and R291 state for its field: c.spool names frames from 1 to one below the owner's reserve. -/
def fieldOk (x : Owner) (n : Nat) (v : DWord) : Bool :=
  match n with
  | 0x100 | 0x101 | 0x102 => vectorOk v
  | 0x103 => decide (1024 ≤ v.toNat) && decide (v.toNat ≤ 65536)
  | 0x10D => { Owner.init with wline := v }.meets 6
  | 0x10F => decide (1 ≤ fld v 0 32) && decide (fld v 0 32 + fld v 32 32 ≤ x.reserve)
  | 0x110 => v.toNat % 512 == 0 && inWindow v.toNat 0
  | 0x111 => decide (2 ≤ v.toNat) && decide (v.toNat ≤ 65536)
  | _ => true
/-- A register of the owner with a value: the reserved bits of c.fqcap are ignored (R12, R291). -/
def Owner.withReg (x : Owner) (n : Nat) (v : DWord) : Owner :=
  match n with
  | 0x100 => { x with hvec := v } | 0x101 => { x with pvec := v } | 0x102 => { x with rvec := v } | 0x103 => { x with pbud := v }
  | 0x10D => { x with wline := v } | 0x10F => { x with spool := v } | 0x110 => { x with fqbase := v } | _ => { x with fqcap := v &&& 0x1FFFF }
/-- The owner's registers (R117, R140, R291); none for a value outside its field's range, or one that breaks a condition of R117 that held. -/
def Owner.writeCtl (x : Owner) (n : Nat) (v : DWord) : Option Owner :=
  if n = 0x112 then (if x.fqhead.ule v && v.ule x.fqtail then some { x with fqhead := v } else none)
  else if (n = 0x110 || n = 0x111) && x.fqtail != x.fqhead then none
  else if !fieldOk x n (if n = 0x111 then v &&& 0x1FFFF else v) then none
  else if [1, 2, 3, 4, 5, 6].any (fun k => x.meets k && !(x.withReg n v).meets k) then none
  else some (x.withReg n v)
/-- A severity register takes no action 5 to 7, and registers 0 and 15 nothing but zero (R400). -/
def sevOk (k : Nat) (v : DWord) : Bool :=
  (List.range 16).all (fun i => decide (fld v (4 * i) 3 ≤ 4)) && ((k != 0 && k != 15) || v == 0)
/-- The level S registers (R400, R402, R403, R405, R406); none for a value out of range. -/
def Die.writeCtl (d : Die) (n : Nat) (v : DWord) : Option Die :=
  if n < 0x210 then (if sevOk (n - 0x200) v then some { d with sev := tabPut d.sev (n - 0x200) v } else none)
  else if n = 0x210 then (if v.toNat % 4096 = 0 then some { d with elbase := v } else none)
  else if n = 0x211 then
    (if (List.range 13).any (fun i => v.toNat == 16 * 2 ^ i) then some { d with elcap := v } else none)
  else if n = 0x212 then some { d with elhead := v }
  else if n = 0x218 then some { d with trlim := v &&& 0xFFFFFFFF }
  else if n = 0x241 then (if v.toNat % 4 = 0 then some { d with svec := v } else none)
  else
    let p := tabGet Port.down d.ports (n - 0x220)
    let q := match fld v 8 4 with | 1 => p.train | 2 => p.toDown | _ => p
    some { d with ports := tabPut d.ports (n - 0x220) q }
/-- Every die of a partition holds the same severities (R400): a write reaches them all. -/
def State.writeDies (s : State) (d n : Nat) (v : DWord) : Option State :=
  match (s.die d).writeCtl n v with
  | none => none
  | some y =>
    if n < 0x210 then some ((diesOf (s.die d).pcfg).foldl (fun s k => s.updDie k (fun z => (z.writeCtl n v).getD z)) (s.setDie d y))
    else some (s.setDie d y)
/-- A write of a control register by the acting group; none for a value that takes trap 14. The owner's registers are written
into its record as well (R140). Level S runs for no owner (log entry 7). -/
def State.writeCtl (s : State) (n : Nat) (v : DWord) : Option State :=
  if 0x200 ≤ n then s.writeDies (s.dieOf s.cur) n v
  else if n < 0x100 || n = 0x10B then (s.g.writeCtl n v).map (fun x => s.setGroup s.cur x)
  else if s.g.level = 3 then none
  else ((s.owner (s.ownerOf s.cur)).writeCtl n v).map (fun x => s.setOwnerRec (s.ownerOf s.cur) x)

end Sys2Proof.Machine
end

