-- ==== Sys2Proof/Machine/Fabric.lean ====
section
/-! DEFINITION. The fabric: remote loads, stores and atomics, their replies, requests that come in, and the ports (R302 to R314, R406). -/
namespace Sys2Proof.Machine

/-! ## rld, rst, ramo (R313, R314) -/
/-- The lowest of a group's 16 reply slots whose reply is in. -/
def Group.freeReply (x : Group) : Option Nat :=
  leastFrom (fun n => !x.replies.any (fun r => r.slot == n && r.got.isNone)) 0 Config.replySlots
/-- The checks all three begin with: the address, and the frame and offset behind its window; or trap 3, 12, 13 or a fault. -/
def windowPlace (a : Nat) (k : DWord) (wd : MWidth) (kind : Nat) : M (Nat × Nat × Nat) := do
  needOwner
  let base ← useReg a
  let ea := base + k
  need (ea.toNat % widthBytes wd == 0) (.trap 12 0)
  let (l, _) ← place .gl ea kind (widthBytes wd) typesWindow
  match l with
  | .window f o => pure (ea.toNat, f, o)
  | .dev _ => trap 13 | .host _ _ => trap 13 | .regs _ _ => trap 13 | .sram _ _ => trap 13 | .priv _ _ _ => trap 13 | .chip _ _ => trap 13 | .closed _ _ => trap 13
/-- A request of the acting group's scalar unit; its tag names the context and the reply slot (R305). -/
def State.groupReq (s : State) (kind va frame off : Nat) (wd : MWidth) (slot : Nat) : OutReq :=
  { unit := unitCore (s.team s.g.team).core, port := none, flits := if kind = 2 then 4 else 3, sends := if kind = 0 then 1 else 2, agent := s.cur, group := s.cur, team := s.g.team, owner := s.ownerOf s.cur, tok := s.g.tok, kind := kind, frame := frame, off := off,
    width := wd, aop := .add, vpage := (s.pageOf (s.caches s.cur) (s.ownerOf s.cur) va).1, vlen := (s.pageOf (s.caches s.cur) (s.ownerOf s.cur) va).2, copy := none, msg := none, words := [], b := 0, c := 0, poison := false, tag := s.g.ctx % 64 * 1024 + slot * 64,
    retry := false }
/-- A request with a reply leaves: its slot is held and its register is pending. -/
def sendPending (d slot : Nat) (wd : MWidth) (r : OutReq) : M Unit :=
  upd (fun s =>
    let reply : Reply := { slot := slot, reg := d, width := wd, tok := s.g.tok, req := s.nextId, got := none }
    (s.updG (fun x => { x with replies := x.replies ++ [reply] })).send r)
/-- rld (R314). -/
def execRld (wd : MWidth) (d a : Nat) (k : Word) (s : State) : Host.Outcome State Fault Refusal :=
  scalarOp (.rld wd d a k) (do
    let (va, f, o) ← windowPlace a (sx k) wd 0
    match (← get).g.freeReply with
    | none => throw .wait
    | some z => sendPending d z wd ((← get).groupReq 0 va f o wd z)) s
/-- rst (R314): words with their codes; a narrow store carries the bytes (R309). -/
def execRst (wd : MWidth) (d a : Nat) (k : Word) (s : State) : Host.Outcome State Fault Refusal :=
  scalarOp (.rst wd d a k) (do
    let (va, f, o) ← windowPlace a (sx k) wd 1
    let t ← get
    let v := t.g.sr.get d
    let p := t.g.sr.bad d
    let w0 : Word := v.truncate 32
    let w1 : Word := (v >>> 32).truncate 32
    let ws : List (Word × Byte) := match wd with
      | .d => [(w0, codeFor w0 p o), (w1, codeFor w1 p (o + 4))]
      | .w => [(w0, codeFor w0 p o)]
      | .b | .h => [((zextW wd v).truncate 32, 0)]
    upd (fun t => ((t.updG (fun x => { x with acks := x.acks + 1 })).soil t.g.team).send
      { t.groupReq 1 va f o wd 0 with words := ws, poison := p })) s
/-- ramo (R314): the team is no longer clean (R212). -/
def execRamo (op : AOp) (wd : MWidth) (d a b c : Nat) (k : BitVec 20) (s : State) : Host.Outcome State Fault Refusal :=
  scalarOp (.ramo op wd d a b c k) (do
    let (va, f, o) ← windowPlace a (sx k) wd 2
    match (← get).g.freeReply with
    | none => throw .wait
    | some z => do
      let t ← get
      let r := t.g.sr
      upd (fun t => t.soil t.g.team)
      sendPending d z wd
        { t.groupReq 2 va f o wd z with aop := op, b := r.get b, c := r.get c, poison := r.bad b || (isCas op && r.bad c) }) s

/-! ## Replies (R135, R309, R314) -/
/-- A reply value reaches its register: at once where the registers of the level that asked are the group's own; else it waits, and for a saved or interrupted
level it is written to its slot of the completion area (R135). -/
def State.deliverReply (s : State) (g id : Nat) (v : DWord) (p : Bool) : State :=
  let x := s.group g
  match x.replies.find? (fun y => y.req == id) with
  | none => s
  | some y =>
    let rest := x.replies.filter (fun z => z.req != id)
    if x.gstate != .saved && x.liveTok y.tok then
      s.setGroup g { x with replies := rest, sr := x.sr.put y.reg v p }
    else
      let o := s.ownerOf g
      let va := s.frameVa g 0
      let known := x.tok == y.tok || [x.uAside, x.hAside, x.h2Aside].any (fun a => match a with | some b => b.tok == y.tok | none => false)
      let s := s.putReserve64 o (va + 0xC318) (s.getReserve64 o (va + 0xC318) ||| BitVec.ofNat 64 (2 ^ y.slot))
      let s := s.putReserveWords o (va + 0xC320 + 8 * y.slot) (splitWord v p)
      s.setGroup g { x with replies := if known then rest ++ [{ y with got := some (v, p) }] else rest }
/-- Word k of a reply from an offset, and whether its code is neither the valid one nor poison. -/
def replyWord (off : Nat) (ws : List (Word × Byte)) (k : Nat) : Word × Byte := ws.getD k (0, checkCode 0 (off + 4 * k))
def replyWrong (off : Nat) (ws : List (Word × Byte)) (k : Nat) : Bool :=
  !codeOk (replyWord off ws k).1 (replyWord off ws k).2 (off + 4 * k) && !codePoison (replyWord off ws k).1 (replyWord off ws k).2 (off + 4 * k)
/-- The words of a reply as the scalar unit checks them, each for itself (R106, R108): the value, its poison, and the classes of their events. first holds the words
of the request that this one retries; none where a wrong code is to be retried. -/
def checkWords (first : Option (List (Word × Byte))) (off : Nat) (ws : List (Word × Byte)) : Option (DWord × Bool × List Nat) :=
  let ks := if 1 < ws.length then [0, 1] else [0]
  match first with
  | none =>
    if ks.any (replyWrong off ws) then none
    else some (value ks ws ws)
  | some old => some (value ks old ws)
where
  /-- Word k as it is consumed: the second reading where the first was wrong. -/
  one (old ws : List (Word × Byte)) (k : Nat) : Word × Bool × Nat :=
    let again := replyWrong off old k
    let (w, c) := if again then replyWord off ws k else replyWord off old k
    if codeOk w c (off + 4 * k) then (w, false, if again then 1 else 0)
    else if codePoison w c (off + 4 * k) then (w, true, 3) else (w, true, 2)
  value (ks : List Nat) (old ws : List (Word × Byte)) : DWord × Bool × List Nat :=
    let rs := ks.map (one old ws)
    let v : DWord := ((rs[1]?).map (fun r => r.1)).getD 0 ++ ((rs[0]?).map (fun r => r.1)).getD 0
    (v, rs.any (fun r => r.2.1), (rs.map (fun r => r.2.2)).filter (fun e => e != 0))
/-- A value of a width at the byte of its word, zero extended. -/
def widthValue (wd : MWidth) (off : Nat) (v : DWord) : DWord :=
  match wd with
  | .b => bytesOf (v.truncate 32) (off % 4) 1
  | .h => bytesOf (v.truncate 32) (off % 4) 2
  | .w => (v.truncate 32).zeroExtend 64
  | .d => v
/-- The event of a reply belongs to its group's own consumption where the group still runs. -/
def State.replyEvent (s : State) (r : OutReq) (cls : Nat) : State :=
  if (s.group r.group).gstate = .free then s.reportFor cls 1 r.owner 0 0 (unitDie r.unit)
  else { { s with cur := r.group }.report cls 1 0 with cur := s.cur }
/-- Events of a reply, in the order of its words. -/
def State.replyEvents (s : State) (r : OutReq) (es : List Nat) : State := es.foldl (fun s e => s.replyEvent r e) s
/-- A request is answered, and what waited for its answer leaves (R310). -/
def State.answered (s : State) (id : Nat) : State := { s with fabricOut := tabDel s.fabricOut id }.departs
/-- A reply at its port: discarded for reserved bits, or the answer to a request of a kind. -/
def answer (m : FabricMsg) (kind : Nat) (s : State) (act : Nat → OutReq → Host.Outcome State Fault Refusal) : Host.Outcome State Fault Refusal :=
  if m.reserved ≠ 0 then (if s.portOpen m.port then .next (s.discard m.port).flush else .fault .notEnabled)
  else
    match s.request m kind with
    | none => .fault .notEnabled
    | some (id, r) => act id r
/-- READ_REPLY: to a copy's chunk, or to the register of an rld; a wrong code is retried once with one further read request of the pair (R309), which pays as the
first did (R312). -/
def execReadReply (m : FabricMsg) (s : State) : Host.Outcome State Fault Refusal :=
  answer m 0 s (fun id r =>
    match r.copy with
    | some (c, k) => .next ((s.answered id).copyAnswer c k m.status (some (m.words.getD 0 (0, checkCode 0 r.off)))).flush
    | none =>
      if m.status ≠ 0 then .next (((s.answered id).replyEvent r 7).deliverReply r.group id 0 true).flush
      else
        match checkWords (if r.retry then some r.words else none) (r.off / 4 * 4) m.words with
        | none => .next ({ s with fabricOut := tabPut s.fabricOut id { r with retry := true, words := m.words, port := none } }.depart id).flush
        | some (v, p, es) => .next (((s.answered id).replyEvents r es).deliverReply r.group id (widthValue r.width r.off v) p).flush)
/-- A kernel that waited for the acknowledgement of a team's write to retire does so (R202). -/
def State.settleOf (s : State) (team : Nat) : State :=
  if s.teams.any (fun t => t.1 == team) then s.settleKernel (s.team team).kernel 12 else s
/-- WRITE_ACKNOWLEDGEMENT: to a copy, or counted for its group's releases (R202, R256, R311). -/
def execWriteAcknowledgement (m : FabricMsg) (s : State) : Host.Outcome State Fault Refusal :=
  answer m 1 s (fun id r =>
    let t := s.answered id
    match r.copy with
    | some (c, k) => .next (t.copyAnswer c k m.status none).flush
    | none =>
      let t := if (t.group r.group).gstate = .free then t else t.updGroup r.group (fun x => { x with acks := x.acks - 1 })
      .next ((if m.status ≠ 0 then t.replyEvent r 7 else t).settleOf r.team).flush)
/-- ATOMIC_REPLY: the old value, checked at the scalar unit (R314). There is no second request for it: a wrong code is a check failure. -/
def execAtomicReply (m : FabricMsg) (s : State) : Host.Outcome State Fault Refusal :=
  answer m 2 s (fun id r =>
    if m.status ≠ 0 then .next (((s.answered id).replyEvent r 7).deliverReply r.group id 0 true).flush
    else
      match checkWords (some m.words) (r.off / 4 * 4) m.words with
      | none => .fault .notEnabled
      | some (v, p, es) => .next (((s.answered id).replyEvents r es).deliverReply r.group id (widthValue r.width r.off v) p).flush)

/-! ## Flits (R304, R305) -/
/-- A header flit of operations 0 to 5: the operation and the destination device beside the message's own fields; links number it where bits [255:240] stand. The operands of an
atomic are one data flit (R312). -/
def headerFlit (op dest : Nat) (m : FabricMsg) : Nat :=
  let width := match m.width with | .b => 0 | .h => 1 | .w => 2 | .d => 3
  let aop := match m.aop with | .add => 0 | .min => 1 | .max => 2 | .and => 3 | .or => 4 | .xor => 5 | .exch => 6 | .cas => 7
  op % 256 * 2 ^ 232 + dest % 1024 * 2 ^ 222 + m.source % 1024 * 2 ^ 212 + m.owner % 256 * 2 ^ 204 + m.index % 2 ^ 22 * 2 ^ 182 + m.offset % 65536 * 2 ^ 166 +
  width * 2 ^ 164 + aop * 2 ^ 161 + (if op = 2 then 1 else (m.words.length + 5) / 6) * 2 ^ 153 + m.tag % 65536 * 2 ^ 137 + m.status % 512 * 2 ^ 128 + m.unit % 4096 * 2 ^ 116
/-- A header flit of a collective contribution (6) or result (7): the element index of its one word, and the descriptor's bytes 0x00 to 0x03, root and count beside the
sequence. -/
def collFlit (op dest source : Nat) (m : CollMsg) : Nat :=
  let b (i : Nat) : Nat := (m.header.getD i 0).toNat
  let le (i n : Nat) : Nat := ((List.range n).map (fun j => b (i + j) * 256 ^ j)).sum
  op % 256 * 2 ^ 232 + dest % 1024 * 2 ^ 222 + source % 1024 * 2 ^ 212 + m.owner % 256 * 2 ^ 204 + m.element % 2 ^ 38 * 2 ^ 166 + 2 * 2 ^ 164 + 2 ^ 153 +
  m.status % 512 * 2 ^ 128 + le 0 4 * 2 ^ 96 + le 4 2 * 2 ^ 80 + le 8 4 * 2 ^ 48 + m.sequence % 2 ^ 48
/-- A data flit: up to six words, with word j in bits [32j+79:32j+48] and its code in bits [8j+7:8j]. -/
def dataFlit (ws : List (Word × Byte)) : Nat :=
  (ws.zipIdx.map (fun e => e.1.1.toNat * 2 ^ (32 * e.2 + 48) + e.1.2.toNat * 2 ^ (8 * e.2))).sum
/-- A flit on the link: its kind (0 idle, 1 header, 2 data, 3 link control) and its sequence number over the 240 bits of its layout (R304). -/
def linkFlit (kind seq flit : Nat) : Nat := kind * 2 ^ 254 + seq % 2 ^ 14 * 2 ^ 240 + flit % 2 ^ 240
/-- The flits of a message: its header and, with six words to each, its data. -/
def msgFlits (m : FabricMsg) : Nat := 1 + (m.words.length + 5) / 6

/-! ## Requests that come in (R307, R309, R310) -/
/-- The answer to a request carries its source, unit and tag. -/
def msgAnswer (m : FabricMsg) (status : Nat) (ws : List (Word × Byte)) : FabricMsg :=
  { m with status := status, words := ws, opB := 0, opC := 0, poisonBC := false }
def State.reply (s : State) (m : FabricMsg) : State := { s with outbox := s.outbox ++ [m] }.sendFlits m.port (msgFlits m)
/-- The checks of R307 in their order for an access of kind 0, 1 or 2: the exporter's place, or the status of the failed check. -/
def State.exported (s : State) (m : FabricMsg) (kind : Nat) : Except Nat (Nat × Loc) :=
  let e := tabGet 0 s.exports m.index
  if !(e.getLsbD 63 && fld e 52 8 == m.owner && fld e 42 10 == m.source) then .error 1
  else
    let ok := match kind with
      | 0 => e.getLsbD 62
      | 1 => e.getLsbD 61
      | _ => fld e 60 3 == 7
    if !ok then .error 3
    else
      match s.ownerLoc (fld e 34 8) (fld e 0 26) m.offset with
      | some (l, ty) => if ty ≤ 1 then .ok (fld e 34 8, l) else .error 2
      | none => .error 2
/-- A request as the receiving port takes it: discarded for reserved bits, refused with a status, or performed. -/
def incoming (m : FabricMsg) (kind : Nat) (s : State) (perform : Nat → Loc → State) : Host.Outcome State Fault Refusal :=
  if !s.portOpen m.port then .fault .notEnabled
  else if m.reserved ≠ 0 then .next (s.discard m.port).flush
  else
    match s.exported m kind with
    | .error st => .next (s.reply (msgAnswer m st []))
    | .ok (o, l) => .next (perform o l).flush
/-- FABRIC_READ: each word with its stored code (R309). -/
def execFabricRead (m : FabricMsg) (s : State) : Host.Outcome State Fault Refusal :=
  incoming m 0 s (fun _ l =>
    let l := l.word
    let ws := match m.width with
      | .d => [s.readLoc l, s.readLoc (l.plus 4)]
      | .b | .h | .w => [s.readLoc l]
    s.reply (msgAnswer m 0 ws))
/-- A word at its home as the home atomic unit consumes it for an exporter (R106). -/
def State.homeRead (s : State) (o : Nat) (l : Loc) : (Word × Bool) × State :=
  let (w, c) := s.readLoc l
  let (v, p, e) := consume w c l.off
  ((v, p), if e = 0 then s else s.reportFor e 4 o l.ma 0 (homeDie l.ma))
/-- The whole words of a write, at most those of 22 data flits (R305), land one after the other in the export's frame, each where its line stands (R285). -/
def State.landWrite (s : State) (m : FabricMsg) (k : Nat) : List (Word × Byte) → State
  | [] => s
  | (w, c) :: r =>
    let s := match s.exported { m with offset := m.offset + 4 * k } 1 with
      | .ok (_, l) => if m.offset + 4 * k < 65536 && k < 132 then s.homeWrite l w c else s
      | .error _ => s
    s.landWrite m (k + 1) r
/-- FABRIC_WRITE: whole words land with the codes they carry; bytes are merged into the old word (R109, R309). -/
def execFabricWrite (m : FabricMsg) (s : State) : Host.Outcome State Fault Refusal :=
  incoming m 1 s (fun o l =>
    let w := m.words.getD 0 (0, 0)
    let narrow (n : Nat) : State :=
      let ((old, bad), s') := s.homeRead o l.word
      let x := mergeBytes old l.byte n w.1.toNat
      s'.homeWrite l.word x (codeFor x (bad || m.poisonBC) l.word.off)
    let s' := match m.width with
      | .b => narrow 1
      | .h => narrow 2
      | .w | .d => s.landWrite m 0 m.words
    s'.reply (msgAnswer m 0 []))
/-- An atomic of an agent outside every team at a home: teams that hold atomics on the line commit first (R259); the old words with their codes. -/
def State.outerAtomic (s : State) (o : Nat) (l : Loc) (op : AOp) (wd : MWidth) (b c : DWord) (bad : Bool) : List (Word × Byte) × State :=
  let s := match l with
    | .dev ma => s.commitAll ((s.teams.filter (fun (x : Nat × Team) => x.2.atomics.contains (ma / 512))).map (fun (x : Nat × Team) => x.1))
    | .host _ _ => s | .window _ _ => s | .regs _ _ => s | .sram _ _ => s | .priv _ _ _ => s | .chip _ _ => s | .closed _ _ => s
  let ((w0, p0), s) := s.homeRead o l
  match wd with
  | .d =>
    let ((w1, p1), s) := s.homeRead o (l.plus 4)
    let v : DWord := w1 ++ w0
    let p := p0 || p1
    let x := if p || bad then v else atomicVal64 op wd v b c
    let y0 : Word := x.truncate 32
    let y1 : Word := (x >>> 32).truncate 32
    ([(w0, codeFor w0 p l.off), (w1, codeFor w1 p (l.off + 4))],
     (s.homeWrite l y0 (codeFor y0 (p || bad) l.off)).homeWrite (l.plus 4) y1 (codeFor y1 (p || bad) (l.off + 4)))
  | .b | .h | .w =>
    let x : Word := if p0 || bad then w0 else (atomicVal64 op wd (w0.zeroExtend 64) b c).truncate 32
    ([(w0, codeFor w0 p0 l.off)], s.homeWrite l x (codeFor x (p0 || bad) l.off))
/-- FABRIC_ATOMIC: one atomic operation at the home (R314). -/
def execFabricAtomic (m : FabricMsg) (s : State) : Host.Outcome State Fault Refusal :=
  incoming m 2 s (fun o l =>
    let (ws, s') := s.outerAtomic o l m.aop m.width m.opB m.opC m.poisonBC
    s'.reply (msgAnswer m 0 ws))

/-! ## Ports (R303, R304, R406) -/
/-- A port of a die changes. -/
def State.updPort (s : State) (die n : Nat) (f : Port → Port) : State :=
  s.updDie die (fun x => { x with ports := tabPut x.ports n (f (tabGet Port.down x.ports n)) })
/-- A port of a die as it stands. -/
def State.port (s : State) (die n : Nat) : Port := tabGet Port.down (s.die die).ports n
/-- A step of a port in one of the states given, of a die that boot has started (R415). -/
def portStep (die n : Nat) (from_ : Port → Bool) (s : State) (t : State) : Host.Outcome State Fault Refusal :=
  if decide (die < 4) && decide (n < 16) && (s.die die).started && from_ (s.port die n) then .next t.flush else .fault .notEnabled
/-- PORT_TRAIN: from DOWN, DEGRADED or FAILED to TRAINING; the command changes no port in another state, as a write of c.port does not (R406). -/
def execPortTrain (die n : Nat) (s : State) : Host.Outcome State Fault Refusal :=
  portStep die n (fun _ => s.led) s (s.updPort die n Port.train)
/-- PORT_DOWN: level S takes the port down. -/
def execPortDown (die n : Nat) (s : State) : Host.Outcome State Fault Refusal :=
  portStep die n (fun _ => s.led) s (s.updPort die n Port.toDown)
/-- BOTH_LANES_LOCK: TRAINING to UP. -/
def execBothLanesLock (die n : Nat) (s : State) : Host.Outcome State Fault Refusal :=
  portStep die n (fun p => p.st == 1) s (s.updPort die n (fun p => { p with st := 2 })).departs
/-- ONE_LANE_LOCKS: TRAINING to DEGRADED. -/
def execOneLaneLocks (die n : Nat) (s : State) : Host.Outcome State Fault Refusal :=
  portStep die n (fun p => p.st == 1) s (s.updPort die n (fun p => { p with st := 3 })).departs
/-- PORT_TRAINING_TIMEOUT: TRAINING to DOWN after 100 ms, which are over when the 101st window since has begun, with the event "port training failed". -/
def execPortTrainingTimeout (die n : Nat) (s : State) : Host.Outcome State Fault Refusal :=
  portStep die n (fun p => p.st == 1 && decide (100 < p.trained)) s ((s.updPort die n Port.toDown).reportFor 9 10 0 0 (16 * die + n) die)
/-- LANE_LOST: UP to DEGRADED. -/
def execLaneLost (die n : Nat) (s : State) : Host.Outcome State Fault Refusal :=
  portStep die n (fun p => p.st == 2) s (s.updPort die n (fun p => { p with st := 3 }))
/-- FLIT_GROUP_RETRY: a flit group has failed its CRC and is sent again from its sequence number (R304). The 16th failure in a row is FABRIC_PATH_LOST. -/
def execFlitGroupRetry (die n : Nat) (s : State) : Host.Outcome State Fault Refusal :=
  portStep die n (fun p => (p.st == 2 || p.st == 3) && decide (p.failing < 15)) s
    (s.updPort die n (fun p => { p with retries := (p.retries + 1) % 65536, failing := p.failing + 1 }))
/-- A flit group that was sent again has come through: the port's failures are no longer in a row. -/
def resentTurn (s : State) (die n : Nat) : Host.Outcome State Fault Refusal :=
  portStep die n (fun p => p.st == 2 || p.st == 3) s (s.updPort die n (fun p => { p with failing := 0 }))
/-- The pairs routed through a port that has failed follow another open one, where there is one; the accesses that had left by it are lost with it (R303, R310). A collective's
have no answers: whatever it had sent by the port counts as lost. -/
def State.losePort (s : State) (port : Nat) : State :=
  let new := leastFrom s.portOpen 0 64
  { s with
    routes := s.routes.filterMap (fun e => if e.2 = port then new.map (fun n => (e.1, n)) else some e)
    colls := s.colls.map (fun c => (c.1, if s.routes.any (fun e => e.2 == port && e.1.1 == 2 && e.1.2.1 == c.1) then { c.2 with lost := true } else c.2))
    fabricOut := s.fabricOut.map (fun e => (e.1, if e.2.port = some port then { e.2 with port := some (64 + port) } else e.2)) }
/-- FABRIC_PATH_LOST: the 16th failed retry in a row: the port is FAILED, with the event "fabric path lost". -/
def execFabricPathLost (die n : Nat) (s : State) : Host.Outcome State Fault Refusal :=
  portStep die n (fun p => (p.st == 2 || p.st == 3) && p.failing == 15) s
    (((s.updPort die n (fun p => { p with st := 4, retries := (p.retries + 1) % 65536, failing := 0 })).losePort (16 * die + n)).departs.reportFor 10 10 0 0
      (16 * die + n) die)

end Sys2Proof.Machine
end

