-- ==== Sys2Proof/Machine/Num.lean ====
section
/-! DEFINITION. Numbers: the formats as exact dyadic values, the one rounding that every result takes, F32 arithmetic, conversions and the course formats
(R77 to R97, R331 to R341). -/
namespace Sys2Proof.Machine.Num

/-! ## Exact values (R14) -/
/-- A dyadic number m * 2^e. -/
structure Dy where
  m : Int
  e : Int
  deriving DecidableEq, Repr
def Dy.zero : Dy := { m := 0, e := 0 }
/-- m at a lower exponent. -/
def Dy.at (x : Dy) (e : Int) : Int := x.m * 2 ^ (x.e - e).toNat
def Dy.add (x y : Dy) : Dy :=
  let e := if x.e ≤ y.e then x.e else y.e
  { m := x.at e + y.at e, e := e }
def Dy.mul (x y : Dy) : Dy := { m := x.m * y.m, e := x.e + y.e }
def Dy.neg (x : Dy) : Dy := { x with m := -x.m }
def Dy.sum (l : List Dy) : Dy := l.foldl Dy.add Dy.zero
/-- x < y. -/
def Dy.lt (x y : Dy) : Bool := decide ((x.add y.neg).m < 0)

/-- A floating value: NaN (quiet or signalling), infinity, or a finite number whose zero keeps its sign. -/
inductive Val where
  | nan (signalling : Bool)
  | inf (neg : Bool)
  | fin (neg : Bool) (m : Nat) (e : Int)
  deriving DecidableEq, Repr
/-- The exact value of a finite number. -/
def Val.dy : Val → Dy
  | .fin s m e => { m := if s then -(m : Int) else m, e := e }
  | .nan _ => Dy.zero
  | .inf _ => Dy.zero
def Val.isNan : Val → Bool
  | .nan _ => true | .inf _ => false | .fin _ _ _ => false
def Val.isSig : Val → Bool
  | .nan s => s | .inf _ => false | .fin _ _ _ => false
/-- A finite zero. -/
def Val.isZero : Val → Bool
  | .fin _ m _ => m == 0 | .nan _ => false | .inf _ => false
def Val.isInf : Val → Bool
  | .inf _ => true | .nan _ => false | .fin _ _ _ => false
def Val.neg : Val → Bool
  | .fin s _ _ => s | .inf s => s | .nan _ => false
/-- The value with the other sign. -/
def Val.flip : Val → Val
  | .fin s m e => .fin (!s) m e | .inf s => .inf (!s) | .nan s => .nan s

/-- The value of a sign, exponent and mantissa code in which every exponent is ordinary (R77, R82): mb mantissa bits, eb exponent bits. -/
def codeVal (eb mb bias code : Nat) : Val :=
  let s := code / 2 ^ (eb + mb) % 2 == 1
  let E := code / 2 ^ mb % 2 ^ eb
  let M := code % 2 ^ mb
  if E = 0 then .fin s M (1 - (bias : Int) - mb) else .fin s (2 ^ mb + M) ((E : Int) - bias - mb)
/-- The value of an F32 pattern (R77, R81). -/
def f32 (w : Word) : Val :=
  let n := w.toNat
  if n / 2 ^ 23 % 256 = 255 then
    (if n % 2 ^ 23 = 0 then .inf (n / 2 ^ 31 == 1) else .nan (n / 2 ^ 22 % 2 == 0))
  else codeVal 8 23 127 n
/-- The default NaN (R81). -/
def dnan : Word := 0x7FC00000
/-- A signed zero and a signed infinity. -/
def zeroF (neg : Bool) : Word := if neg then 0x80000000 else 0
def infF (neg : Bool) : Word := if neg then 0xFF800000 else 0x7F800000
def maxF (neg : Bool) : Word := if neg then 0xFF7FFFFF else 0x7F7FFFFF

/-! ## The rounding -/
/-- Whether a rounding goes up in magnitude, from the sign, the parity of the kept part, how the rest compares with half a unit
(0 below, 1 half, 2 above), and whether there is any rest. -/
abbrev Up := Bool → Bool → Nat → Bool → Bool
/-- The modes of R15 and R69. -/
def upOf (r : Rnd) : Up := fun neg odd half rest =>
  match r with
  | .rne => half == 2 || (half == 1 && odd)
  | .rtz => false
  | .rup => !neg && rest
  | .rdn => neg && rest
/-- A rounding to one fixed neighbour (R338). -/
def upFixed (u : Bool) : Up := fun _ _ _ rest => u && rest
/-- A magnitude as n units of 2^q, and whether it is inexact. -/
structure Units where
  n : Nat
  q : Int
  inexact : Bool
  deriving DecidableEq, Repr
/-- The magnitude m * 2^e, with a rest below one unit of 2^e where more holds, rounded to mb + 1 significant bits but to no finer unit than 2^qmin. -/
def roundMag (up : Up) (mb : Nat) (qmin : Option Int) (neg : Bool) (m : Nat) (e : Int) (more : Bool) : Units :=
  let top : Int := (Nat.log2 m : Int) + e - mb
  let q := if m = 0 then (match qmin with | some x => x | none => e)
    else (match qmin with | some x => if top ≤ x then x else top | none => top)
  if q ≤ e then { n := m * 2 ^ (e - q).toNat, q := q, inexact := more }
  else
    let d := 2 ^ (q - e).toNat
    let n := m / d
    let r := m % d
    let half := if 2 * r < d then 0 else if 2 * r = d && !more then 1 else 2
    let rest := r != 0 || more
    { n := if up neg (n % 2 == 1) half rest then n + 1 else n, q := q, inexact := rest }
/-- The code of a rounded magnitude in a format with mb mantissa bits whose finest unit is 2^qmin: subnormals, normals and the carry into the next
binade in one formula. It is not bounded above. -/
def Units.code (u : Units) (mb : Nat) (qmin : Int) : Nat :=
  if u.n = 0 then 0 else (u.q - qmin).toNat * 2 ^ mb + u.n
/-- A result and the flags it raises. -/
abbrev Res := Word × Nat
/-- A nonzero exact magnitude delivered as F32 (R331, R334): overflow, underflow after rounding, inexact. toInf says that an overflow gives infinity. -/
def deliver (up : Up) (toInf : Bool) (neg : Bool) (m : Nat) (e : Int) (more : Bool) : Res :=
  let u := roundMag up 23 (some (-149)) neg m e more
  let c := u.code 23 (-149)
  if 255 * 2 ^ 23 ≤ c then (if toInf then infF neg else maxF neg, fOf + fNx)
  else
    let f := roundMag up 23 none neg m e more
    let tiny := f.n != 0 && decide ((Nat.log2 f.n : Int) + f.q < -126)
    (BitVec.ofNat 32 ((if neg then 2 ^ 31 else 0) + c), if u.inexact then fNx + (if tiny then fUf else 0) else 0)
/-- An overflow under a mode gives infinity (R81): to nearest, and toward that infinity. -/
def toInf (r : Rnd) (neg : Bool) : Bool :=
  match r with | .rne => true | .rtz => false | .rup => !neg | .rdn => neg
/-- An exact value rounded to F32; a zero takes the sign given. -/
def roundDy (r : Rnd) (zeroNeg : Bool) (x : Dy) : Res :=
  if x.m = 0 then (zeroF zeroNeg, 0) else deliver (upOf r) (toInf r (decide (x.m < 0))) (decide (x.m < 0)) x.m.natAbs x.e false

/-! ## F32 arithmetic (R334 to R337) -/
/-- The sum of two values rounded once: infinities, and the sign of an exact zero, follow IEEE 754. -/
def addV (r : Rnd) (x y : Val) : Res :=
  if x.isNan || y.isNan then (dnan, 0)
  else if x.isInf && y.isInf then (if x.neg == y.neg then (infF x.neg, 0) else (dnan, fInv))
  else if x.isInf then (infF x.neg, 0)
  else if y.isInf then (infF y.neg, 0)
  else roundDy r (if x.isZero && y.isZero && x.neg == y.neg then x.neg else r == .rdn) (x.dy.add y.dy)
/-- An instruction on values: any signalling NaN raises invalid (R331), and any NaN gives the default NaN. -/
def onNan (l : List Val) (x : Res) : Res :=
  let sig := if l.any Val.isSig then fInv else 0
  if l.any Val.isNan then (dnan, sig ||| (x.2 &&& fInv)) else x
def fadd (r : Rnd) (a b : Word) : Res := onNan [f32 a, f32 b] (addV r (f32 a) (f32 b))
def fsub (r : Rnd) (a b : Word) : Res := onNan [f32 a, f32 b] (addV r (f32 a) (f32 b).flip)
/-- The product as an exact value; none for 0 times infinity. -/
def mulV (x y : Val) : Option Val :=
  match x, y with
  | .fin s m e, .fin t n f => some (.fin (s != t) (m * n) (e + f))
  | .fin s m _, .inf t => if m = 0 then none else some (.inf (s != t))
  | .inf s, .fin t n _ => if n = 0 then none else some (.inf (s != t))
  | .inf s, .inf t => some (.inf (s != t))
  | .nan s, _ => some (.nan s)
  | _, .nan s => some (.nan s)
def fmul (r : Rnd) (a b : Word) : Res :=
  onNan [f32 a, f32 b] (match mulV (f32 a) (f32 b) with
    | none => (dnan, fInv)
    | some (.fin s m e) => if m = 0 then (zeroF s, 0) else roundDy r s (Val.fin s m e).dy
    | some (.inf s) => (infF s, 0)
    | some (.nan _) => (dnan, 0))
/-- a * b + c with one rounding: 0 times infinity is invalid whatever c holds. -/
def ffma (r : Rnd) (a b c : Word) : Res :=
  match mulV (f32 a) (f32 b) with
  | none => (dnan, fInv)
  | some p => onNan [f32 a, f32 b, f32 c] (addV r p (f32 c))
/-- The order of min and max: -0 below +0. -/
def below (x y : Val) : Bool :=
  match x, y with
  | .inf s, .inf t => s && !t
  | .inf s, .fin _ _ _ => s
  | .fin _ _ _, .inf t => !t
  | .fin s m e, .fin t n f => if m = 0 && n = 0 then s && !t else Dy.lt (Val.fin s m e).dy (Val.fin t n f).dy
  | .nan _, _ => false
  | _, .nan _ => false
/-- vfmin and vfmax (R335). -/
def fminmax (max : Bool) (a b : Word) : Res :=
  let x := f32 a
  let y := f32 b
  let fl := if x.isSig || y.isSig then fInv else 0
  if x.isNan && y.isNan then (dnan, fl)
  else if x.isNan then (b, fl)
  else if y.isNan then (a, fl)
  else (if below y x != max then b else a, fl)
/-- vfcmp (R336): the truth and the flags. -/
def fcmp (cc : FCond) (a b : Word) : Bool × Nat :=
  let x := f32 a
  let y := f32 b
  let nan := x.isNan || y.isNan
  let lt := below x y && !(x.isZero && y.isZero)
  let gt := below y x && !(x.isZero && y.isZero)
  let eq := !nan && !lt && !gt
  let sig := if x.isSig || y.isSig then fInv else 0
  let ord := if nan then fInv else 0
  match cc with
  | .eq => (eq, sig) | .ne => (!eq, sig)
  | .lt => (lt, ord) | .le => (lt || eq, ord) | .gt => (gt, ord) | .ge => (gt || eq, ord)
  | .un => (nan, sig) | .ord => (!nan, sig)

/-- The integer square root of n below 2^(2b). -/
def isqrt (n : Nat) : Nat → Nat → Nat
  | 0, r => r
  | b + 1, r => isqrt n b (if (r + 2 ^ b) * (r + 2 ^ b) ≤ n then r + 2 ^ b else r)
/-- vfrcp (R337). -/
def frcp (a : Word) : Res :=
  match f32 a with
  | .nan s => (dnan, if s then fInv else 0)
  | .inf s => (zeroF s, 0)
  | .fin s m e =>
    if m = 0 then (infF s, fDz)
    else deliver (upOf .rne) true s (2 ^ 64 / m) (-64 - e) (2 ^ 64 % m != 0)
/-- An exponent made even. -/
def evenExp (m : Nat) (e : Int) : Nat × Int := if e % 2 = 0 then (m, e) else (2 * m, e - 1)
/-- vfrsq (R337). -/
def frsq (a : Word) : Res :=
  match f32 a with
  | .nan s => (dnan, if s then fInv else 0)
  | .inf s => if s then (dnan, fInv) else (zeroF false, 0)
  | .fin s m e =>
    if m = 0 then (infF s, fDz)
    else if s then (dnan, fInv)
    else
      let (m, e) := evenExp m e
      let r := isqrt (2 ^ 128 / m) 65 0
      deliver (upOf .rne) true false r (-64 - e / 2) (r * r * m != 2 ^ 128)
/-- vfsqrt (R337). -/
def fsqrt (r : Rnd) (a : Word) : Res :=
  match f32 a with
  | .nan s => (dnan, if s then fInv else 0)
  | .inf s => if s then (dnan, fInv) else (infF false, 0)
  | .fin s m e =>
    if m = 0 then (zeroF s, 0)
    else if s then (dnan, fInv)
    else
      let (m, e) := evenExp m e
      let x := isqrt (m * 2 ^ 64) 46 0
      deliver (upOf r) (toInf r false) false x (e / 2 - 32) (x * x != m * 2 ^ 64)

/-! ## The functions of R338

Each is computed in fixed point with 448 bits below the point, from below, with an error far under the distance of any F32
neighbour; the neighbour itself is the opaque choice of log entry 10. -/
/-- The bits below the point. -/
def P : Nat := 448
/-- One in fixed point. -/
def one : Nat := 2 ^ P
/-- Sums of x, -x z / (2k+1) ...: alternating odd series in fixed point, for the arc tangent of 1/n: term t, next divisor k. -/
def atanInv (n : Nat) : Nat → Nat → Nat → Nat
  | 0, _, _ => 0
  | f + 1, t, k => t / k - atanInv n f (t / (n * n)) (k + 2)
/-- The sum of t / k for the series of the inverse hyperbolic tangent with ratio z / one. -/
def atanhSum (z : Nat) : Nat → Nat → Nat → Nat
  | 0, _, _ => 0
  | f + 1, t, k => t / k + atanhSum z f (t * z / one) (k + 2)
/-- Pi by Machin's formula. -/
def pi : Nat := 16 * atanInv 5 220 (one / 5) 1 - 4 * atanInv 239 80 (one / 239) 1
/-- ln 2 = 2 artanh (1/3). -/
def ln2 : Nat := 2 * atanhSum (one / 9) 160 (one / 3) 1
/-- The exponential series 1 + y + y^2/2 + ...: t is the current term. -/
def expSum (y : Nat) : Nat → Nat → Nat → Nat
  | 0, _, _ => 0
  | f + 1, t, k => t + expSum y f (t * y / one / k) (k + 1)
/-- An alternating series t - t y / (k(k+1)) + ... for sine (t = x, k = 2) and cosine (t = 1, k = 1), y the square. -/
def trigSum (y : Nat) : Nat → Nat → Nat → Nat
  | 0, _, _ => 0
  | f + 1, t, k => t - trigSum y f (t * y / one / (k * (k + 1))) (k + 2)
def sinFix (x : Nat) : Nat := trigSum (x * x / one) 100 x 2
def cosFix (x : Nat) : Nat := trigSum (x * x / one) 100 one 1
/-- A choice of neighbour. -/
def pick (op : Nat) (a : Word) : Up := upFixed (Config.transcendentalUp op a)
/-- A finite value as a whole part (floor) and a fraction in fixed point. Its exponent is at least -149 - 23. -/
def parts (x : Dy) : Int × Nat :=
  if 0 ≤ x.e then (x.m * 2 ^ x.e.toNat, 0)
  else
    let d : Int := 2 ^ (-x.e).toNat
    (x.m / d, (x.m % d).toNat * 2 ^ (P - (-x.e).toNat))
/-- vfex2 (R338): the power of an integer is exact from -149 on, and below it one of two neighbours as everywhere else. -/
def fex2 (a : Word) : Res :=
  match f32 a with
  | .nan s => (dnan, if s then fInv else 0)
  | .inf s => if s then (zeroF false, 0) else (infF false, 0)
  | .fin s m e =>
    let x := (Val.fin s m e).dy
    if m = 0 then (0x3F800000, 0)
    else if !s && !(x.lt { m := 128, e := 0 }) then (infF false, fOf + fNx)
    else if x.lt { m := -200, e := 0 } then deliver (pick 0 a) true false 1 (-400) true
    else
      let (n, f) := parts x
      if f = 0 then deliver (pick 0 a) true false 1 n false
      else deliver (pick 0 a) true false (expSum (f * ln2 / one) 120 one 1) (n - P) true
/-- vflg2 (R338). -/
def flg2 (a : Word) : Res :=
  match f32 a with
  | .nan s => (dnan, if s then fInv else 0)
  | .inf s => if s then (dnan, fInv) else (infF false, 0)
  | .fin s m e =>
    if m = 0 then (infF true, fDz)
    else if s then (dnan, fInv)
    else
      let k := Nat.log2 m
      let n : Int := k + e
      if m = 2 ^ k then roundDy .rne false { m := n, e := 0 }
      else
        -- the fraction of the logarithm of 1 <= m / 2^k < 2
        let z := (m - 2 ^ k) * one / (m + 2 ^ k)
        let f := 2 * atanhSum (z * z / one) 160 z 1 * one / ln2
        let v : Int := n * one + f
        deliver (pick 1 a) true (decide (v < 0)) v.natAbs (-(P : Int)) true
/-- sin(pi t) for t in [0, 1/2] in fixed point. -/
def sinHalf (t : Nat) : Nat := if 4 * t ≤ one then sinFix (pi * t / one) else cosFix (pi * (one / 2 - t) / one)
/-- sin(pi r) for r in [0, 2) in fixed point: its sign and its magnitude. -/
def sinTurn (r : Nat) : Bool × Nat :=
  let t := r % one
  (decide (one ≤ r), sinHalf (if 2 * t ≤ one then t else one - t))
/-- vfsin and vfcos (R338): the argument in half-turns. -/
def fsincos (cos : Bool) (a : Word) : Res :=
  match f32 a with
  | .nan s => (dnan, if s then fInv else 0)
  | .inf _ => (dnan, fInv)
  | .fin s m e =>
    let (n, f) := parts (Val.fin s m e).dy
    let even := n % 2 == 0
    if f = 0 then (if cos then (if even then 0x3F800000 else 0xBF800000) else zeroF s, 0)
    else if 2 * f = one then (if cos then zeroF false else if even then 0x3F800000 else 0xBF800000, 0)
    else
      let r := (if even then 0 else one) + f
      let (neg, v) := sinTurn (if cos then (r + one / 2) % (2 * one) else r)
      deliver (pick (if cos then 3 else 2) a) true neg v (-(P : Int)) true

/-! ## Narrow formats (R77, R89 to R92) -/
/-- Exponent bits, mantissa bits and bias of the narrow floating formats. -/
def floatShape : Fmt → Option (Nat × Nat × Nat)
  | .e4m3 => some (4, 3, 7) | .e5m2 => some (5, 2, 15) | .e2m1 => some (2, 1, 1)
  | .f32 => none | .i32 => none | .n32 => none | .i8 => none | .n8 => none | .i4 => none | .e8s => none | .ne4 => none | .ne5 => none
/-- Bits of an element of a format. -/
def elemBits : Fmt → Nat
  | .e2m1 => 4 | .i4 => 4 | .f32 => 32 | .i32 => 32 | .n32 => 32
  | .e4m3 => 8 | .e5m2 => 8 | .i8 => 8 | .n8 => 8 | .e8s => 8 | .ne4 => 16 | .ne5 => 16
/-- Element j of a packed word (R80). -/
def elem (f : Fmt) (w : Word) (j : Nat) : Nat := w.toNat / 2 ^ (elemBits f * j) % 2 ^ elemBits f
/-- A signed integer as a value. -/
def intVal (i : Int) : Val := .fin (decide (i < 0)) i.natAbs 0
/-- The exact value of an element's code (R77). -/
def elemVal (f : Fmt) (c : Nat) : Val :=
  match f with
  | .e4m3 => codeVal 4 3 7 c | .e5m2 => codeVal 5 2 15 c | .e2m1 => codeVal 2 1 1 c
  | .i8 => intVal (toSigned 8 c) | .n8 => intVal c | .i4 => intVal (toSigned 4 c)
  | .i32 => intVal (toSigned 32 c) | .n32 => intVal c
  | .e8s => .fin false 1 ((c : Int) - 127)
  | .f32 => f32 (BitVec.ofNat 32 c)
  | .ne4 => codeVal 4 11 7 c | .ne5 => codeVal 5 10 15 c
/-- The range of an integer format. -/
def intRange : Fmt → Int × Int
  | .i32 => (-(2 ^ 31), 2 ^ 31 - 1) | .n32 => (0, 2 ^ 32 - 1) | .i8 => (-128, 127) | .n8 => (0, 255) | .i4 => (-8, 7)
  | .f32 => (0, 0) | .e4m3 => (0, 0) | .e5m2 => (0, 0) | .e2m1 => (0, 0) | .e8s => (0, 0) | .ne4 => (0, 0) | .ne5 => (0, 0)
/-- A code, whether the destination is poisoned by the value, and the flags. -/
structure Coded where
  code : Nat
  bad : Bool
  flags : Nat
  deriving DecidableEq, Repr
/-- A finite magnitude in a floating format that saturates (R89, R97): the code with its sign, and whether it was inexact and saturated. -/
def saturating (up : Up) (eb mb bias : Nat) (neg : Bool) (m : Nat) (e : Int) : Nat × Bool × Bool :=
  let qmin : Int := 1 - (bias : Int) - mb
  let u := roundMag up mb (some qmin) neg m e false
  let c := u.code mb qmin
  let top := 2 ^ (eb + mb) - 1
  let sat := decide (top < c)
  ((if neg then 2 ^ (eb + mb) else 0) + (if sat then top else c), u.inexact || sat, sat)
/-- A conversion of F32 into a narrow format or an integer (R89, R90, R92). -/
def toNarrow (f : Fmt) (r : Rnd) (a : Word) : Coded :=
  match f32 a with
  | .nan _ => { code := 0, bad := true, flags := 0 }
  | .inf _ => { code := 0, bad := true, flags := 0 }
  | .fin s m e =>
    match floatShape f with
    | some (eb, mb, bias) =>
      let (c, nx, sat) := saturating (upOf r) eb mb bias s m e
      { code := c, bad := false, flags := (if nx then fNx else 0) + (if sat then fSat else 0) }
    | none =>
      if f = .e8s then
        if m = 0 || s || (Val.fin s m e).dy.lt { m := 1, e := -127 } then { code := 0, bad := false, flags := fSat + fNx }
        else
          let k := Nat.log2 m
          let low : Int := (k : Int) + e
          let exact := m == 2 ^ k
          let up := match r with
            | .rtz => false | .rdn => false | .rup => !exact
            | .rne => decide (3 * 2 ^ k < 2 * m) || (2 * m == 3 * 2 ^ k && (low + 127) % 2 != 0)
          { code := (low + 127 + (if up then 1 else 0)).toNat, bad := false, flags := if exact then 0 else fNx }
      else
        let u := roundMag (upOf r) 400 (some 0) s m e false
        let v : Int := if s then -((u.n * 2 ^ u.q.toNat : Nat) : Int) else ((u.n * 2 ^ u.q.toNat : Nat) : Int)
        let (lo, hi) := intRange f
        let w := if v < lo then lo else if hi < v then hi else v
        { code := (w % 2 ^ elemBits f).toNat, bad := false,
          flags := (if u.inexact || w != v then fNx else 0) + (if w != v then fSat else 0) }
/-- A conversion into F32 (R91, R92, R341): overflow is the one flag of E8S code 255. -/
def fromNarrow (f : Fmt) (r : Rnd) (c : Nat) : Res :=
  if f = .e8s && c = 255 then (if toInf r false then infF false else maxF false, fOf + fNx)
  else match elemVal f c with
    | .fin s m e => if m = 0 then (zeroF s, 0) else let x := roundDy r s (Val.fin s m e).dy; (x.1, x.2 &&& fNx)
    | .inf s => (infF s, 0)
    | .nan _ => (dnan, 0)

end Sys2Proof.Machine.Num
end

