-- ==== Sys2Proof/Machine/Coll.lean ====
section
/-! DEFINITION. Collectives: the descriptor and its checks, contributions, reductions and results, and the timeout (R106, R264, R282, R288, R315 to R319). -/
namespace Sys2Proof.Machine

/-! ## The descriptor (R316, R317) -/
/-- Byte i of descriptor words. -/
def descByte (ws : List Word) (i : Nat) : Nat := (ws.getD (i / 4) 0).toNat / 256 ^ (i % 4) % 256
/-- The elements of a collective of n members: the words of its result space. -/
def Coll.elements (c : Coll) (n : Nat) : Nat := if c.op = 1 || c.op = 2 then n * c.count else c.count
/-- Words of the source and of the destination of the member of rank r. -/
def Coll.sourceWords (c : Coll) (n r : Nat) : Nat :=
  match c.op with | 1 => n * c.count | 3 => if r = c.root then c.count else 0 | _ => c.count
def Coll.destWords (c : Coll) (n r : Nat) : Nat :=
  match c.op with | 2 => n * c.count | 4 => if r = c.root then c.count else 0 | _ => c.count
/-- A collective of the acting group as a descriptor gives it; none where it breaks R316. -/
def State.parseColl (s : State) (ws : List Word) (switched : Bool) : Option (Coll × Comm) :=
  let b (i : Nat) : Nat := descByte ws i
  let d (k : Nat) : DWord := dwordAt ws k
  let root := b 4 + 256 * b 5
  let c : Coll :=
    { owner := s.ownerOf s.cur, team := s.g.team, group := s.cur, tok := s.g.tok, level := s.g.level, die := s.dieOf s.cur, instr := s.g.pc,
      header := (List.range 16).map (fun i => BitVec.ofNat 8 (b i)), op := b 0, red := b 1, fmt := b 2, comm := b 3, root := root, count := (d 1).toNat,
      src := d 2, dst := d 3, completion := d 4, seq := (d 5).toNat % 2 ^ 48, switched := switched, lost := false, got := [], written := [], start := s.window,
      sat := false, failed := false, fault := none, slot := none, chunk := none, waits := none, delivered := false }
  match tabFind (s.owner c.owner).comms c.comm with
  | none => none
  | some m =>
    let n := m.members.length
    let moves := c.op == 2 || c.op == 3
    let fits (base : DWord) (k : Nat) : Bool := decide (base.toNat + 4 * k ≤ 2 ^ 56)
    if c.op ≤ 4 && c.comm < 64 && (if moves then c.red == 0 && c.fmt == 0 else decide (c.red ≤ 2) && decide (c.fmt ≤ 2)) &&
       (if c.op = 3 || c.op = 4 then decide (root < n) else root == 0) && b 6 = 0 && b 7 = 0 && 1 ≤ c.count && c.count ≤ 2 ^ 28 &&
       c.src.toNat % 4 = 0 && c.dst.toNat % 4 = 0 && c.completion.toNat % 8 = 0 && d 6 == 0 && d 7 == 0 &&
       fits c.src (c.sourceWords n m.rank) && fits c.dst (c.destWords n m.rank) then some (c, m)
    else none
/-- An address of the descriptor is device global memory (R316). -/
def collAddress (va : DWord) (kind n : Nat) : M Unit := do
  let (_, ty) ← place .gl va kind n (fun _ => true)
  need (decide (ty ≤ 1)) (.trap 14 0)
/-- coll (R317). Whether a switch context is free on the route is a free value (log entry 2). -/
def execColl (d a : Nat) (s : State) : Host.Outcome State Fault Refusal :=
  scalarOp (.coll d a) (do
    needOwner
    let va ← useReg a
    need (va.toNat % 64 == 0) (.trap 12 0)
    let (l, ty) ← place .gl va 0 64 (fun _ => true)
    need (decide (ty ≤ 1)) (.trap 14 0)
    let ws ← descWords 1 l 16
    let t ← get
    match t.parseColl ws (Config.freeBit t.freeIdx) with
    | none => trap 14
    | some (c, m) => do
      collAddress c.src 0 4
      collAddress c.dst 1 4
      collAddress c.completion 1 8
      release .dev
      upd (fun t =>
        let c := { c with switched := c.switched && m.contexts != 0 }
        ({ t with colls := tabPut t.colls t.nextId c, nextId := t.nextId + 1, freeIdx := t.freeIdx + 1 }.soil c.team).setSr
          (t.g.sr.put d (BitVec.ofNat 64 (c.comm * 2 ^ 56 + c.seq)) false))) s

/-! ## Elements, contributors, places (R316, R318) -/
/-- The members that contribute element e, of n. -/
def Coll.contributors (c : Coll) (n e : Nat) : List Nat :=
  match c.op with | 2 => [e / c.count] | 3 => [c.root] | _ => List.range n
/-- The members that contribute at all. -/
def Coll.contributing (c : Coll) (n : Nat) : List Nat := match c.op with | 3 => [c.root] | _ => List.range n
/-- The word of its source from which the member of rank r contributes element e. -/
def Coll.sourceOf (c : Coll) (r e : Nat) : Option Nat :=
  match c.op with
  | 2 => if e / c.count = r then some (e % c.count) else none
  | 3 => if r = c.root then some e else none
  | _ => some e
/-- The word of its destination that element e is for the member of rank r. -/
def Coll.destOf (c : Coll) (r e : Nat) : Option Nat :=
  match c.op with
  | 1 => if e / c.count = r then some (e % c.count) else none
  | 4 => if r = c.root then some e else none
  | _ => some e
/-- The contribution of a member to an element that is here; a switch's result has the number of members for its member. -/
def Coll.find (c : Coll) (m e : Nat) : Option CollWord := c.got.find? (fun w => w.member == m && w.element == e)
/-- One combination of a reduction (R318): the value, and whether an integer add saturated. -/
def combine (red fmt : Nat) (x y : Word) : Word × Bool :=
  let clamp (lo hi v : Int) : Word × Bool := (BitVec.ofInt 32 (min hi (max lo v)), decide (v < lo) || decide (hi < v))
  match fmt, red with
  | 0, 0 => ((Num.fadd .rne x y).1, false)
  | 0, 1 => ((Num.fminmax false x y).1, false)
  | 0, _ => ((Num.fminmax true x y).1, false)
  | 1, 0 => clamp (-2 ^ 31) (2 ^ 31 - 1) (x.toInt + y.toInt)
  | 1, 1 => (if y.slt x then y else x, false)
  | 1, _ => (if x.slt y then y else x, false)
  | _, 0 => clamp 0 (2 ^ 32 - 1) (x.toNat + y.toNat)
  | _, 1 => (if y.ult x then y else x, false)
  | _, _ => (if x.ult y then y else x, false)
/-- The words that give element e, in the order of their arrival, on the canonical offset; none before all of them are here. At the endpoints nothing is delivered before
every contributing member has been heard from with the same descriptor (R319). -/
def Coll.arrived (c : Coll) (n e : Nat) : Option (List CollWord) :=
  if c.switched then (c.find n e).map (fun w => [w])
  else if (c.contributing n).all (fun m => c.got.any (fun w => w.member == m)) && (c.contributors n e).all (fun m => (c.find m e).isSome) then
    some (c.got.filter (fun w => w.element == e))
  else none
/-- The home atomic units of the destination words reduce it: neither a switch context did, nor is there anything to reduce (R318). -/
def Coll.atHome (c : Coll) : Bool := !c.switched && c.op != 2 && c.op != 3
/-- A contribution as a home atomic unit checks it: its value, whether it is poisoned, and the state with its event (R106, R318). -/
def State.contribution (s : State) (c : Coll) (w : CollWord) : (Word × Bool) × State :=
  let (v, p, e) := consume w.word w.code (4 * w.element % 65536)
  ((v, p), if e = 0 then s else s.reportFor e 4 c.owner 0 0 c.die)
/-- The contributions of an element meet at the home of its destination word, one atomic operation for each in the order of arrival (log entry 1): the first is put
there, and for each other the unit reads the word, checks it and puts the combination (R106, R318). The flag says that an add saturated. -/
def State.reduceAt (s : State) (c : Coll) (l : Loc) (record : Bool) : List CollWord → State × Bool
  | [] => (s, false)
  | w :: r =>
    let ((v, p), s) := s.contribution c w
    r.foldl (fun (a : State × Bool) x =>
      let ((y, q), s) := a.1.contribution c x
      let ((d, dp), s) := s.homeRead c.owner l
      let z := combine c.red c.fmt d y
      (s.enginePut c.die l record z.1 (codeFor z.1 (dp || q) l.off), a.2 || z.2))
      (s.enginePut c.die l record v (codeFor v p l.off), false)

/-! ## Progress (R264, R282, R288, R319) -/
/-- A collective's access faults: it ends with code 4 where its group is gone or its owner stops, else it takes a park slot, and waits for one where none is free. -/
def State.faultColl (s : State) (id : Nat) (c : Coll) (f : FaultInfo) : State :=
  let f := { f with since := some (f.since.getD s.cycle) }
  if (s.group c.group).gstate = .free || !s.served c.owner then (s.count c.die c.owner 26 1).completeColl id 4
  else
    match s.slotFor c.die c.owner c.slot with
    | none => { s with colls := tabPut s.colls id { c with waits := some f } }
    | some p =>
      let s := s.count c.die c.owner 27 (s.cycle - f.since.getD s.cycle).toNat
      { s with
        parks := tabPut s.parks p { owner := c.owner, pages := [] }
        colls := tabPut s.colls id { c with fault := some (f, p), slot := some p, waits := none, delivered := false } }
/-- The collective has a fault that is parked or that waits for a slot. -/
def Coll.parked (c : Coll) : Bool := c.fault.isSome || c.waits.isSome
/-- The elements that are here and not delivered, the one of a chunk that has faulted first. -/
def Coll.ready (c : Coll) (n : Nat) : List Nat :=
  let es := ((c.got.map (fun w => w.element)).eraseDups).filter (fun e => !c.written.contains e && (c.arrived n e).isSome)
  match c.chunk with
  | some (true, e) => if es.contains e then e :: es.filter (fun x => x != e) else es
  | some (false, _) => es
  | none => es
/-- The chunk of one element, of its delivery or of the member's contribution, has completed: the park slot that its fault took is free (R282). -/
def State.endCollChunk (s : State) (id : Nat) (deliver : Bool) (e : Nat) : State :=
  match tabFind s.colls id with
  | none => s
  | some c => if c.chunk = some (deliver, e) then { s with colls := tabPut s.colls id { c with slot := none, chunk := none } }.freeSlots none c.slot else s
/-- One element is delivered to its place: reduced there, or put there re-keyed (R107, R318). None where it has to wait for a budget; a fault parks it, until its own delivery
(R282). -/
def State.deliverElement (s : State) (id n r e : Nat) : Option State :=
  match tabFind s.colls id with
  | none => some s
  | some c =>
    match c.arrived n e with
    | none => none
    | some ws =>
      let note (s : State) (sat : Bool) : State :=
        { s with colls := tabPut s.colls id { c with written := c.written ++ [e], sat := c.sat || sat } }.endCollChunk id true e
      match c.destOf r e with
      | none => some (note s false)
      | some k =>
        let va := c.dst.toNat + 4 * k
        match s.engineReach [] c.owner c.team c.level .gl va 1 with
        | (.ok l _ _ record, s1) =>
          if c.atHome then some (note (s1.reduceAt c l record ws).1 (s1.reduceAt c l record ws).2)
          else some (ws.foldl (fun s w => note (s.enginePut c.die l record w.word (rekeyCode w.code (4 * e % 65536) l.off)) false) s1)
        | (.fault q x, s1) => some (s1.faultColl id { c with chunk := some (true, e) } (engineFault c.level 6 q 1 x c.instr (BitVec.ofNat 64 va)))
        | (.wait, _) => none
/-- Every element that is ready is delivered; the collective completes with the last one (R319). -/
def State.settleColl (s : State) (id n r : Nat) : List Nat → State
  | [] =>
    match tabFind s.colls id with
    | none => s
    | some c =>
      if c.written.length = c.elements n && !c.parked then s.completeColl id (if c.switched then 1 else 2) else s
  | e :: rest =>
    match tabFind s.colls id with
    | none => s
    | some c =>
      if c.parked then s
      else
        match s.deliverElement id n r e with
        | none => s
        | some s' => s'.settleColl id n r rest
/-- A word joins a collective, and what is ready is delivered. -/
def State.joinColl (s : State) (id n r : Nat) (c : Coll) : State :=
  ({ s with colls := tabPut s.colls id c }).settleColl id n r (c.ready n)

/-! ## COLLECTIVE_CONTRIBUTION, COLLECTIVE_RESULT, COLLECTIVE_TIMEOUT (R318, R319) -/
/-- The collective a message is for, with its communicator. -/
def State.collFor (s : State) (m : CollMsg) : Option (Nat × Coll × Comm) :=
  match s.colls.find? (fun c => c.2.owner == m.owner && c.2.comm == m.comm && c.2.seq == m.sequence) with
  | none => none
  | some (id, c) => (tabFind (s.owner m.owner).comms m.comm).map (fun k => (id, c, k))
/-- The peer refused: code 5, with an event. -/
def State.refuseColl (s : State) (id : Nat) (c : Coll) : State := (s.reportFor 7 8 c.owner 0 0 c.die).completeColl id 5
/-- Where a member's contribution to a collective of other members goes: to the device of each of them that reduces it at the endpoints; in the switches one leaves, towards the
first of them (log entry 41). -/
def Coll.destinations (c : Coll) (r : Nat) (members : List (Nat × Nat)) : List (Nat × Nat) :=
  let others := (members.zipIdx.filter (fun e => e.2 != r)).map (fun e => e.1)
  if c.switched then others.take 1 else others
/-- A contribution as an access of the collective's pair with one of its destinations (R309): its header and its word are two flits. -/
def Coll.access (c : Coll) (id : Nat) (m : CollMsg) (dest : Nat × Nat) : OutReq :=
  { unit := unitColl c.die, port := none, flits := 2, sends := 2, agent := id, group := c.group, team := c.team, owner := c.owner, tok := c.tok, kind := 3, frame := dest.1 * 2 ^ 22,
    off := 0, width := .w, aop := .add, vpage := 0, vlen := 1, copy := none, msg := some { m with owner := dest.2 }, words := [], b := 0, c := 0, poison := false, tag := 0, retry := false }
/-- The member's own contribution of element e: its source word leaves for the other members as it is, on the canonical offset; budgets pay for it (R115). Where it
has none or has made it already, elements that waited are delivered. A chunk that has faulted comes before all others. -/
def State.contribute (s : State) (id n r : Nat) (c : Coll) (members : List (Nat × Nat)) (e : Nat) : Option State :=
  let o := s.owner c.owner
  let go : Option State := if (c.ready n).isEmpty then none else some (s.settleColl id n r (c.ready n))
  match c.sourceOf r e with
  | none => go
  | some k =>
    if (c.find r e).isSome || (c.chunk.map (fun x => x.1)).getD false then go
    else if c.chunk.isSome && c.chunk != some (false, e) then none
    else if o.copyLeft = 0 || o.fabLeft = 0 || c.lost then none
    else
      let va := c.src.toNat + 4 * k
      match s.engineReach [] c.owner c.team c.level .gl va 0 with
      | (.fault q x, s1) => some (s1.faultColl id { c with chunk := some (false, e) } (engineFault c.level 6 q 0 x c.instr (BitVec.ofNat 64 va)))
      | (.wait, s1) => some s1
      | (.ok l _ _ _, s1) =>
        let (w, code) := s1.engineWord c.team l
        let code := rekeyCode code l.off (4 * e % 65536)
        let m : CollMsg :=
          { port := 0, reserved := 0, owner := c.owner, comm := c.comm, sequence := c.seq, member := r, header := c.header, element := e, word := w, code := code, sat := false,
            failed := false, status := 0 }
        let unit := if k % 1024 = 0 then 1 else 0
        let s2 := (s1.updOwner c.owner
          (fun x => { x with copyLeft := x.copyLeft - unit, dry := x.dry || (unit == 1 && x.copyLeft == 1) })).count c.die c.owner 24 unit
        let s3 := (c.destinations r members).foldl (fun s d => s.send (c.access id m d)) s2
        some ((s3.joinColl id n r { c with got := c.got ++ [{ member := r, element := e, word := w, code := code }] }).endCollChunk id false e)
/-- A collective's header with reserved bits is discarded by its port (R305). -/
def State.collDiscard (s : State) (m : CollMsg) : Host.Outcome State Fault Refusal :=
  if s.portOpen m.port then .next (s.discard m.port).flush else .fault .notEnabled
/-- COLLECTIVE_CONTRIBUTION: the member's own, or that of another member to a collective that reduces at the endpoints; descriptors that disagree end it with
code 3. -/
def execCollectiveContribution (m : CollMsg) (s : State) : Host.Outcome State Fault Refusal :=
  if m.reserved ≠ 0 then s.collDiscard m
  else match s.collFor m with
  | none => .fault .notEnabled
  | some (id, c, k) =>
    let n := k.members.length
    if c.parked then .fault .notEnabled
    else if m.member = k.rank then
      match (if m.element < c.elements n then s.contribute id n k.rank c k.members m.element else none) with
      | some s' => .next s'.flush
      | none => .fault .notEnabled
    else if c.lost && m.status == 1 && decide (64 ≤ m.port) then .next (s.refuseColl id c).flush
    else if c.switched || !s.portOpen m.port then .fault .notEnabled
    else if m.status ≠ 0 then .next (s.refuseColl id c).flush
    else if m.header != c.header then .next (s.completeColl id 3).flush
    else if m.element < c.elements n && (c.contributors n m.element).contains m.member && (c.find m.member m.element).isNone then
      .next (s.joinColl id n k.rank { c with got := c.got ++ [{ member := m.member, element := m.element, word := m.word, code := m.code }] }).flush
    else .fault .notEnabled
/-- COLLECTIVE_RESULT: from a switch context, once the member's own contribution to the element is made. -/
def execCollectiveResult (m : CollMsg) (s : State) : Host.Outcome State Fault Refusal :=
  if m.reserved ≠ 0 then s.collDiscard m
  else match s.collFor m with
  | none => .fault .notEnabled
  | some (id, c, k) =>
    let n := k.members.length
    let mine := (c.sourceOf k.rank m.element).isNone || (c.find k.rank m.element).isSome
    if !c.switched || c.parked || !s.portOpen m.port then .fault .notEnabled
    else if m.status ≠ 0 then .next (s.refuseColl id c).flush
    else if m.header != c.header then .next (s.completeColl id 3).flush
    else if m.element < c.elements n && mine && (c.find n m.element).isNone then
      .next (s.joinColl id n k.rank { c with
        got := c.got ++ [{ member := n, element := m.element, word := m.word, code := m.code }], sat := c.sat || m.sat, failed := c.failed || m.failed }).flush
    else .fault .notEnabled
/-- A contribution is missing: an element of a member that contributes has not come, or, from a switch context, an element of the result (R319). -/
def Coll.missing (c : Coll) (n r : Nat) : Bool :=
  (List.range (c.elements n)).any (fun e =>
    if c.switched then (c.find n e).isNone || ((c.sourceOf r e).isSome && (c.find r e).isNone)
    else (c.contributors n e).any (fun m => (c.find m e).isNone))
/-- COLLECTIVE_TIMEOUT: with as many whole windows past as the communicator's timeout has milliseconds, and a contribution missing; a fault that parks the member's own
is no help. -/
def execCollectiveTimeout (c : Nat) (s : State) : Host.Outcome State Fault Refusal :=
  match tabFind s.colls c with
  | none => .fault .notEnabled
  | some x =>
    match tabFind (s.owner x.owner).comms x.comm with
    | none => .fault .notEnabled
    | some k =>
      if x.start + k.timeout < s.window && x.missing k.members.length k.rank then .next (s.completeColl c 4).flush else .fault .notEnabled
/-- The member's next own contribution, where one is missing or something waits to be delivered. -/
def State.ownContribution (s : State) (c : Coll) : Option Instr :=
  match tabFind (s.owner c.owner).comms c.comm with
  | none => none
  | some k =>
    let n := k.members.length
    let msg (e : Nat) : Instr := .collectiveContribution
      { port := 0, reserved := 0, owner := c.owner, comm := c.comm, sequence := c.seq, member := k.rank, header := c.header, element := e, word := 0, code := 0, sat := false,
        failed := false, status := 0 }
    let first := match c.op with | 2 => k.rank * c.count | _ => 0
    let made := (c.got.filter (fun w => w.member == k.rank)).length
    if (c.chunk.map (fun x => x.1)).getD false then ((c.ready n).head?).map msg
    else if made < c.sourceWords n k.rank then (c.chunk.map (fun x => x.2)).orElse (fun _ => leastFrom (fun e => (c.find k.rank e).isNone) first (made + 1)) |>.map msg
    else ((c.ready n).head?).map msg

end Sys2Proof.Machine
end

