-- ==== Sys2Proof/Machine/Paging.lean ====
section
/-! DEFINITION. Self-service paging: tinv, replay, fgrow, frel, the walks and faults that go on by themselves, and the frames of the machine (R252, R276 to R286,
R294 to R298, R421). -/
namespace Sys2Proof.Machine

/-! ## tinv and replay (R294, R295) -/
/-- Every team of an owner commits, team by team in rising order. -/
def State.commitOwner (s : State) (o : Nat) : State := s.commitAll (s.teamsOfOwner o)
/-- The m pages from page p on overlap [a, a + n); all pages do for n = 0. -/
def overlaps (a n p m : Nat) : Bool := n == 0 || (decide (p * 65536 < a + n) && decide (a < (p + m) * 65536))
/-- The owner's cached translations of pages that overlap [a, a + n), and the results of its walks in flight for them, go; all of them for n = 0. -/
def State.dropPages (s : State) (o a n : Nat) : State :=
  { s with
    tlb := s.tlb.filter (fun e => !(e.owner == o && overlaps a n e.page (2 ^ fld e.res 56 5)))
    flight := s.flight.filter (fun f => !(f.owner == o && overlaps a n (f.page / 2 ^ fld f.res 56 5 * 2 ^ fld f.res 56 5) (2 ^ fld f.res 56 5))) }
/-- The owner's cached translations that name frames a to a + n - 1 go. -/
def State.dropFrames (s : State) (o a n : Nat) : State :=
  { s with tlb := s.tlb.filter (fun e => e.owner != o ||
      decide (a + n ≤ fld e.res 16 26) || decide (fld e.res 16 26 + 2 ^ fld e.res 56 5 ≤ a)) }
/-- An access of the owner that a page overlapping [a, a + n) has translated is on its way through a fabric window: every other one is performed at its home as it leaves
(R294). -/
def State.inFlight (s : State) (o a n : Nat) : Bool := s.fabricOut.any (fun e => e.2.owner == o && e.2.msg.isNone && overlaps a n e.2.vpage e.2.vlen)
/-- tinv (R294). It waits in place for the accesses under way; the pages it has removed by then stay removed. -/
def execTinv (a b : Nat) (s : State) : Host.Outcome State Fault Refusal :=
  scalarOp (.tinv a b) (do
    needPaging
    clean a
    let n ← useReg b
    let v ← sval a
    need (decide (v.toNat < 2 ^ 56) && v.toNat % 65536 == 0 && n.toNat % 65536 == 0 && decide (v.toNat + n.toNat ≤ 2 ^ 56)) (.trap 14 0)
    release .dev
    upd (fun s => s.dropPages (s.ownerOf s.cur) v.toNat n.toNat)
    let s ← get
    need (!s.inFlight (s.ownerOf s.cur) v.toNat n.toNat) .wait
    upd (fun s => s.commitOwner (s.ownerOf s.cur))
    acquire .dev) s
/-- The walks that replay starts for the parked accesses of an owner: those of its groups' slots, and those of its parked chunks. -/
def State.parkedWalks (s : State) (o : Nat) : List WalkReq :=
  let holder (p : Nat) : List Nat :=
    (((s.groups.filter (fun g => g.2.slotsHeld.any (fun e => e.2 == p))).head?).map (fun g => s.caches g.1)).getD []
  let groups := ((s.parks.filter (fun p => p.2.owner == o)).map (fun p =>
    p.2.pages.map (fun x => ({ owner := o, va := x.1, kind := x.2.1, level := x.2.2, copy := none, units := holder p.1 } : WalkReq)))).flatten
  let engine (id lvl : Nat) (us : List Nat) (f : Option (FaultInfo × Nat)) : List WalkReq :=
    match f with
    | some (x, _) => [{ owner := o, va := BitVec.ofNat 64 x.va, kind := x.access, level := lvl, copy := some id, units := us }]
    | none => []
  groups ++ ((s.copies.filter (fun c => c.2.owner == o)).map (fun c => engine c.1 c.2.level [640 + c.2.cluster] c.2.fault)).flatten ++
    ((s.colls.filter (fun c => c.2.owner == o)).map (fun c => engine c.1 c.2.level [] c.2.fault)).flatten
/-- replay (R295). -/
def execReplay (s : State) : Host.Outcome State Fault Refusal :=
  scalarOp .replay (do
    needPaging
    release .dev
    upd (fun s => { s with walks := s.walks ++ (s.parkedWalks (s.ownerOf s.cur)).filter (fun w => !s.walks.contains w) })) s

/-! ## WALK, WALK_CYCLE_LIMIT, PARK_SLOT_ACQUIRED (R276, R278, R282, R283, R295) -/
/-- A new fault of the same access, with another kind and code. -/
def FaultInfo.again (f : FaultInfo) (now : DWord) (k x : Nat) : FaultInfo :=
  { f with kind := k, code := x, since := some now, lanes := f.lanes.map (fun e => (e.1, k, e.2.2)) }
/-- What the walk of a parked chunk leaves of its fault: nothing, and the chunk proceeds; or a fault with a new record. The chunk keeps its slot (R282). -/
def State.walked (s : State) (f : Option (FaultInfo × Nat)) (r : Option (Nat × Nat)) : Option (FaultInfo × Nat) :=
  match f, r with
  | some (x, p), some (k, c) => some (x.again s.cycle k c, p)
  | some _, none => none
  | none, _ => none
/-- A parked chunk whose walk has ended. -/
def State.endParkedWalk (s : State) (id : Nat) (r : Option (Nat × Nat)) : State :=
  match tabFind s.copies id with
  | some c => { s with copies := tabPut s.copies id { c with fault := s.walked c.fault r, delivered := false } }
  | none =>
    match tabFind s.colls id with
    | none => s
    | some c => { s with colls := tabPut s.colls id { c with fault := s.walked c.fault r, delivered := false } }
/-- The walks of an owner that are due for the page of an address: one run of the routine serves them all (R281). -/
def State.dueWalks (s : State) (o : Nat) (va : DWord) : List WalkReq := s.walks.filter (fun w => w.owner == o && w.va.toNat / 65536 == va.toNat / 65536)
/-- A due walk for an address, a kind and a level. -/
def State.walkDue (s : State) (o : Nat) (va : DWord) (kind lvl : Nat) : Bool := s.walks.any (fun w => w.owner == o && w.va == va && w.kind == kind && w.level == lvl)
/-- The caches of the cores and clusters where an owner has groups. -/
def State.ownerCaches (s : State) (o : Nat) : List Nat := (((s.groupsOfOwner o).map s.caches).flatten).eraseDups
/-- What a translation gives a parked chunk: nothing, or a new fault. -/
def XRes.faulting : XRes → Option (Nat × Nat)
  | .ok _ _ _ _ => none
  | .fault k c => some (k, c)
  | .range => some (1, 0)
  | .beyond => some (7, 0)
  | .wait => none
/-- The end of the run that serves a due walk, for its own kind and level (R281): its result joins the caches of the parked access, and a chunk that asked for it goes on or
faults again (R295). A page that needs no walk has its translation. -/
def State.endDue (s : State) (e : Option WalkEnd) (w : WalkReq) : State :=
  let (r, s) := match s.direct w.owner w.va.toNat w.level, e with
    | some r, _ => (r, s)
    | none, some e => s.endWalk w.units w.owner w.va.toNat w.kind w.level e
    | none, none => (.wait, s)
  match w.copy with
  | some id => s.endParkedWalk id r.faulting
  | none => s
/-- The due walks that one run has served are due no more. -/
def State.endDues (s : State) (ws : List WalkReq) (e : Option WalkEnd) : State :=
  ws.foldl (fun s w => s.endDue e w) { s with walks := s.walks.filter (fun w => !ws.contains w) }
/-- A walk for an access that no instruction waits for. Those that replay has started for one page run anew, in one run (R281, R295). One of a wrong-path load joins the
caches of the owner's cores (R283; log entry 5). A walk that waits for the owner's budgets stays due. -/
def State.walkNow (s : State) (o : Nat) (va : DWord) (kind lvl : Nat) : State :=
  let ws := s.dueWalks o va
  if ws.isEmpty then (s.xlate (s.ownerCaches o) o va.toNat kind lvl).2
  else if (s.direct o va.toNat lvl).isSome then s.endDues ws none
  else
    match s.walkFor o va.toNat kind lvl with
    | (none, t) => t
    | (some e, t) => t.endDues ws (some e)
/-- The owner has groups that run, programs or handlers: their streams may run down a predicted path (R149). -/
def Owner.runsGroups (x : Owner) : Bool := x.ostate == .running || x.ostate == .preempting
/-- WALK: one that replay has started (R295), or a wrong-path load's (R149, R283). -/
def execWalk (o : Nat) (va : DWord) (kind lvl : Nat) (s : State) : Host.Outcome State Fault Refusal :=
  if kind < 4 && lvl < 3 && (s.walkDue o va kind lvl || (kind == 0 && (s.owner o).runsGroups)) then
    .next (s.walkNow o va kind lvl).flush
  else .fault .notEnabled
/-- WALK_CYCLE_LIMIT: a walk that is due and that runs past 16,384 cycles. -/
def execWalkCycleLimit (o : Nat) (va : DWord) (s : State) : Host.Outcome State Fault Refusal :=
  match s.walks.find? (fun w => w.owner == o && w.va == va) with
  | none => .fault .notEnabled
  | some w =>
    match (s.walkFor o va.toNat w.kind w.level).1 with
    | some (.error 4) => .next (s.walkNow o va w.kind w.level).flush
    | _ => .fault .notEnabled
/-- The first operation of a group whose chunk waits for a park slot that is there now: a copy, else a collective; the state in which it has it. -/
def State.chunkSlot (s : State) (g : Nat) : Option State :=
  match s.copies.find? (fun c => c.2.group == g && c.2.waits.isSome && (s.freePark (c.2.cluster / Config.clusters) c.2.owner).isSome) with
  | some (id, c) => c.waits.map (fun f => s.faultCopy id c f)
  | none =>
    match s.colls.find? (fun c => c.2.group == g && c.2.waits.isSome && (s.freePark c.2.die c.2.owner).isSome) with
    | some (id, c) => c.waits.map (fun f => s.faultColl id c f)
    | none => none
/-- PARK_SLOT_ACQUIRED: a fault that waited in place for a slot is taken, that of a group or of one of its chunks (R282). -/
def execParkSlotAcquired (g : Nat) (s : State) : Host.Outcome State Fault Refusal :=
  match (s.group g).pendingFault with
  | some f =>
    if (s.freePark (s.dieOf g) (s.ownerOf g)).isSome && (s.group g).gstate = .active && !(s.group g).spent s.cycle then .next (s.takeFault g f).flush
    else .fault .notEnabled
  | none =>
    match s.chunkSlot g with
    | some t => .next t.flush
    | none => .fault .notEnabled

/-! ## fgrow, frel and level S's answer (R296 to R298) -/
/-- fgrow (R296): waits in place while 8 requests are unanswered. -/
def execFgrow (a b : Nat) (s : State) : Host.Outcome State Fault Refusal :=
  scalarOp (.fgrow a b) (do
    needPaging
    clean a
    let w ← useReg b
    let v ← sval a
    need (fld v 33 31 == 0 && decide (1 ≤ fld v 0 32) && decide (fld v 0 32 ≤ 65536) && w.toNat % 8 == 0) (.trap 14 0)
    let _ ← place .gl w 1 8 typesDevice
    let s ← get
    need (decide ((s.owner (s.ownerOf s.cur)).fgrows.length < 8)) .wait
    release .dev
    upd (fun s =>
      let r : Fgrow := { tier := fld v 32 1, count := fld v 0 32, word := w, level := s.g.level }
      s.updOwner (s.ownerOf s.cur) (fun x => { x with fgrows := x.fgrows ++ [r] }))) s
/-- The entry of an owner's frame index. -/
def Owner.entry (x : Owner) (i : Nat) : FEntry := tabGet FEntry.absent x.fmap i
/-- Frames of the machine change their state. -/
def State.setFrames (s : State) (st : MState) (fs : List Nat) : State :=
  { s with mframes := fs.foldl (fun t f => tabPut t f st) s.mframes }
/-- The state of a machine frame. -/
def State.frameState (s : State) (f : Nat) : MState := tabGet .free s.mframes f
/-- The stacks of the partition an owner belongs to (R410). -/
def State.mintOf (s : State) (o : Nat) : Nat := (s.die ((diesOf (s.owner o).dies).headD 0)).mint
/-- Machine frames behind the entries of type 0 or 1 of a run of owner frames. -/
def Owner.machineFrames (x : Owner) (a n : Nat) : List Nat :=
  ((List.range n).map (fun i => x.entry (a + i))).filterMap (fun e => if e.ty ≤ 1 && e.st != 0 then some e.frame else none)
/-- The entries of a run become ABSENT. -/
def Owner.dropEntries (x : Owner) (a n : Nat) : Owner :=
  { x with fmap := (List.range n).foldl (fun t i => tabPut t (a + i) { tabGet FEntry.absent t (a + i) with st := 0 }) x.fmap }
/-- An access of the owner is on its way through one of some fabric-window frames (R298). -/
def State.windowBusy (s : State) (o a n : Nat) : Bool :=
  let es := (List.range n).map (fun j => (s.owner o).entry (a + j))
  s.fabricOut.any (fun r => r.2.owner == o && es.any (fun e => e.st == 1 && e.ty == 4 && e.frame == r.2.frame))
/-- frel (R298): frames go to SCRUB, the entries are ABSENT. It waits in place for the accesses to them. -/
def execFrel (a b : Nat) (s : State) : Host.Outcome State Fault Refusal :=
  scalarOp (.frel a b) (do
    needPaging
    clean a
    let m ← useReg b
    let v ← sval a
    let s ← get
    let o := s.ownerOf s.cur
    let x := s.owner o
    let i := v.toNat
    let n := m.toNat
    need (decide (1 ≤ n) && decide (n ≤ 65536) && decide (x.reserve ≤ i) && decide (i + n ≤ x.frames)) (.trap 14 0)
    need ((List.range n).all (fun j => (x.entry (i + j)).st != 0)) (.trap 14 0)
    need ((List.range n).all (fun j => (x.entry (i + j)).st != 2)) .wait
    upd (fun s => s.dropFrames o i n)
    need (!s.windowBusy o i n) .wait
    upd (fun s =>
      let s := s.commitOwner o
      let fs := (s.owner o).machineFrames i n
      (s.setFrames .scrub fs).updOwner o (fun x => x.dropEntries i n))) s
/-- The frames of a grant as entries of the owner, from index Frames on. -/
def Owner.grant (x : Owner) (ty : Nat) (fs : List Nat) : Owner :=
  { x with
    frames := x.frames + fs.length
    fmap := fs.zipIdx.foldl (fun t e => tabPut t (x.frames + e.2) { st := 1, ty := ty, pinned := false, move := 0, frame := e.1 }) x.fmap }
/-- FGROW_ANSWER: level S, led by a pair, answers the oldest unanswered request (R297, R408): every frame asked for, or none. An answer to none is a duplicate and is
discarded. -/
def execFgrowAnswer (o : Nat) (ans : GrowAnswer) (s : State) : Host.Outcome State Fault Refusal :=
  match (s.owner o).fgrows with
  | [] => if s.led then .next s else .fault .notEnabled
  | r :: rest =>
    let x := { s.owner o with fgrows := rest }
    if !s.led then .fault .notEnabled
    else match ans with
    | .grant fs =>
      if fs.length = r.count && fs.all (fun f => s.frameState f == .free && frameFits r.tier (s.mintOf o) f) && fs.eraseDups.length == fs.length && x.frames + r.count ≤ 2 ^ 26 then
        let v := BitVec.ofNat 64 (r.count * 2 ^ 42 + x.frames * 2 ^ 16 + 1)
        .next (((s.setFrames .owned fs).setOwnerRec o (x.grant r.tier fs)).completionWrite o r.level r.word.toNat v).flush
      else .fault .notEnabled
    | .deny reason =>
      if 1 ≤ reason && reason ≤ 4 then
        .next ((s.setOwner o x).completionWrite o r.level r.word.toNat (BitVec.ofNat 64 (reason * 256 + 2))).flush
      else .fault .notEnabled

/-! ## Frames of the machine (R285, R286) -/
/-- Words with their codes from one machine address to another. -/
def Store.moveWords (m : Store) (src dst : Nat) : Nat → Store
  | 0 => m
  | n + 1 =>
    let (w, c) := m.read src
    Store.moveWords (m.write dst w c) (src + 4) (dst + 4) n
/-- Words of zero with valid codes. -/
def Store.scrub (m : Store) (a : Nat) : Nat → Store
  | 0 => m
  | n + 1 => Store.scrub (m.write a 0 (checkCode 0 (a % 65536))) (a + 4) n
/-- A frame is written with zeros and valid codes, and no cached copy of it is left (R286). -/
def State.scrubFrame (s : State) (f : Nat) : State :=
  { s with mem := s.mem.scrub (f * 65536) 16384, badCopies := s.badCopies.filter (fun c => c.1 / 16384 != f),
           remote := s.remote.filter (fun e => e.1 / 512 != f) }
/-- A key of the words of one line as its key after the line's move. -/
def moveKey (src dst k : Nat) : Nat := if k / 128 = src then dst * 128 + k % 128 else k
/-- A table whose keys of one line move. -/
def moveKeys {α : Type} (src dst : Nat) (t : Tab α) : Tab α := t.foldl (fun r e => tabPut r (moveKey src dst e.1) e.2) []
/-- A line's words, the bytes teams hold of it, and what is armed on it move from line src to line dst (R285). -/
def State.moveLine (s : State) (src dst : Nat) : State :=
  let ln (x : Nat) : Nat := if x = src then dst else x
  { s with
    mem := s.mem.moveWords (src * 512) (dst * 512) 128
    badCopies := s.badCopies.filter (fun c => c.1 / 128 != src && c.1 / 128 != dst)
    remote := s.remote.filter (fun e => e.1 / 4 != src && e.1 / 4 != dst)
    teams := s.teams.map (fun t =>
      (t.1, { t.2 with held := moveKeys src dst t.2.held, atomics := t.2.atomics.map ln, released := t.2.released.map ln }))
    waits := s.waits.map (fun e => if e.ma / 512 = src then { e with ma := dst * 512 + e.ma % 512, die := homeDie (dst * 512) } else e) }
/-! ## Frame transfers (R414) -/
/-- The first n FREE frames of a tier in a partition's stacks, from frame f on. -/
def State.freeFrames (s : State) (tier mint : Nat) (f n : Nat) : Nat → Option (List Nat)
  | 0 => if n = 0 then some [] else none
  | fuel + 1 =>
    if n = 0 then some []
    else if frameFits tier mint f then
      if s.frameState f = .free then (s.freeFrames tier mint (f + 1) (n - 1) fuel).map (fun r => f :: r)
      else s.freeFrames tier mint (f + 1) n fuel
    else if tier = 0 && frameStack f < 16 then s.freeFrames tier mint ((frameStack f + 1) * 2 ^ 20) n fuel
    else none
/-- An owner's entry i is PRESENT with a frame of a type, and Frames covers the run that begins at first. -/
def Owner.present (x : Owner) (i ty f count first : Nat) : Owner :=
  { x with
    frames := max x.frames (first + count)
    fmap := tabPut x.fmap i { st := 1, ty := ty, pinned := false, move := 0, frame := f } }
/-- A completion word of level S, in owner 0 memory, released at .sys. -/
def State.serviceWord (s : State) (ma : Nat) (v : DWord) : State := s.homeWrite64 (.dev ma) v
/-- A frame that is free goes to the place of a transfer, or to the pool. A target that is gone leaves it there. -/
def State.giveFrame (s : State) (t : Transfer) (i f : Nat) : State :=
  if t.target != 0 && (s.owner t.target).alive then
    ((s.setFrames .owned [f]).dropFrames t.target (t.tfirst + i) 1).setOwnerRec t.target ((s.owner t.target).present (t.tfirst + i) (if f < 2 ^ 24 then 0 else 1) f t.count t.tfirst)
  else s.setFrames .free [f]
/-- The transfer is complete when every frame has gone where it belongs. -/
def State.endTransfer (s : State) (id : Nat) (t : Transfer) : State :=
  if t.frames.isEmpty then { s with transfers := tabDel s.transfers id }.serviceWord t.completion (BitVec.ofNat 64 (t.count * 2 ^ 32 + 1))
  else { s with transfers := tabPut s.transfers id t }
/-- The refusal of a transfer; the manual numbers no reason (log entry 2). -/
def State.refuseTransfer (s : State) (id : Nat) (t : Transfer) : State :=
  let (w, s) := s.freeWord
  { s with transfers := tabDel s.transfers id }.serviceWord t.completion (BitVec.ofNat 64 (w.toNat % 256 * 256 + 2))
/-- The target's part of the checks of R414. -/
def State.targetOk (s : State) (t : Transfer) : Bool :=
  t.target == 0 || ((s.owner t.target).alive && decide (t.tfirst + t.count ≤ 2 ^ 26) &&
    (List.range t.count).all (fun i => ((s.owner t.target).entry (t.tfirst + i)).st == 0))
/-- The source's part: entries over device memory, PRESENT and not pinned; of a source in TEARDOWN the entries whose frames no transfer has taken yet. -/
def State.sourceOk (s : State) (t : Transfer) : Bool :=
  let x := s.owner t.source
  (List.range t.count).all (fun i =>
    let e := x.entry (t.sfirst + i)
    decide (e.ty ≤ 1) &&
      (if x.ostate = .teardown then (tabFind x.fmap (t.sfirst + i)).isSome && !s.transfers.any (fun u => u.2.frames.any (fun f => f.2 == e.frame))
       else e.st == 1 && !e.pinned))
/-- A transfer starts, once no source entry is MOVING: it is refused whole, or its frames go to SCRUB; frames from the pool need none. -/
def State.tryTransfer (s : State) (id : Nat) : State :=
  match tabFind s.transfers id with
  | none => s
  | some t =>
    let x := s.owner t.source
    if t.started || (t.source != 0 && (List.range t.count).any (fun i => (x.entry (t.sfirst + i)).st == 2)) then s
    else if !s.targetOk t then s.refuseTransfer id t
    else if t.source = 0 then
      let mint := if t.target = 0 then (s.die t.die).mint else s.mintOf t.target
      match s.freeFrames t.tier mint (if t.tier = 0 then 0 else 2 ^ 24) t.count (t.count + s.mframes.length + 16) with
      | none => s.refuseTransfer id t
      | some fs => (fs.zipIdx.foldl (fun s (e : Nat × Nat) => s.giveFrame t e.2 e.1) s).endTransfer id { t with started := true, frames := [] }
    else if !s.sourceOk t then s.refuseTransfer id t
    else
      let s := (s.dropFrames t.source t.sfirst t.count).commitOwner t.source
      let fs := (List.range t.count).map (fun i => ((s.owner t.source).entry (t.sfirst + i)).frame)
      let s := (s.setFrames .scrub fs).updOwner t.source (fun x => x.dropEntries t.sfirst t.count)
      { s with transfers := tabPut s.transfers id { t with started := true, frames := fs.zipIdx.map (fun (e : Nat × Nat) => (e.2, e.1)) } }

/-- FRAME_MOVE_START: a present frame of type 0 begins its move to a free frame of its tier; a pinned one, and one of type 1, only for retirement (R286), which level
S starts, led by a pair. The translations that name it by its machine frame go (R280). -/
def execFrameMoveStart (o ofi target : Nat) (retire : Bool) (s : State) : Host.Outcome State Fault Refusal :=
  let e := (s.owner o).entry ofi
  match leastFrom (fun n => (tabFind s.moves n).isNone) 0 4096 with
  | none => .fault .notEnabled
  | some id =>
    if e.st = 1 && (!retire || s.led) && (e.ty = 0 || (e.ty = 1 && retire)) && (!e.pinned || retire) && s.frameState e.frame = .owned && s.frameState target = .free &&
       frameFits e.ty (s.mintOf o) target then
      let mv : Move := { owner := o, ofi := ofi, source := e.frame, target := target, moved := [], retire := retire }
      let s := ((s.setFrames .source [e.frame]).setFrames .owned [target]).dropFrames o ofi 1
      .next ({ s with moves := tabPut s.moves id mv }.updOwner o
        (fun x => { x with fmap := tabPut x.fmap ofi { e with st := 2, move := id } }))
    else .fault .notEnabled
/-- The transfers that waited for a move may start (R414). -/
def State.tryTransfers (s : State) : State := (s.transfers.map (fun t => t.1)).foldl State.tryTransfer s
/-- A move whose lines have all moved ends (R285, R286): the entry names the target, and the source is FREE, scrubbed as every frame that reaches FREE, or RETIRED. -/
def State.endMove (s : State) (mv : Nat) (m : Move) : State :=
  let s := if m.retire then s.setFrames .retired [m.source] else (s.scrubFrame m.source).setFrames .free [m.source]
  let s := ({ s with moves := tabDel s.moves mv }).dropFrames m.owner m.ofi 1
  (s.updOwner m.owner (fun x => { x with fmap := tabPut x.fmap m.ofi { x.entry m.ofi with st := 1, move := 0, frame := m.target } })).tryTransfers
/-- The moves of some owners that are in progress move the lines they still have, and end. -/
def State.finishMoves (s : State) (os : List Nat) : State :=
  (s.moves.filter (fun m => os.contains m.2.owner)).foldl (fun s m =>
    (((List.range 128).filter (fun l => !m.2.moved.contains l)).foldl (fun s l => s.moveLine (m.2.source * 128 + l) (m.2.target * 128 + l)) s).endMove m.1 m.2) s
/-- LINE_COPY_COMPLETE: one line has moved, and with the last one the move ends (R285, R286). -/
def execLineCopyComplete (mv line : Nat) (s : State) : Host.Outcome State Fault Refusal :=
  match tabFind s.moves mv with
  | none => .fault .notEnabled
  | some m =>
    if line < 128 && !m.moved.contains line then
      let s := s.moveLine (m.source * 128 + line) (m.target * 128 + line)
      let m' := { m with moved := m.moved ++ [line] }
      if m'.moved.length < 128 then .next { s with moves := tabPut s.moves mv m' } else .next (s.endMove mv m').flush
    else .fault .notEnabled

end Sys2Proof.Machine
end

