-- ==== Sys2Proof/Machine/Deque.lean ====
section
/-! DEFINITION. Work-stealing deques (R192 to R197, R423). -/
namespace Sys2Proof.Machine

/-- The teams that hold bytes of the line of a place commit, the acting one among them (R193). -/
def settleLine (l : Loc) : M Unit :=
  match l with
  | .dev ma => upd (fun s =>
      s.commitAll ((s.teams.filter (fun (x : Nat × Team) => x.2.held.any (fun c => c.1 / 128 == ma / 512))).map (fun (x : Nat × Team) => x.1)))
  | .host _ _ => pure () | .window _ _ => pure () | .regs _ _ => pure () | .sram _ _ => pure () | .priv _ _ _ => pure ()
  | .chip _ _ => pure () | .closed _ _ => pure ()
/-- The address names cluster-shared memory (R423). -/
def dqShared (a : DWord) : Bool := fld a 56 8 == 1
/-- The place of an address of a deque in the space its header has (R195, R423): trap 12, 13 or 14, or a fault of that kind. -/
def dqPlace (shared : Bool) (a : DWord) (kind size : Nat) : M Loc := do
  let s ← get
  if shared then
    match s.spacePlace s.cur 0 .cl a.toNat with
    | some l => pure l
    | none => trap 14
  else
    let (l, _) ← place .gl a kind size typesDevice
    pure l
/-- n double words at a home; trap 3 on poison. -/
def homeDwords (l : Loc) : Nat → M (List DWord)
  | 0 => pure []
  | n + 1 => do
    let v ← homeDword l
    let r ← homeDwords (l.plus 8) n
    pure (v :: r)
/-- A deque header as its home reads it (R192). -/
structure Deque where
  loc : Loc
  base : DWord
  cap : Nat
  top : DWord
  bottom : DWord
  steals : DWord
  empties : DWord
  shared : Bool
  deriving DecidableEq, Repr
/-- The checks common to the three instructions (R195). -/
def dqOpen (a : Nat) : M Deque := do
  needOwner
  let v ← useReg a
  need (v.toNat % 64 == 0) (.trap 12 0)
  need (decide (fld v 56 8 ≤ 1)) (.trap 14 0)
  let l ← dqPlace (dqShared v) (if dqShared v then BitVec.ofNat 64 (fld v 0 56) else v) 2 64
  settleLine l
  let ws ← homeDwords l 8
  let w (i : Nat) : DWord := ws.getD i 0
  let sameSpace := if dqShared v then dqShared (w 0) && fld (w 0) 22 34 == 0 else fld (w 0) 56 8 == 0
  need (decide (fld (w 1) 0 8 ≤ 20) && fld (w 1) 8 56 == 0 && w 6 == 0 && w 7 == 0 && fld (w 0) 0 4 == 0 && sameSpace) (.trap 14 0)
  upd (fun s => if dqShared v then s else s.soil s.g.team)
  pure { loc := l, base := w 0, cap := 2 ^ fld (w 1) 0 8, top := w 2, bottom := w 3, steals := w 4, empties := w 5, shared := dqShared v }
/-- The scope of a deque's order (R197). -/
def Deque.scope (h : Deque) : MScope := if h.shared then .clus else .dev
/-- The place of entry i, in the header's space, with every team that holds bytes of its line committed (R193, R196). -/
def Deque.entry (h : Deque) (i : DWord) (kind : Nat) : M Loc := do
  let base := if h.shared then BitVec.ofNat 64 (fld h.base 0 56) else h.base
  let l ← dqPlace h.shared (base + BitVec.ofNat 64 (16 * (i.toNat % h.cap))) kind 16
  settleLine l
  pure l
/-- A field of the header changes at the home. -/
def Deque.put (h : Deque) (off : Nat) (v : DWord) : M Unit := upd (fun s => s.agentWrite64 (h.loc.plus off) v)
/-- A register's double word at the home, with the codes of its poison (R101). -/
def putEntry (l : Loc) (v : DWord) (p : Bool) : M Unit := upd (fun s =>
  let w0 : Word := v.truncate 32
  let w1 : Word := (v >>> 32).truncate 32
  (s.agentWrite l w0 (codeFor w0 p l.off)).agentWrite (l.plus 4) w1 (codeFor w1 p (l.plus 4).off))
def putFlag (f : Nat) (b : Bool) : M Unit := upd (fun s => s.setSr (s.g.sr.putFlag f b))
/-- The result of a deque that is empty. -/
def dqEmpty (d f : Nat) : M Unit := do
  putFlag f false
  putReg d 0 false
  putReg (d + 1) 0 false
/-- The entry at a place goes into two registers, poisoned as its words are. -/
def dqTake (l : Loc) (d f : Nat) : M Unit := do
  let (v0, p0) ← homeDwordP l
  let (v1, p1) ← homeDwordP (l.plus 8)
  putReg d v0 p0
  putReg (d + 1) v1 p1
  putFlag f true
/-- dqpush (R195, R197): the difference of the two indexes is exact (R14). -/
def execDqpush (f a b : Nat) (s : State) : Host.Outcome State Fault Refusal :=
  scalarOp (.dqpush f a b) (do
    let h ← dqOpen a
    if h.top.toNat + h.cap ≤ h.bottom.toNat then putFlag f false
    else
      let l ← h.entry h.bottom 1
      release h.scope
      let r := (← get).g.sr
      putEntry l (r.get b) (r.bad b)
      putEntry (l.plus 8) (r.get (b + 1)) (r.bad (b + 1))
      h.put 0x18 (h.bottom + 1)
      putFlag f true) s
/-- dqpop (R195, R197). -/
def execDqpop (d a f : Nat) (s : State) : Host.Outcome State Fault Refusal :=
  scalarOp (.dqpop d a f) (do
    let h ← dqOpen a
    if h.bottom = h.top then dqEmpty d f
    else
      let l ← h.entry (h.bottom - 1) 0
      h.put 0x18 (h.bottom - 1)
      dqTake l d f
      acquire h.scope) s
/-- dqsteal (R195, R197). -/
def execDqsteal (d a f : Nat) (s : State) : Host.Outcome State Fault Refusal :=
  scalarOp (.dqsteal d a f) (do
    let h ← dqOpen a
    if h.bottom = h.top then
      dqEmpty d f
      h.put 0x28 (h.empties + 1)
    else
      let l ← h.entry h.top 0
      h.put 0x10 (h.top + 1)
      h.put 0x20 (h.steals + 1)
      dqTake l d f
      acquire h.scope) s

end Sys2Proof.Machine
end

