-- ==== Sys2Proof/Machine/Queue.lean ====
section
/-! DEFINITION. Work queues: posting from the device, binding and unbinding, and the status registers of an owner's requests (R180 to R183, R190, R191, R321). -/
namespace Sys2Proof.Machine

/-! ## qpost (R191) -/
/-- The bound queue of an owner whose header is at an address. -/
def State.queueAt (s : State) (o : Nat) (header : DWord) : Option (Nat × Queue) :=
  s.queues.find? (fun q => q.2.owner == o && q.2.header == header && q.2.qstate != .unbound)
/-- Double words of the acting group at a place, one after the other. -/
def State.putHome (s : State) (l : Loc) : List DWord → State
  | [] => s
  | v :: r => (s.agentWrite64 l v).putHome (l.plus 8) r
/-- qpost (R191): the record is read, the team commits, and the position is taken, written and published at the header's home, where the atomics that other teams
hold on the line come first (R259). The difference of the two positions is exact (R14). DESIGN CHOICE: a poisoned Reserve, Tail or Head word takes trap 3, as the record's
words do; R191 gives it no outcome (log entry 26). -/
def execQpost (d a b : Nat) (s : State) : Host.Outcome State Fault Refusal :=
  scalarOp (.qpost d a b) (do
    needOwner
    clean a
    let rva ← useReg b
    let hva ← sval a
    need (hva.toNat % 64 == 0 && rva.toNat % 64 == 0) (.trap 12 0)
    let (l, _) ← place .gl hva 2 64 typesDevice
    let (r, _) ← place .gl rva 0 64 typesWide
    let ws ← descWords 1 r 16
    release .dev
    let s ← get
    match s.queueAt (s.ownerOf s.cur) hva with
    | none => putReg d (-2) false
    | some (_, q) =>
      settleAtomics l
      let p ← homeDword (l.plus 0x10)
      let t ← homeDword (l.plus 0x18)
      let h ← homeDword (l.plus 0x20)
      if h.toNat + 2 ^ q.logCap ≤ p.toNat then putReg d (-1) false
      else
        let (z, _) ← place .gl (BitVec.ofNat 64 (q.slot p.toNat)) 1 64 typesWide
        upd (fun s =>
          (((s.putHome z ((List.range 7).map (dwordAt ws) ++ [p + 1])).agentWrite64 (l.plus 0x10) (p + 1)).agentWrite64 (l.plus 0x18) (t + 1)))
        putReg d p false) s

/-! ## Status registers of an owner's requests (R273, R321) -/
/-- A status that counts one request more, done with a granted value. -/
def statDone (v : DWord) (granted : Nat) : DWord := BitVec.ofNat 64 ((fld v 32 32 + 1) % 2 ^ 32 * 2 ^ 32 + granted % 2 ^ 24 * 256 + 2)
/-- A status that counts one request more, refused with a reason. -/
def statRefused (v : DWord) (reason : Nat) : DWord := BitVec.ofNat 64 ((fld v 32 32 + 1) % 2 ^ 32 * 2 ^ 32 + reason % 2 ^ 24 * 256 + 3)
/-- A status that is busy. -/
def statBusy (v : DWord) : DWord := BitVec.ofNat 64 (fld v 32 32 * 2 ^ 32 + 1)
/-- A request of a virtual function: the owner, the request register and what was written to it (R321). -/
def vfRequest (i : Instr) : Option (Nat × Nat × Nat) :=
  match i with
  | .vreqActivate o => some (o, 0x0010, 1)
  | .vreqStop o => some (o, 0x0010, 2)
  | .vreqResume o => some (o, 0x0010, 3)
  | .vreqTeardown o => some (o, 0x0010, 4)
  | .qbind o d _ => some (o, 0x0100, d.toNat)
  | .communicatorSetup o d _ => some (o, 0x0200, d.toNat)
  | .communicatorDelete o d => some (o, 0x0200, d.toNat)
  | .exportRequest o d _ => some (o, 0x0300, d.toNat)
  | .importRequest o d => some (o, 0x0300, d.toNat)
  | .revokeRequest o d => some (o, 0x0300, d.toNat)
  | _ => none
/-- The status of a request register is busy. -/
def Owner.busy (x : Owner) (reg : Nat) : Owner :=
  if reg = 0x0010 then { x with vreqst := statBusy x.vreqst } else if reg = 0x0100 then { x with qbindst := statBusy x.qbindst }
  else if reg = 0x0200 then { x with comst := statBusy x.comst } else { x with expst := statBusy x.expst }
/-- Two requests are on one register of one owner. -/
def sameRegister (a b : Nat × Nat × Nat) : Bool := a.1 == b.1 && a.2.1 == b.2.1
/-- The requests that wait on the register of a request. -/
def State.askedBefore (s : State) (r : Nat × Nat × Nat) : List Instr := s.requests.filter (fun j => (vfRequest j).any (fun x => sameRegister x r))
/-- The state without those. -/
def State.answering (s : State) (r : Nat × Nat × Nat) : State := { s with requests := s.requests.filter (fun j => !(vfRequest j).any (fun x => sameRegister x r)) }
/-- A request of a virtual function is answered where a service pair leads. With none it stays busy until one leads, and its step is then taken again (R408); another
request written to its register in the meantime is ignored (R321). -/
def State.asked (s : State) (i : Instr) (answer : State → Host.Outcome State Fault Refusal) : Host.Outcome State Fault Refusal :=
  match vfRequest i with
  | none => answer s
  | some r =>
    let before := s.askedBefore r
    if before.any (fun j => vfRequest j != some r) then .next s
    else if s.led then answer (s.answering r)
    else if !before.isEmpty then .next s
    else .next ({ s with requests := s.requests ++ [i] }.updOwner r.1 (fun x => x.busy r.2.1))
/-- A refusal whose reason the manual does not number: a free value (log entry 2). -/
def State.freeReason (s : State) : Nat × State := let (w, s) := s.freeWord; (w.toNat % 2 ^ 24, s)
/-- An owner number that a virtual function has (R120). -/
def ownerOk (o : Nat) : Bool := decide (1 ≤ o) && decide (o ≤ 255)

/-! ## QBIND, QUEUE_UNBIND (R180, R181, R183) -/
/-- The queue leaves the wait-and-wake table (R230). -/
def State.unarm (s : State) (q : Nat) : State :=
  { s with waits := s.waits.filterMap (fun e =>
      let e := { e with queues := e.queues.filter (fun x => x != q) }
      if e.waiters.isEmpty && e.queues.isEmpty then none else some e) }
/-- The entry of the tail word: joined, or made where its die's table has room (R180, R229). -/
def State.arm (s : State) (q o : Nat) (va : DWord) (ma : Nat) : Option State :=
  if s.waits.any (fun e => e.owner == o && e.va == va) then
    some { s with waits := s.waits.map (fun e => if e.owner = o && e.va = va then { e with queues := e.queues ++ [q] } else e) }
  else if Config.waitEntries ≤ (s.waits.filter (fun e => e.die == homeDie ma)).length then none
  else some { s with waits := s.waits ++ [{ die := homeDie ma, owner := o, va := va, ma := ma, waiters := [], queues := [q] }] }
/-- A header that a queue may be bound to (R180, R181): none of its fields but the device's own is poisoned, and none breaks the table. -/
def headerOk (ws : List (DWord × Bool)) : Bool :=
  let w (i : Nat) : DWord := (ws.getD i (0, false)).1
  [0, 1, 2, 3, 4, 7].all (fun i => !(ws.getD i (0, false)).2) && w 7 == 0 && (w 0).toNat % 4096 == 0 && decide ((w 0).toNat < 2 ^ 56) && decide (4 ≤ fld (w 1) 0 8) && decide (fld (w 1) 0 8 ≤ 16) && fld (w 1) 10 22 == 0 &&
  w 2 == w 3 && w 3 == w 4
/-- The queue captures its header, and the device writes the number, the status and the fault address; where the number's word does not translate the queue is
FAULTED (R189). -/
def State.bind (s : State) (o : Nat) (va : DWord) (q : Nat) (ws : List (DWord × Bool)) (ma : Nat) : Option State :=
  (s.arm q o (va + 0x18) ma).map (fun s =>
    let w (i : Nat) : DWord := (ws.getD i (0, false)).1
    let x : Queue :=
      { qstate := .empty, owner := o, header := va, ring := w 0, logCap := fld (w 1) 0 8, cls := fld (w 1) 8 2, refused := 0, fault := 0,
        faultVa := 0, pub := [] }
    match s.xlateFor o (va.toNat + 0x0C) 1 with
    | (.ok l _ _ _, s1) => (s1.homeWrite l (BitVec.ofNat 32 q) (checkCode (BitVec.ofNat 32 q) l.off)).putQueue q x
    | (.fault _ _, s1) => (s1.putQueue q x).queueFault q 1 (va.toNat + 0x0C)
    | (.range, s1) => (s1.putQueue q x).queueFault q 1 (va.toNat + 0x0C)
    | (.beyond, s1) => (s1.putQueue q x).queueFault q 1 (va.toNat + 0x0C)
    | (.wait, s1) => (s1.putQueue q x).queueFault q 1 (va.toNat + 0x0C))
/-- The binding that an owner asks for, on queue q as level S chooses; none where it is refused. A faulted queue of the same header is bound again (R183). DESIGN CHOICE: a
header whose tail word is not in device memory, and one that another queue of the owner is bound to, are refused, which R180 does not list (log entry 26). -/
def State.tryBind (s : State) (o : Nat) (va : DWord) (q : Nat) : Option State × State :=
  let again := (s.queue q).qstate == .faulted && (s.queue q).owner == o && (s.queue q).header == va
  let taken := (s.queueAt o va).isSome && !again
  if va.toNat % 64 ≠ 0 || taken || ((s.queue q).qstate != .unbound && !again) || !(s.owner o).alive then (none, s)
  else
    match s.ownReads o va.toNat 6 8 with
    | (none, s1) => (none, s1)
    | (some ws, s1) =>
      if !headerOk ws then (none, s1)
      else
        match s1.xlateFor o (va.toNat + 0x18) 0 with
        | (.ok (.dev ma) _ _ _, s2) => ((s2.unarm q).bind o va q ws ma, s2)
        | (_, s2) => (none, s2)
/-- QBIND: the owner's request through its virtual function, answered in QBINDST (R321). -/
def execQbind (o : Nat) (desc : DWord) (q : Nat) (s : State) : Host.Outcome State Fault Refusal :=
  if !ownerOk o || 2048 ≤ q then .fault .notEnabled
  else
    s.asked (.qbind o desc q) (fun s =>
      match s.tryBind o (desc &&& 0x00FFFFFFFFFFFFFF) q with
      | (some s1, _) => .next (s1.updOwner o (fun x => { x with qbindst := statDone x.qbindst q })).flush
      | (none, s1) =>
        let (r, s2) := s1.freeReason
        .next (s2.updOwner o (fun x => { x with qbindst := statRefused x.qbindst r })).flush)
/-- A queue is unbound and its entry is free; records in its ring stay there (R180). -/
def State.unbind (s : State) (q : Nat) : State :=
  let s := s.unarm q
  let s := s.putQueue q { s.queue q with qstate := .unbound }
  s.setQueue q Queue.init
/-- QUEUE_UNBIND, by the leading service pair; an unbound queue stays as it is (R183). -/
def execQueueUnbind (q : Nat) (s : State) : Host.Outcome State Fault Refusal :=
  if !s.led then .fault .notEnabled
  else if (s.queue q).qstate = .unbound then .next s
  else .next (s.unbind q).flush

end Sys2Proof.Machine
end

