-- ==== Sys2Proof/Machine/Owners.lean ====
section
/-! DEFINITION. The states of an owner: creation, slices, pre-emption and resume, the end of a stop, the requests of its virtual function, teardown, scrubbing and
the budget windows (R113 to R121, R132 to R138, R208, R286, R321, R414). -/
namespace Sys2Proof.Machine

/-! ## OWNER_CREATE (R113, R120, R240) -/
/-- The shares of chip scratchpad that owners hold on a die (R240). -/
def State.sharesOn (s : State) (d : Nat) : Nat :=
  (s.owners.filter (fun o => o.2.ostate != .free && (diesOf o.2.dies).contains d)).foldl (fun n o => n + o.2.share) 0
/-- A grant that level S may make: no fabric windows for an owner with encrypted memory (R307), a whole partition whose dies have booted, a reserve of device HBM, free frames of the partition's stacks, and a share within
the limit of every die. -/
def State.specOk (s : State) (p : OwnerSpec) : Bool :=
  let ds := diesOf p.dies
  let own := p.frames.filter (fun f => decide (f.1 ≤ 1))
  let mint := (s.die (ds.headD 0)).mint
  !(p.encrypted && p.frames.any (fun f => f.1 == 4)) && !ds.isEmpty && decide (p.dies < 16) && ds.all (fun d => (s.die d).pcfg == p.dies && (s.die d).started && decide (s.sharesOn d + p.chipShare ≤ (s.die d).plim)) &&
  decide (16 ≤ p.reserve) && decide (p.reserve ≤ 1024) && decide (p.reserve ≤ p.frames.length) && decide (p.frames.length ≤ 2 ^ 26) &&
  (p.frames.take p.reserve).all (fun f => f.1 == 0) && p.frames.all (fun f => decide (f.1 ≤ 5)) &&
  own.all (fun f => s.frameState f.2 == .free && frameFits f.1 mint f.2) && (own.map (fun f => f.2)).eraseDups.length == own.length &&
  decide (p.contexts < 2 ^ 16) && [p.walkBudget, p.memBudget, p.fabBudget, p.copyBudget].all (fun n => decide (n < 2 ^ 32))
/-- The owner that a grant makes: the allotment, every other field zero, budgets full; keys are drawn for an encrypted owner (R416). -/
def builtOwner (p : OwnerSpec) : Owner :=
  { Owner.init with
    ostate := .built, frames := p.frames.length, reserve := p.reserve, contexts := p.contexts, walkBudget := p.walkBudget, memBudget := p.memBudget,
    fabBudget := p.fabBudget, copyBudget := p.copyBudget, share := p.chipShare, encrypted := p.encrypted, dies := p.dies, walkLeft := p.walkBudget,
    memLeft := p.memBudget, fabLeft := p.fabBudget, copyLeft := p.copyBudget, keySet := p.encrypted, vf := (diesOf p.dies).headD 0,
    fmap := p.frames.zipIdx.map (fun f => (f.2, ({ st := 1, ty := f.1.1, pinned := decide (f.2 < p.reserve), move := 0, frame := f.1.2 } : FEntry))) }
/-- OWNER_CREATE: FREE to BUILT, by the leading service pair; in any other state it is refused, and nothing changes (R120). -/
def execOwnerCreate (o : Nat) (spec : OwnerSpec) (s : State) : Host.Outcome State Fault Refusal :=
  if ownerOk o && s.led && (s.owner o).ostate != .free then .next s
  else if ownerOk o && s.led && s.specOk spec then
    let s : State := { s with requests := s.requests.filter (fun i => !(vfRequest i).any (fun r => r.1 == o)) }
    let s := s.setFrames .owned ((spec.frames.filter (fun f => decide (f.1 ≤ 1))).map (fun f => f.2))
    .next (s.setOwnerRec o (builtOwner spec))
  else .fault .notEnabled

/-! ## Slices end (R120, R121, R132, R133, R208) -/
/-- A group's pre-empt budget starts; at level U it enters the pre-empt handler at once (R121, R132). -/
def State.preemptGroup (s : State) (g kind pbud : Nat) : State :=
  (s.updGroup g (fun x => { x with pleft := s.cycle.toNat + pbud, preempt := some kind })).meetPreempt g
/-- RUNNING to PREEMPTING, with entries of kind 33 or 35; an owner with no group to save is SAVED. -/
def State.preemptOwner (s : State) (o kind : Nat) : State :=
  let s := ((s.commitOwner o).holdQueues o).setOstate o .preempting
  let pbud := (s.owner o).pbud.toNat
  let s := ((s.groupsOfOwner o).filter (fun g => (s.group g).gstate != .saved)).foldl (fun s g => s.preemptGroup g kind pbud) s
  if (s.groupsOfOwner o).all (fun g => (s.group g).gstate == .saved) then s.setOstate o .saved else s
/-- SLICE_END, by the leading service pair (R4, R408); of an owner that does not run it is refused, and nothing changes (R120). -/
def execSliceEnd (o : Nat) (s : State) : Host.Outcome State Fault Refusal :=
  if !s.led then .fault .notEnabled
  else if (s.owner o).ostate = .running then .next (s.preemptOwner o 33).flush
  else .next s
/-- PREEMPT_BUDGET_EXPIRY: the budget is spent, and the group is forced-saved (R133). -/
def execPreemptBudgetExpiry (g : Nat) (s : State) : Host.Outcome State Fault Refusal :=
  let x := s.group g
  if x.gstate != .free && x.gstate != .saved && x.spent s.cycle then .next ((s.forceSave g).afterSave x.team).flush else .fault .notEnabled

/-! ## Slices start (R120, R134, R135, R202, R208) -/
/-- A saved group goes on where it was forced-saved, from what its frame holds (R134). -/
def State.resumeForced (s : State) (g : Nat) : State :=
  let x := s.group g
  let base := s.frameVa g (if x.level = 2 then 1 else 0)
  let (pc, s) := restoreBlock g (base + 0x2000) s
  let (lane, s) := restoreDev g (base + 0x2000) x.dev x.lane s
  let (lane, s) := restoreQueues g (base + 0x2000) lane s
  let (_, s) := restoreVectors g base s
  s.updGroup g (fun y => { y with pc := pc, lane := lane, gstate := .ready }.mergeReplies)
/-- A cooperatively saved group is back at the state of its pre-empt entry and enters the resume handler (R134). -/
def State.resumeCoop (s : State) (g : Nat) : State :=
  let s := s.returnLevel g
  (s.enter g 36 0 0 0 0 (s.group g).pc none 0).updGroup g (fun y => { y with gstate := .ready, coop := false })
/-- The lane-private slices of a group in its core's SRAM: nothing preserves those of a cooperative save, and they hold free values (R132; log entry 2). -/
def State.placeSlices (s : State) (g : Nat) : State :=
  let n := 8 * (s.descOf (s.group g).team).lanepriv
  let at_ := s.privAt (s.group g).team (s.group g).idx
  if (s.group g).coop then
    { s with freeIdx := s.freeIdx + n }.updGroup g (fun x => { x with privAt := at_, priv := Store.zero.loseFrom at_ s.freeIdx n })
  else s.updGroup g (fun x => { x with privAt := at_ })
/-- A saved group becomes READY on a core, in a context of it; its completion area clears (R135). -/
def State.resumeGroup (s : State) (g core : Nat) : State :=
  let c := s.freeCtx core
  let s := s.placeSlices g
  let s := if (s.group g).coop then s.resumeCoop g else s.resumeForced g
  (s.updGroup g (fun y => { y with ctx := c, wake := s.steps })).clearArea g
/-- The scratchpad of a team that resumes at an offset of its new core's SRAM: from its team frames where one of its groups was forced, else free values, which nothing
preserves (R132, R133; log entry 2). -/
def State.placeScratch (s : State) (t at_ : Nat) : State :=
  let n := (s.descOf t).scratch / 4
  if (s.team t).forced then
    s.updTeam t (fun x => { x with sramAt := at_, sram := loadStore s (s.kernelOf t).owner .zero at_ (s.teamFrameVa t) n })
  else
    { s with freeIdx := s.freeIdx + n }.updTeam t (fun x => { x with sramAt := at_, sram := Store.zero.loseFrom at_ s.freeIdx n })
/-- Staged tiles that nothing preserves are free values (R132; log entry 2). -/
def MatrixOp.loseTiles (m : MatrixOp) (k : Nat) : MatrixOp :=
  let lose (b : Nat) (ws : List (Word × Bool)) : List (Word × Bool) := ws.zipIdx.map (fun e => (Config.freeWord (b + e.2), Config.freeBit (b + e.2)))
  { m with staged := m.staged.map (fun x => (lose k x.1, lose (k + x.1.length) x.2.1, x.2.2.1, x.2.2.2)) }
/-- The staging of a team that resumes (R132, R133, R134). -/
def State.placeTiles (s : State) (t : Nat) : State :=
  if (s.team t).forced then s.run (restoreTiles t)
  else
    (s.stagedOps t).foldl (fun s m =>
      { s with matrix := tabPut s.matrix m.1 (m.2.loseTiles s.freeIdx), freeIdx := s.freeIdx + m.2.tiles.length }) s
/-- A saved team is PLACED again on a core, its scratchpad and staging restored first where one of its groups was forced (R133, R134); a restore acquires at .dev (R245).
On another core its set's mirror slots are not seen (R227). -/
def State.resumeTeam (s : State) (t core : Nat) : State :=
  let gs := s.groupsOf t
  let at_ := s.sramRun core (s.descOf t).claim.sram
  let s := s.dropCopies (dieOfCore core)
  let s := if (s.team t).core = core then s else s.clearMirrors t core
  let s := (s.placeScratch t at_).placeTiles t
  let s := s.updTeam t (fun x => { x with tstate := .placed, core := core, forced := false })
  gs.foldl (fun s g => s.resumeGroup g core) s
/-- Cores of one cluster for logical cores, where each may stand: the teams of logical cores 2k and 2k + 1 on one core pair (R204). -/
def pickFor (ok : Nat → Bool) (base : Nat) (want : List Nat) (done : List (Nat × Nat)) : List Nat → Option (List (Nat × Nat))
  | [] => some done
  | l :: r =>
    let free (c : Nat) : Bool := ok c && !done.any (fun (e : Nat × Nat) => e.2 == c)
    let mate (n : Nat) : Nat := if n % 2 = 0 then n + 1 else n - 1
    let c := match done.find? (fun (e : Nat × Nat) => e.1 == mate l) with
      | some e => if free (mate e.2) then some (mate e.2) else none
      | none => ((List.range 8).map (base + ·)).find? (fun c => free c && (!want.contains (mate l) || free (mate c)))
    match c with
    | none => none
    | some c => pickFor ok base want (done ++ [(l, c)]) r
/-- The first cluster of a list that has such cores. -/
def pickCluster (ok : Nat → Bool) (want : List Nat) : List Nat → Option (List (Nat × Nat))
  | [] => none
  | cl :: r =>
    match pickFor ok (cl * Config.cores) want [] want with
    | some x => some x
    | none => pickCluster ok want r
/-- The saved teams of a kernel's set, and the sets of a kernel with saved teams. -/
def State.savedSet (s : State) (k j : Nat) : List (Nat × Team) :=
  (s.teamsOf k).filter (fun t => t.2.tstate == .saved && t.2.idx / (s.kernel k).d.span == j)
def State.savedSets (s : State) (k : Nat) : List Nat :=
  (((s.teamsOf k).filter (fun t => t.2.tstate == .saved)).map (fun t => t.2.idx / (s.kernel k).d.span)).eraseDups
/-- The cores on which a saved set goes on: those it had, where its teams still fit, else the first that fit in the partition (log entry 11). -/
def State.resumeCores (s : State) (k j : Nat) : Option (List (Nat × Nat)) :=
  let ts := s.savedSet k j
  let d := (s.kernel k).d
  let ok (c : Nat) : Bool := ((s.coreUse none c).add d.claim).ok
  let dies := diesOf (s.owner (s.kernel k).owner).dies
  if ts.all (fun t => ok t.2.core && dies.contains (dieOfCore t.2.core)) then some (ts.map (fun t => (t.1, t.2.core)))
  else
    (pickCluster ok (ts.map (fun t => t.2.idx % d.span)) (dies.map clustersOf).flatten).map (fun cs =>
      ts.filterMap (fun t => (cs.find? (fun (e : Nat × Nat) => e.1 == t.2.idx % d.span)).map (fun e => (t.1, e.2))))
/-- A saved set is placed on cores. -/
def State.resumeOn (s : State) (cores : List (Nat × Nat)) : State := cores.foldl (fun s (e : Nat × Nat) => s.resumeTeam e.1 e.2) s
/-- The sets of a list resume, all of them or none; what their kernel holds then leaves room for its producers (R207). -/
def State.resumeAll (s : State) (k : Nat) : List Nat → Option State
  | [] => some s
  | j :: r =>
    match s.resumeCores k j with
    | none => none
    | some cs =>
      if (s.resumeOn cs).leavesAll (s.kernel k).owner k then (s.resumeOn cs).resumeAll k r else none
/-- The saved teams of a kernel resume: a cooperative kernel's only together (R208), another's set by set, where they fit. -/
def State.resumeKernel (s : State) (k : Nat) : State :=
  if (s.kernel k).lrec.flags % 2 = 1 then (s.resumeAll k (s.savedSets k)).getD s
  else (s.savedSets k).foldl (fun s j => (s.resumeAll k [j]).getD s) s
/-- The kernels of an owner. -/
def State.kernelsOf (s : State) (o : Nat) : List Nat := (s.kernels.filter (fun k => k.2.owner == o)).map (fun k => k.1)
/-- SLICE_START: READY or SAVED to RUNNING; in RUNNING, saved teams for which there was no room resume once there is (R202, R208). None starts on a
die that quiesces (R412), nor without a leading service pair (R408); in any other state it is refused, and nothing changes (R120). -/
def execSliceStart (o : Nat) (s : State) : Host.Outcome State Fault Refusal :=
  let go (s : State) : State := (s.kernelsOf o).foldl State.resumeKernel s
  if s.pchanges.any (fun c => (diesOf (s.owner o).dies).any (fun d => c.dies / 2 ^ d % 2 == 1)) then .fault .notEnabled
  else match (s.owner o).ostate with
  | .ready | .saved => if !s.led then .fault .notEnabled else .next (go ((s.setOstate o .running).releaseQueues o)).flush
  | .running => .next (go s).flush
  | .free | .built | .preempting | .stopping | .stopped | .teardown => if !s.led then .fault .notEnabled else .next s

/-! ## Teardown and scrubbing (R120, R183, R286, R414, R416) -/
/-- Every frame goes back to level S: SCRUB, with its entry ABSENT and a move's target behind the indexes. Kernels end without a completion word, queues unbind, exports clear, and the owner's keys are destroyed. A transfer
that waited for one of its moves may start (R414). -/
def State.teardown (s : State) (o : Nat) : State :=
  let gone (s : State) (t : Nat) : Bool := (s.kernelOf t).owner == o
  let s := (s.queuesOf o).foldl State.unbind s
  let moved := (s.moves.filter (fun m => m.2.owner == o)).map (fun m => m.2.target)
  let held := (s.owner o).fmap.filterMap (fun e => if e.2.st != 0 && decide (e.2.ty ≤ 1) then some (e.1, { e.2 with st := 0, pinned := false, move := 0 }) else none)
  let s := s.setFrames .scrub (held.map (fun e => e.2.frame) ++ moved)
  let gs := s.groupsOfOwner o
  State.tryTransfers ({ s with
    moves := s.moves.filter (fun m => m.2.owner != o)
    exports := s.exports.filter (fun e => !(e.2.getLsbD 63 && fld e.2 34 8 == o))
    tlb := s.tlb.filter (fun e => e.owner != o)
    waits := s.waits.filter (fun e => e.owner != o)
    walks := s.walks.filter (fun w => w.owner != o)
    parks := s.parks.filter (fun p => p.2.owner != o)
    matrix := s.matrix.filter (fun m => !gs.contains m.2.group)
    groups := s.groups.filter (fun g => !gs.contains g.1)
    teams := s.teams.filter (fun t => !gone s t.1)
    kernels := s.kernels.filter (fun k => k.2.owner != o)
  }.updOwner o (fun x =>
    { x with
      ostate := .teardown, frames := 0, teardownNext := false, routines := [], region := [], wsetup := none, comms := [], fgrows := [], chip := .zero,
      carved := [], keySet := false,
      fmap := held ++ moved.zipIdx.map (fun (f : Nat × Nat) => (2 ^ 26 + f.2, { FEntry.absent with frame := f.1 })) }))
/-- A frame of an owner in TEARDOWN is scrubbed; with its last one the owner number is FREE (R120). -/
def State.settleTeardown (s : State) (f : Nat) : State :=
  s.owners.foldl (fun s o =>
    if o.2.ostate = .teardown && o.2.fmap.any (fun e => e.2.frame == f) then
      let rest := o.2.fmap.filter (fun e => e.2.frame != f)
      if rest.isEmpty then { s with owners := tabDel s.owners o.1 } else s.setOwner o.1 { o.2 with fmap := rest }
    else s) s
/-- Where a scrubbed frame goes: to the place of the transfer that waits for it, or to the free pool (R286, R414). -/
def State.landFrame (s : State) (f : Nat) : State :=
  match s.transfers.find? (fun t => t.2.frames.any (fun e => e.2 == f)) with
  | none => s.setFrames .free [f]
  | some (id, t) =>
    let i := ((t.frames.find? (fun e => e.2 == f)).map (fun e => e.1)).getD 0
    (s.giveFrame t i f).endTransfer id { t with frames := t.frames.filter (fun e => e.2 != f) }
/-- SCRUB_COMPLETE: the frame holds zeros with valid codes, and no cached copy of it is left. -/
def execScrubComplete (frame : Nat) (s : State) : Host.Outcome State Fault Refusal :=
  if s.frameState frame = .scrub then .next (((s.scrubFrame frame).landFrame frame).settleTeardown frame).flush else .fault .notEnabled

/-! ## STOP_SEQUENCE_COMPLETE (R136, R137, R427) -/
/-- The stop record, with its flags byte. -/
def State.stopRecord (s : State) (o flags : Nat) : List DWord :=
  let x := s.owner o
  let saved := ((s.groupsOfOwner o).filter (fun g => (s.group g).gstate == .saved)).length
  [BitVec.ofNat 64 (x.reason + flags * 256 + x.stopArg % 2 ^ 32 * 2 ^ 32), BitVec.ofNat 64 x.seq, x.stopCycle,
   BitVec.ofNat 64 (saved % 2 ^ 32 + x.further % 2 ^ 32 * 2 ^ 32), x.stopVa, x.stopSpc, x.stopFrame] ++ List.replicate 57 0
/-- The place of the wake line, where it names a word of host memory (R136). -/
def State.wakePlace (s : State) (o : Nat) : Option Loc × State :=
  let va := (s.owner o).wline.toNat
  if va = 0 then (none, s)
  else
    match s.xlateFor o va 1 with
    | (.ok (.host ha c) _ _ _, s1) => (some (.host ha c), s1)
    | (_, s1) => (none, s1)
/-- The record and the wake line are written, or the interrupt is signalled; the owner is STOPPED, and goes on to TEARDOWN after a teardown request. -/
def State.finishStop (s : State) (o : Nat) : State :=
  let s := s.setOstate o .stopped
  let (l, s) := s.wakePlace o
  let s := s.putReserve64s o (reserveBase + 0x1000) (s.stopRecord o (if l.isSome then 0 else 1))
  let s := match l with
    | some l => s.homeWrite64 l ((s.owner o).ostat >>> 16)
    | none => s.interrupt o
  if (s.owner o).teardownNext then s.teardown o else s
/-- An engine operation of the owner has not completed, or a reply has not reached memory (R136, R314). -/
def State.unfinished (s : State) (o : Nat) : Bool :=
  s.copies.any (fun c => c.2.owner == o) || s.colls.any (fun c => c.2.owner == o) || s.fabricOut.any (fun r => r.2.owner == o && r.2.kind != 1)
/-- STOP_SEQUENCE_COMPLETE: every engine operation of the owner has completed, and every reply is in. -/
def execStopSequenceComplete (o : Nat) (s : State) : Host.Outcome State Fault Refusal :=
  if (s.owner o).ostate = .stopping && !s.unfinished o then
    .next (s.finishStop o).flush
  else .fault .notEnabled

/-! ## VREQ (R118, R120, R321) -/
/-- A request of the virtual function is answered in VREQST: done, or refused with a reason. -/
def State.vreqDone (s : State) (o : Nat) : State := s.updOwner o (fun x => { x with vreqst := statDone x.vreqst 0 })
def State.vreqRefuse (s : State) (o reason : Nat) : State := s.updOwner o (fun x => { x with vreqst := statRefused x.vreqst reason })
/-- A refusal whose reason the manual does not number (log entry 2). -/
def State.vreqFree (s : State) (o : Nat) : State := let (r, s) := s.freeReason; s.vreqRefuse o r
/-- VREQ_ACTIVATE: BUILT to READY where the record is valid. -/
def State.activate (s : State) (o : Nat) : State :=
  let x := s.owner o
  if x.ostate = .built then
    if x.recordFails = 0 then (s.setOstate o .ready).vreqDone o else s.vreqRefuse o x.recordFails
  else s.vreqFree o
def execVreqActivate (o : Nat) (s : State) : Host.Outcome State Fault Refusal :=
  if ownerOk o then s.asked (.vreqActivate o) (fun s => .next (s.activate o)) else .fault .notEnabled
/-- VREQ_STOP: a stop cause with reason 6. -/
def State.hostStop (s : State) (o : Nat) : State :=
  match (s.owner o).ostate with
  | .built | .ready | .running | .preempting | .saved | .stopping => (s.stopOwner o 6 0 0 none).vreqDone o
  | .free | .stopped | .teardown => s.vreqFree o
def execVreqStop (o : Nat) (s : State) : Host.Outcome State Fault Refusal :=
  if ownerOk o then s.asked (.vreqStop o) (fun s => .next (s.hostStop o).flush) else .fault .notEnabled
/-- VREQ_RESUME: STOPPED to SAVED, but not after a stop with reason 7, and only with a valid record. -/
def State.hostResume (s : State) (o : Nat) : State :=
  let x := s.owner o
  if x.ostate = .stopped then
    if x.reason = 7 then s.vreqRefuse o 7
    else if x.recordFails = 0 then (s.setOstate o .saved).vreqDone o
    else s.vreqRefuse o x.recordFails
  else s.vreqFree o
def execVreqResume (o : Nat) (s : State) : Host.Outcome State Fault Refusal :=
  if ownerOk o then s.asked (.vreqResume o) (fun s => .next (s.hostResume o)) else .fault .notEnabled
/-- VREQ_TEARDOWN: at once from STOPPED; before that, a stop cause with reason 7 whose sequence goes on into TEARDOWN. -/
def State.hostTeardown (s : State) (o : Nat) : State :=
  match (s.owner o).ostate with
  | .stopped => (s.vreqDone o).teardown o
  | .built | .ready | .running | .preempting | .saved | .stopping =>
    ((s.stopOwner o 7 0 0 none).updOwner o (fun x => { x with teardownNext := true })).vreqDone o
  | .free | .teardown => s.vreqFree o
def execVreqTeardown (o : Nat) (s : State) : Host.Outcome State Fault Refusal :=
  if ownerOk o then s.asked (.vreqTeardown o) (fun s => .next (s.hostTeardown o).flush) else .fault .notEnabled

/-! ## VOCTX_WRITE (R118) -/
/-- An owner-context field as the virtual function sets it: unchecked, without the bits that are reserved (R12, R291), and a fault-queue field empties the queue. -/
def Owner.setField (x : Owner) (i : Nat) (v : DWord) : Owner :=
  let w := v &&& 0xFFFFFFFF
  let cap := v &&& 0x1FFFF
  match i with
  | 0 => { x with hvec := v } | 1 => { x with pvec := v } | 2 => { x with rvec := v } | 3 => { x with pbud := w } | 4 => { x with wline := v }
  | 5 => { x with spool := v } | 6 => { x with fqbase := v, fqhead := 0, fqtail := 0 } | _ => { x with fqcap := cap, fqhead := 0, fqtail := 0 }
/-- The write is ignored outside BUILT, SAVED and STOPPED, and for a fault-queue field while the queue holds records. -/
def Owner.mayField (x : Owner) (i : Nat) : Bool :=
  (x.ostate == .built || x.ostate == .saved || x.ostate == .stopped) && (decide (i < 6) || x.fqtail == x.fqhead)
/-- VOCTX_WRITE. -/
def execVoctxWrite (o i : Nat) (v : DWord) (s : State) : Host.Outcome State Fault Refusal :=
  if ownerOk o && i < 8 then
    .next (if (s.owner o).mayField i then s.setOwnerRec o ((s.owner o).setField i v) else s)
  else .fault .notEnabled

/-! ## BUDGET_WINDOW_START (R115, R403, R404, R417) -/
/-- The owner's budgets refill. What the device's own walks still owe, which only a turn that stops the owner leaves, comes off the walk budget first (R115; log entry 5). -/
def Owner.refill (x : Owner) : Owner :=
  { x with
    walkLeft := x.walkBudget - x.walkDebt, walkDebt := x.walkDebt - x.walkBudget, memLeft := x.memBudget, fabLeft := x.fabBudget, copyLeft := x.copyBudget,
    dry := decide (0 < x.walkBudget ∧ x.walkBudget ≤ x.walkDebt) }
/-- A port that trains has trained through one window more (R303). -/
def Port.windowBegins (p : Port) : Port := if p.st = 1 then { p with trained := p.trained + 1 } else p
/-- BUDGET_WINDOW_START: every budget refills, and accesses that waited for the fabric budget leave their ports; a window in which a budget reached zero is counted; the
counts of the window that ends are gone. -/
def execBudgetWindowStart (s : State) : Host.Outcome State Fault Refusal :=
  let dry := (s.owners.filter (fun o => o.2.dry)).map (fun o => (o.1, (diesOf o.2.dies).headD 0))
  let s := dry.foldl (fun s (o : Nat × Nat) => s.count o.2 o.1 28 1) s
  let s : State := { s with
    owners := s.owners.map (fun o => (o.1, o.2.refill))
    window := s.window + 1
    capped := false
    dieRegs := s.dieRegs.map (fun d => (d.1, { d.2 with replays := [], spoke := [], ports := d.2.ports.map (fun p => (p.1, p.2.windowBegins)) }))
    flight := [] }
  .next s.departs

end Sys2Proof.Machine
end

