-- ==== Sys2Proof/Machine/HostPort.lean ====
section
/-! DEFINITION. The host: its accesses to device memory and its snoops, and the requests an owner makes through its virtual function: walk set-up, communicators,
exports, imports, revocations (R105, R110, R118, R255, R273 to R275, R306, R307, R315, R321, R322). -/
namespace Sys2Proof.Machine

/-! ## HOST_WRITE, HOST_READ, HOST_ATOMIC, HOST_SNOOP (R105, R110, R118, R235, R255) -/
/-- The place of an owner's address as its virtual function reaches it, with whether it lies in the records of R118: device memory only. -/
def State.hostPlace (s : State) (o : Nat) (va : DWord) (kind : Nat) : Option (Loc × Bool) × State :=
  match s.xlateFor o va.toNat (kind + 4) with
  | (.ok (.dev ma) _ ofi off, s1) => (some (.dev ma, inRecord ofi off), s1)
  | (_, s1) => (none, s1)
/-- A host access: of an owner that has frames, naturally aligned, to device memory. -/
def hostAccess (o : Nat) (va : DWord) (wd : MWidth) (kind : Nat) (s : State) (f : Loc → Bool → State → State) : Host.Outcome State Fault Refusal :=
  if ownerOk o && (s.owner o).alive && va.toNat % widthBytes wd = 0 then
    match s.hostPlace o va kind with
    | (some (l, r), s1) => .next (f l r s1).flush
    | (none, _) => .fault .notEnabled
  else .fault .notEnabled
/-- What the host stores at a place, with codes made at the port; bytes merge into the old word, and the records of R118 take nothing (R105, R109). -/
def State.hostPut (s : State) (o : Nat) (l : Loc) (inRec : Bool) (wd : MWidth) (v : DWord) : State :=
  let narrow (n : Nat) : State :=
    let ((old, bad), s) := s.homeRead o l.word
    let x := mergeBytes old l.byte n v.toNat
    s.homeWrite l.word x (codeFor x bad l.word.off)
  if inRec then s
  else match wd with
    | .b => narrow 1
    | .h => narrow 2
    | .w => s.homeWrite l (v.truncate 32) (checkCode (v.truncate 32) l.off)
    | .d => s.homeWrite64 l v
/-- HOST_WRITE: at the home. -/
def execHostWrite (o : Nat) (va : DWord) (wd : MWidth) (v : DWord) (s : State) : Host.Outcome State Fault Refusal :=
  hostAccess o va wd 1 s (fun l r s => s.hostPut o l r wd v)
/-- HOST_READ: delivered unchecked (R110). -/
def execHostRead (o : Nat) (va : DWord) (wd : MWidth) (s : State) : Host.Outcome State Fault Refusal :=
  hostAccess o va wd 0 s (fun l _ s =>
    let w0 := (s.readLoc l.word).1
    let w1 := match wd with | .d => (s.readLoc (l.word.plus 4)).1 | .b | .h | .w => 0
    { s with hostData := widthValue wd l.off (w1 ++ w0) })
/-- HOST_ATOMIC: at the home's atomic unit; words only and double words (R382). -/
def execHostAtomic (o : Nat) (va : DWord) (op : AOp) (wd : MWidth) (b c : DWord) (s : State) : Host.Outcome State Fault Refusal :=
  match wd with
  | .b => .fault .notEnabled
  | .h => .fault .notEnabled
  | .w | .d =>
    hostAccess o va wd 2 s (fun l r s =>
      let (ws, t) := s.outerAtomic o l op wd b c false
      let v : DWord := (ws.getD 1 (0, 0)).1 ++ (ws.getD 0 (0, 0)).1
      { (if r then s else t) with hostData := v })
/-- The dies whose L2 holds a copy of a host line. -/
def State.hostHolders (s : State) (addr : Nat) : List Nat := (List.range 4).filter (fun d => (tabFind s.hostLines (addr / 64 * 4 + d)).isSome)
/-- HOST_SNOOP: the device's copies of a host line are written back, and kept clean or removed. -/
def execHostSnoop (addr : Nat) (invalidate : Bool) (s : State) : Host.Outcome State Fault Refusal :=
  if (s.hostHolders addr).isEmpty then .fault .notEnabled
  else .next { s with hostLines := (s.hostHolders addr).foldl (fun t d =>
    if invalidate then tabDel t (addr / 64 * 4 + d) else tabPut t (addr / 64 * 4 + d) false) s.hostLines }

/-! ## WSETUP and WALK_SETUP_LOADED (R273 to R275) -/
/-- One word at an owner's address, checked by unit src; none where it does not translate or is poisoned. -/
def State.ownWord (s : State) (o va src : Nat) : Option Word × State :=
  match s.xlateFor o va 0 with
  | (.ok l _ _ _, s1) =>
    let (w, c) := s1.readLoc l
    let (v, p, e) := consume w c l.off
    let s2 := if e = 0 then s1 else s1.reportFor e src o l.ma 0 (homeDie l.ma)
    (if p then none else some v, s2)
  | (.fault _ _, s1) => (none, s1) | (.range, s1) => (none, s1) | (.beyond, s1) => (none, s1) | (.wait, s1) => (none, s1)
/-- n words in a row. -/
def State.ownWords (s : State) (o va src : Nat) : Nat → Option (List Word) × State
  | 0 => (some [], s)
  | n + 1 =>
    match s.ownWord o va src with
    | (none, s1) => (none, s1)
    | (some w, s1) =>
      match s1.ownWords o (va + 4) src n with
      | (none, s2) => (none, s2)
      | (some r, s2) => (some (w :: r), s2)
/-- Byte i of words. -/
def wordsByte (ws : List Word) (i : Nat) : Nat := (ws.getD (i / 4) 0).toNat / 256 ^ (i % 4) % 256
/-- The n bytes from byte i, the lowest least significant. -/
def wordsLe (ws : List Word) (i : Nat) : Nat → Nat
  | 0 => 0
  | n + 1 => wordsByte ws i + 256 * wordsLe ws (i + 1) n
/-- What a walk-setup descriptor says: for each routine its address, its length and its Root; and the region map. -/
structure WalkDesc where
  routines : List (Nat × Nat × Nat)
  region : List Nat
  deriving DecidableEq, Repr
/-- The descriptor in 92 words (R274); none where it breaks a limit. -/
def parseWalkDesc (ws : List Word) : Option WalkDesc :=
  let r := wordsByte ws 0
  let code (i : Nat) : Nat := wordsLe ws (0x110 + 24 * i) 8
  let len (i : Nat) : Nat := wordsLe ws (0x118 + 24 * i) 4
  let root (i : Nat) : Nat := wordsLe ws (0x120 + 24 * i) 8
  let region := (List.range 256).map (fun j => wordsByte ws (0x10 + j))
  if 1 ≤ r && r ≤ 4 && wordsLe ws 1 15 = 0 && region.all (fun b => decide (b < r) || b == 255) &&
     (List.range 4).all (fun i =>
       if i < r then code i % 4 == 0 && decide (4 ≤ len i) && decide (len i ≤ 4096) && len i % 4 == 0 && wordsLe ws (0x11C + 24 * i) 4 == 0
       else wordsLe ws (0x110 + 24 * i) 24 == 0) then
    some { routines := (List.range r).map (fun i => (code i, len i, root i)), region := region }
  else none
/-- The routines of a descriptor are read; none where one does not translate or is poisoned. -/
def State.readRoutines (s : State) (o : Nat) : List (Nat × Nat × Nat) → Option (List Routine) × State
  | [] => (some [], s)
  | (va, len, root) :: r =>
    match s.ownWords o va 5 (len / 4) with
    | (none, s1) => (none, s1)
    | (some ws, s1) =>
      match s1.readRoutines o r with
      | (none, s2) => (none, s2)
      | (some rs, s2) => (some ({ words := ws.map BitVec.toNat, length := len, root := BitVec.ofNat 64 root } :: rs), s2)
/-- A set-up has ended with a result: it is counted (R273). -/
def Owner.endSetup (x : Owner) (result : Nat) : Owner := { x with wresult := result, wdone := x.wdone + 1, wsetup := none }
/-- WSETUP: ignored while busy, FREE or in TEARDOWN; refused for a bad descriptor or one that cannot be read; else busy until it takes effect. -/
def State.startSetup (s : State) (o : Nat) (desc : DWord) : State :=
  let x := s.owner o
  let va := (desc &&& 0x00FFFFFFFFFFFFFF).toNat
  let refuse (s : State) (n : Nat) : State := s.updOwner o (fun x => x.endSetup n)
  if !x.alive || x.wresult = 1 then s
  else if va % 64 ≠ 0 then refuse s 4
  else
    match s.ownWords o va 5 92 with
    | (none, s1) => refuse s1 5
    | (some ws, s1) =>
      match parseWalkDesc ws with
      | none => refuse s1 4
      | some d =>
        match s1.readRoutines o d.routines with
        | (none, s2) => refuse s2 5
        | (some rs, s2) => s2.updOwner o (fun x => { x with wresult := 1, wsetup := some (rs, d.region) })
def execWsetup (o : Nat) (desc : DWord) (s : State) : Host.Outcome State Fault Refusal :=
  if ownerOk o then .next (s.startSetup o desc).flush else .fault .notEnabled
/-- The walk-routine slots that other owners hold on a die (R2, R275). -/
def State.slotsUsed (s : State) (d o : Nat) : Nat :=
  (s.owners.filter (fun e => e.1 != o && (diesOf e.2.dies).contains d)).foldl (fun n e => n + e.2.routines.length) 0
/-- WALK_SETUP_LOADED: on every die of the partition in one step, or refused with result 3 where a die lacks the slots. A walk that waits for the budget begins again. -/
def execWalkSetupLoaded (o : Nat) (s : State) : Host.Outcome State Fault Refusal :=
  let x := s.owner o
  match x.wsetup with
  | none => .fault .notEnabled
  | some (rs, region) =>
    if (diesOf x.dies).all (fun d => decide (s.slotsUsed d o + rs.length ≤ Config.walkSlots)) then
      .next ({ s with tlb := s.tlb.filter (fun e => e.owner != o) }.setOwner o
        ({ x with routines := rs, region := region, walkPaid := [] }.endSetup 2))
    else .next (s.setOwner o (x.endSetup 3))

/-! ## COMMUNICATOR_SETUP, COMMUNICATOR_DELETE (R315, R321, R322) -/
/-- What a communicator descriptor asks for. -/
structure ComDesc where
  comm : Nat
  delete : Bool
  rank : Nat
  timeout : Nat
  contexts : Nat
  members : List (Nat × Nat)
  deriving DecidableEq, Repr
/-- The fixed 16 bytes as words: the number of members, none where they break the table. -/
def comHead (ws : List Word) : Option (Nat × ComDesc) :=
  let n := wordsLe ws 2 2
  let d : ComDesc :=
    { comm := wordsByte ws 0, delete := wordsByte ws 1 % 2 == 1, rank := wordsLe ws 4 2, timeout := wordsLe ws 6 2, contexts := wordsByte ws 8, members := [] }
  if d.comm < 64 && wordsByte ws 1 < 2 && wordsLe ws 9 7 = 0 &&
     (d.delete || (decide (2 ≤ n) && decide (n ≤ 1024) && decide (d.rank < n) && decide (1 ≤ d.timeout) && decide (d.contexts ≤ 8))) then
    some (if d.delete then 0 else n, d)
  else none
/-- A member entry; none where its reserved bits are not zero. -/
def comMember (w : Word) : Option (Nat × Nat) := if w.toNat < 2 ^ 18 then some (w.toNat % 1024, w.toNat / 1024) else none
/-- The descriptor at an owner's address; none where it cannot be read or breaks the table. -/
def State.readCom (s : State) (o : Nat) (desc : DWord) : Option ComDesc × State :=
  let va := (desc &&& 0x00FFFFFFFFFFFFFF).toNat
  if va % 16 ≠ 0 then (none, s)
  else
    match s.ownWords o va 13 4 with
    | (none, s1) => (none, s1)
    | (some ws, s1) =>
      match comHead ws with
      | none => (none, s1)
      | some (n, d) =>
        match s1.ownWords o (va + 16) 13 n with
        | (none, s2) => (none, s2)
        | (some ms, s2) =>
          let es := ms.filterMap comMember
          (if es.length = n then some { d with members := es } else none, s2)
/-- The request is answered in COMST: done with a granted value, or refused. -/
def State.comDone (s : State) (o granted : Nat) : State := s.updOwner o (fun x => { x with comst := statDone x.comst granted })
def State.comRefuse (s : State) (o : Nat) : State :=
  let (r, s) := s.freeReason
  s.updOwner o (fun x => { x with comst := statRefused x.comst r })
/-- A request of the communicator registers, with the contexts level S allots; none where the descriptor is of the other kind. -/
def State.comRequest (s : State) (o : Nat) (desc : DWord) (delete : Bool) (contexts : Nat) : Option State :=
  match s.readCom o desc with
  | (none, s1) => some (s1.comRefuse o)
  | (some d, s1) =>
    if d.delete != delete then none
    else if delete then
      if (tabFind (s1.owner o).comms d.comm).isNone || s1.colls.any (fun c => c.2.owner == o && c.2.comm == d.comm) then some (s1.comRefuse o)
      else some ((s1.updOwner o (fun x => { x with comms := tabDel x.comms d.comm })).comDone o 0)
    else if d.contexts < contexts then none
    else if s1.colls.any (fun c => c.2.owner == o && c.2.comm == d.comm) then some (s1.comRefuse o)
    else
      let c : Comm := { members := d.members, rank := d.rank, timeout := d.timeout, contexts := contexts }
      some ((s1.updOwner o (fun x => { x with comms := tabPut x.comms d.comm c })).comDone o contexts)
/-- A request that may be made: by an owner that has frames, of the kind that its descriptor names. -/
def ownerRequest (i : Instr) (o : Nat) (s : State) (r : State → Option State) : Host.Outcome State Fault Refusal :=
  if ownerOk o && (s.owner o).alive then
    s.asked i (fun s =>
      match r s with
      | some t => .next t.flush
      | none => .fault .notEnabled)
  else .fault .notEnabled
/-- COMMUNICATOR_SETUP. -/
def execCommunicatorSetup (o : Nat) (desc : DWord) (contexts : Nat) (s : State) : Host.Outcome State Fault Refusal :=
  ownerRequest (.communicatorSetup o desc contexts) o s (fun s => s.comRequest o desc false contexts)
/-- COMMUNICATOR_DELETE: refused while a collective uses it. -/
def execCommunicatorDelete (o : Nat) (desc : DWord) (s : State) : Host.Outcome State Fault Refusal :=
  ownerRequest (.communicatorDelete o desc) o s (fun s => s.comRequest o desc true 0)

/-! ## EXPORT_REQUEST, IMPORT_REQUEST, REVOKE_REQUEST (R306, R307, R322) -/
/-- What an export, import or revoke descriptor asks for. -/
structure ExpDesc where
  kind : Nat
  perm : Nat
  peer : Nat
  owner : Nat
  first : Nat
  count : Nat
  index : Nat
  deriving DecidableEq, Repr
/-- The descriptor in 8 words; none where it breaks the table. -/
def parseExp (ws : List Word) : Option ExpDesc :=
  let d : ExpDesc :=
    { kind := wordsByte ws 0, perm := wordsByte ws 1, peer := wordsLe ws 2 2, owner := wordsByte ws 4, first := wordsLe ws 8 4, count := wordsLe ws 12 4,
      index := wordsLe ws 16 4 }
  if 1 ≤ d.kind && d.kind ≤ 3 && d.perm < 8 && d.peer < 1024 && wordsLe ws 5 3 = 0 && 1 ≤ d.count && d.count ≤ 65536 && wordsLe ws 20 12 = 0 &&
     (d.kind != 1 || d.index == 0) then some d
  else none
def State.readExp (s : State) (o : Nat) (desc : DWord) : Option ExpDesc × State :=
  let va := (desc &&& 0x00FFFFFFFFFFFFFF).toNat
  if va % 4 ≠ 0 then (none, s)
  else
    match s.ownWords o va 13 8 with
    | (none, s1) => (none, s1)
    | (some ws, s1) => (parseExp ws, s1)
/-- The request is answered in EXPST. -/
def State.expDone (s : State) (o granted : Nat) : State := s.updOwner o (fun x => { x with expst := statDone x.expst granted })
def State.expRefuse (s : State) (o : Nat) : State :=
  let (r, s) := s.freeReason
  s.updOwner o (fun x => { x with expst := statRefused x.expst r })
/-- An export-table entry (R307). -/
def exportEntry (d : ExpDesc) (o i : Nat) : DWord :=
  BitVec.ofNat 64 (2 ^ 63 + d.perm * 2 ^ 60 + d.owner * 2 ^ 52 + d.peer * 2 ^ 42 + o * 2 ^ 34 + (d.first + i))
/-- Entries of the export table from one index on. -/
def State.putExports (s : State) (first : Nat) (f : Nat → DWord) (n : Nat) : State :=
  { s with exports := (List.range n).foldl (fun t i => if f i = 0 then tabDel t (first + i) else tabPut t (first + i) (f i)) s.exports }
/-- A run of the export table is free, or is all of one exporter's. -/
def State.exportsFree (s : State) (first n : Nat) : Bool :=
  decide (first + n ≤ 2 ^ 22) && (List.range n).all (fun i => !(tabGet 0 s.exports (first + i)).getLsbD 63)
def State.exportsOf (s : State) (o first n : Nat) : Bool :=
  decide (first + n ≤ 2 ^ 22) && (List.range n).all (fun i =>
    let e := tabGet 0 s.exports (first + i)
    e.getLsbD 63 && fld e 34 8 == o)
/-- A request of a kind with its descriptor; none where the descriptor is of another kind. -/
def State.expRequest (s : State) (o : Nat) (desc : DWord) (kind : Nat) (f : ExpDesc → State → Option State) : Option State :=
  match s.readExp o desc with
  | (none, s1) => some (s1.expRefuse o)
  | (some d, s1) => if d.kind = kind then f d s1 else none
/-- An export at the index that level S chooses; refused for an owner with encrypted memory and for frames it has not. -/
def State.exportFrames (s : State) (o first : Nat) (d : ExpDesc) : Option State :=
  let x := s.owner o
  if x.encrypted || decide (x.frames < d.first + d.count) || !(List.range d.count).all (fun i => (x.entry (d.first + i)).st != 0 && decide ((x.entry (d.first + i)).ty ≤ 1)) then
    some (s.expRefuse o)
  else if s.exportsFree first d.count then some ((s.putExports first (exportEntry d o) d.count).expDone o first)
  else none
/-- EXPORT_REQUEST. -/
def execExportRequest (o : Nat) (desc : DWord) (first : Nat) (s : State) : Host.Outcome State Fault Refusal :=
  ownerRequest (.exportRequest o desc first) o s (fun s => s.expRequest o desc 1 (fun d s => s.exportFrames o first d))
/-- An import: type 4 entries over ABSENT frames below Frames; refused for an owner with encrypted memory. -/
def State.importFrames (s : State) (o : Nat) (d : ExpDesc) : State :=
  let x := s.owner o
  if x.encrypted || decide (x.frames < d.first + d.count) || decide (2 ^ 22 < d.index + d.count) ||
     !(List.range d.count).all (fun i => (x.entry (d.first + i)).st == 0) then s.expRefuse o
  else
    ((s.dropFrames o d.first d.count).setOwner o { x with
      fmap := (List.range d.count).foldl (fun t i =>
        tabPut t (d.first + i) { st := 1, ty := 4, pinned := false, move := 0, frame := d.peer * 2 ^ 22 + d.index + i }) x.fmap }).expDone o d.index
/-- IMPORT_REQUEST. -/
def execImportRequest (o : Nat) (desc : DWord) (s : State) : Host.Outcome State Fault Refusal :=
  ownerRequest (.importRequest o desc) o s (fun s => s.expRequest o desc 2 (fun d s => some (s.importFrames o d)))
/-- REVOKE_REQUEST: entries of the owner are cleared. -/
def execRevokeRequest (o : Nat) (desc : DWord) (s : State) : Host.Outcome State Fault Refusal :=
  ownerRequest (.revokeRequest o desc) o s (fun s => s.expRequest o desc 3 (fun d s =>
    some (if s.exportsOf o d.index d.count then (s.putExports d.index (fun _ => 0) d.count).expDone o d.index else s.expRefuse o)))

/-! ## The registers of a virtual function (R273, R321) -/
/-- What a read of a register of owner o's virtual function gives; write-only registers and other offsets read as zero. -/
def State.vfRead (s : State) (o off : Nat) : DWord :=
  let x := s.owner o
  if off = 0x0000 then BitVec.ofNat 64 (x.dies * 256 + o) else if off = 0x0008 then x.ostat
  else if off = 0x0018 then x.vreqst else if off = 0x0108 then x.qbindst else if off = 0x0208 then x.comst else if off = 0x0308 then x.expst
  else if off = 0x0408 then BitVec.ofNat 64 (x.wdone % 2 ^ 32 * 2 ^ 32 + x.wresult)
  else if off = 0x0800 then x.hvec else if off = 0x0808 then x.pvec else if off = 0x0810 then x.rvec else if off = 0x0818 then x.pbud
  else if off = 0x0820 then x.wline else if off = 0x0828 then x.spool else if off = 0x0830 then x.fqbase else if off = 0x0838 then x.fqcap
  else if 0x1000 ≤ off && off < 0x1100 && off % 8 = 0 && off != 0x1000 && off != 0x1078 then
    tabGet 0 x.counters ((off - 0x1000) / 8)
  else 0
/-- The offsets whose write is a step of its own: VREQ with a request, QBIND, COMSET, EXPREQ, WSETUP and the owner-context fields. -/
def vfHasStep (off : Nat) (v : DWord) : Bool :=
  (off == 0x0010 && decide (1 ≤ fld v 0 3) && decide (fld v 0 3 ≤ 4)) || off == 0x0100 || off == 0x0200 || off == 0x0300 || off == 0x0400 ||
  (decide (0x0800 ≤ off) && decide (off < 0x0840) && off % 8 == 0)
/-- VF_REGISTER_WRITE: a write to a register with no behaviour of its own changes nothing; the other writes are steps of their own. -/
def execVfRegisterWrite (o off : Nat) (v : DWord) (s : State) : Host.Outcome State Fault Refusal :=
  if ownerOk o && off < 0x2000 && off % 8 = 0 && !vfHasStep off v then .next s else .fault .notEnabled

end Sys2Proof.Machine
end

