-- ==== Sys2Proof/Machine/Bundle.lean ====
section
/-! DEFINITION. The Skovrok bundle: its tables, the finalisation of its portable form, and its load (R42 to R49, R71, R198 to R200). -/
namespace Sys2Proof.Machine

/-! ## The tables of a bundle (R44 to R47) -/
/-- n bytes from offset i. -/
def cut (b : List Byte) (i n : Nat) : List Byte := (b.drop i).take n
/-- The number in n bytes from offset i, the lowest least significant. -/
def le (b : List Byte) (i n : Nat) : Nat := leNat (cut b i n)
/-- The n bytes from offset i are reserved and zero (R12). -/
def zeros (b : List Byte) (i n : Nat) : Bool := le b i n == 0

/-- One relocation (R47). -/
structure Reloc where
  site : Nat
  sect : Nat
  target : Nat
  addend : Nat
  deriving DecidableEq, Repr
/-- The contents of one image (R45). -/
structure CodeImage where
  rev : Nat
  scode : List Byte
  lcode : List Byte
  data : List Byte
  course : List Byte
  relocs : List Reloc
  entries : List Nat
  deriving DecidableEq, Repr

/-- A section of an image-table entry: within the bundle, 512-byte aligned, at most 16 MiB (R35, R45). -/
def sectionAt (b : List Byte) (e : Nat) : Option (List Byte) :=
  let off := le b e 4
  let n := le b (e + 4) 4
  if off % 512 = 0 ∧ off + n ≤ b.length ∧ n ≤ 2 ^ 24 then some (cut b off n) else none
/-- The relocations from offset i; each site lies within its section (R47). -/
def relocsAt (b : List Byte) (dsize csize i : Nat) : Nat → Option (List Reloc)
  | 0 => some []
  | n + 1 =>
    let r : Reloc := { site := le b i 4, sect := le b (i + 4) 1, target := le b (i + 5) 1, addend := le b (i + 8) 8 }
    let size := if r.sect = 2 then dsize else csize
    if i + 16 ≤ b.length ∧ (r.sect = 2 ∨ r.sect = 3) ∧ r.target ≤ 3 ∧ zeros b (i + 6) 2 ∧ r.site + 8 ≤ size then
      (relocsAt b dsize csize (i + 16) n).map (r :: ·)
    else none
/-- An image-table entry at offset e, of a bundle with k kernels (R45). Where its entry array or its sections overlap each other or a table, they are read all the same
(log entry 20). -/
def imageAt (b : List Byte) (k e : Nat) : Option CodeImage :=
  let ent := le b (e + 0x2C) 4
  match sectionAt b (e + 4), sectionAt b (e + 0x0C), sectionAt b (e + 0x14), sectionAt b (e + 0x1C) with
  | some sc, some lc, some da, some co =>
    match relocsAt b da.length co.length (le b (e + 0x24) 4) (le b (e + 0x28) 4) with
    | some rs =>
      if e + 48 ≤ b.length ∧ zeros b (e + 1) 3 ∧ ent % 4 = 0 ∧ ent + 4 * k ≤ b.length ∧ (k ≠ 0 ∨ ent = 0) then
        some { rev := le b e 1, scode := sc, lcode := lc, data := da, course := co, relocs := rs,
               entries := (List.range k).map (fun i => le b (ent + 4 * i) 4) }
      else none
    | none => none
  | _, _, _, _ => none
/-- The images of a bundle, each of a different revision 1 to 3 (R44, R45). -/
def imagesAt (b : List Byte) (k e : Nat) : Nat → Option (List CodeImage)
  | 0 => some []
  | n + 1 =>
    match imageAt b k e, imagesAt b k (e + 48) n with
    | some i, some r => if 1 ≤ i.rev ∧ i.rev ≤ 3 ∧ r.all (fun j => j.rev != i.rev) then some (i :: r) else none
    | _, _ => none

/-! ## The portable form (R48) -/
/-- A slot of a record: its kind and its 7-byte value. -/
structure Slot where
  kind : Nat
  value : Nat
  deriving DecidableEq, Repr
/-- The class of a register or suffix slot, and its index. -/
def Slot.cls (s : Slot) : Nat := Dec.bits s.value 48 8
def Slot.idx (s : Slot) : Nat := s.value % 2 ^ 16
/-- The 56-bit two's complement immediate. -/
def Slot.int (s : Slot) : Int := if s.value < 2 ^ 55 then s.value else (s.value : Int) - 2 ^ 56
/-- An instruction record. -/
structure Rec where
  form : Nat
  pred : Nat
  slots : List Slot
  deriving DecidableEq, Repr
/-- The record stands for a lane instruction (R71). -/
def Rec.lane (r : Rec) : Bool := decide (0x4000 ≤ r.form)
/-- The operand slots and the suffix slots of a record. -/
def Rec.operands (r : Rec) : List Slot := r.slots.filter (fun s => s.kind != 2)
def Rec.suffixes (r : Rec) : List Slot := r.slots.filter (fun s => s.kind == 2)
/-- n records from offset i, with the offset after them. -/
def recordsAt (b : List Byte) (i : Nat) : Nat → Option (List Rec × Nat)
  | 0 => some ([], i)
  | n + 1 =>
    let k := le b (i + 2) 1
    if i + 4 + 8 * k ≤ b.length ∧ k ≤ 15 then
      let r : Rec := { form := le b i 2, pred := le b (i + 3) 1,
                       slots := (List.range k).map (fun j => { kind := le b (i + 4 + 8 * j) 1, value := le b (i + 5 + 8 * j) 7 }) }
      (recordsAt b (i + 4 + 8 * k) n).map (fun x => (r :: x.1, x.2))
    else none

/-! ## The templates of the forms (R24, R25, R65 to R69, log entry 20) -/
/-- Where an operand slot goes in the word: a register of a class in a 6-bit field; the same with a negation; a control register; a
signed or unsigned number of n bits; a scalar target; a block; a flag that the form already names; a lane destination; a
predicate destination; a lane source; a lane target. An extension word lies from bit 32. -/
inductive Place where
  | reg (cls lo : Nat) | neg (cls lo nlo : Nat) | creg | num (lo n : Nat) | count (lo n : Nat) | jump (lo n : Nat)
  | block | same (n : Nat) | dst | pdst | src (k : Nat) | ljump (lo : Nat)
  deriving DecidableEq, Repr
/-- The lane source that a place fills. -/
def Place.source : Place → Option Nat
  | .src k => some k
  | .reg _ _ => none | .neg _ _ _ => none | .creg => none | .num _ _ => none | .count _ _ => none | .jump _ _ => none
  | .block => none | .same _ => none | .dst => none | .pdst => none | .ljump _ => none
/-- Where a suffix goes: n bits at lo; a value the form already names; a course family; a course count; a sign extension. -/
inductive SPlace where
  | field (lo n : Nat) | same (v : Nat) | family (lo : Nat) | courses (lo : Nat) | sext (lo w : Nat)
  deriving DecidableEq, Repr
/-- The operand lists a form may have, its suffixes in the order of R26, and whether the immediate field is its own. -/
structure Template where
  ops : List (List Place)
  sufs : List (Nat × SPlace)
  own : Bool
  deriving DecidableEq, Repr

/-- Scalar register fields d, a and b of a class. -/
def pD (c : Nat) : Place := .reg c 19
def pA (c : Nat) : Place := .reg c 13
def pB (c : Nat) : Place := .reg c 7
def plain (ops : List Place) : Option Template := some { ops := [ops], sufs := [], own := false }
/-- Order, scope, space and width of an S.X access (R68). -/
def attrSufs : List (Nat × SPlace) := [(2, .field 3 2), (5, .field 5 3), (6, .field 11 2), (7, .field 8 3)]

/-- Major 0x01 (R66). -/
def aluTemplate (m : Nat) : Option Template :=
  if m < 0x10 then plain [pD 0, pA 0, pB 0]
  else if m = 0x11 then plain [pD 0, pA 5]
  else if m = 0x10 ∨ m = 0x12 ∨ m = 0x13 then plain [pD 0, pA 0]
  else if 0x14 ≤ m ∧ m ≤ 0x16 then some { ops := [[pD 0, pA 0]], sufs := [(2, .same (m - 0x14))], own := false }
  else if 0x18 ≤ m ∧ m ≤ 0x1F then plain [pD 0, pA 0, pB 0, .same (m - 0x18)]
  else if m = 0x20 then some { ops := [[pD 1, pA 0, pB 0]], sufs := [(1, .field 22 3)], own := false }
  else none
/-- Major 0x02 (R67). -/
def sysTemplate (m : Nat) : Option Template :=
  match m with
  | 0x00 | 0x01 | 0x03 | 0x04 | 0x05 | 0x06 | 0x08 | 0x09 | 0x0A | 0x0B | 0x11 => plain []
  | 0x02 => some { ops := [[]], sufs := [(6, .field 11 2), (7, .field 8 3)], own := false }
  | 0x07 => some { ops := [[pA 0], []], sufs := [], own := false }
  | 0x0C | 0x12 | 0x15 | 0x34 | 0x3A => plain [pA 0]
  | 0x0D | 0x0E | 0x0F | 0x10 | 0x17 | 0x18 | 0x38 | 0x39 | 0x3B => plain [pA 0, pB 0]
  | 0x13 | 0x14 | 0x30 | 0x31 | 0x32 | 0x3E | 0x3F => plain [pD 0, pA 0, pB 0]
  | 0x16 => plain [pD 0, pA 0]
  | 0x20 => plain [pD 3, pA 0, pB 0]
  | 0x21 => plain [pD 3, pA 0]
  | 0x22 => plain [pD 4, pA 3]
  | 0x28 => plain [pD 2, pA 0]
  | 0x29 | 0x2A | 0x2B => plain [pD 2, pA 2, pB 2]
  | 0x2C => plain [pD 2, pA 2]
  | 0x2D | 0x2E => plain [pD 0, pA 2]
  | 0x33 => plain [pD 0]
  | 0x3C => plain [.count 19 6, pA 0, pB 0]
  | 0x3D => plain [pD 0, .count 7 6]
  | 0x40 => plain [pD 1, pA 0, pB 0]
  | 0x41 | 0x42 => plain [pD 0, pA 0, pB 1]
  | _ => none
/-- A scalar form (R65); the minor of a major without one is 0 (R71). -/
def scalarTemplate (major minor : Nat) : Option Template :=
  match major, minor with
  | 0x01, m => aluTemplate m
  | 0x02, m => sysTemplate m
  | 0x08, m => if m < 3 then plain [pD 0, pA 0, .count 0 6] else none
  | 0x0F, m =>
    if m = 0x20 then some { ops := [[pD 1, pA 0, .num 32 32]], sufs := [(1, .field 22 3)], own := false }
    else if m = 0 then some { ops := [[pD 0, pA 0, .num 32 32], [pD 0, .num 32 32]], sufs := [], own := false }
    else plain [pD 0, pA 0, .num 32 32]
  | 0x03, 0 | 0x04, 0 | 0x05, 0 | 0x06, 0 | 0x07, 0 | 0x09, 0 | 0x0A, 0 | 0x0B, 0 | 0x0C, 0 => plain [pD 0, pA 0, .num 0 13]
  | 0x0D, 0 => plain [pD 0, .num 0 13]
  | 0x0E, 0 => some { ops := [[pD 1, pA 0, .num 0 13]], sufs := [(1, .field 22 3)], own := false }
  | 0x10, 0 => plain [pD 0, .num 32 32]
  | 0x11, 0 | 0x13, 0 => plain [.jump 0 21]
  | 0x12, 0 => plain [.neg 1 22 21, .jump 0 21]
  | 0x14, 0 => plain [pD 0, .jump 0 13]
  | 0x15, 0 => some { ops := [[.block], [pD 2, .block]], sufs := [], own := false }
  | 0x16, 0 | 0x1A, 0 => some { ops := [[pD 0, .num 0 13, pA 0]], sufs := [(2, .same 0)], own := false }
  | 0x17, 0 | 0x1B, 0 => some { ops := [[pD 0, .num 0 13, pA 0]], sufs := [(2, .same 1)], own := false }
  | 0x18, 0 | 0x1C, 0 => some { ops := [[pD 0, .num 0 13, pA 0]], sufs := [(2, .same 2)], own := false }
  | 0x19, 0 | 0x1D, 0 => some { ops := [[pD 0, .num 0 13, pA 0]], sufs := [(2, .same 3)], own := false }
  | 0x1E, 0 | 0x1F, 0 | 0x27, 0 | 0x28, 0 => some { ops := [[pD 0, .num 32 32, pA 0]], sufs := attrSufs, own := false }
  | 0x20, 0 | 0x29, 0 =>
    some { ops := [[pD 0, .reg 0 58, .num 32 20, pA 0], [pD 0, .reg 0 52, .reg 0 58, .num 32 20, pA 0]],
           sufs := (1, .field 0 3) :: attrSufs, own := false }
  | 0x21, 0 => plain [pD 4, .num 0 13, pA 0]
  | 0x22, 0 | 0x23, 0 => plain [pD 0, .num 0 13, pA 0]
  | 0x24, 0 => plain [pD 0, .creg]
  | 0x25, 0 => plain [.creg, pA 0]
  | 0x26, 0 => plain [.count 0 12]
  | _, _ => none

/-- Space, order and scope of a lane access (R69). -/
def laneSufs : List (Nat × SPlace) := [(5, .field 38 3), (6, .field 36 2), (7, .field 33 3)]
def matrixSufs : List (Nat × SPlace) := [(2, .field 37 4), (2, .field 33 4)]
/-- A lane form (R69). -/
def laneTemplate (op : Nat) : Option Template :=
  let one : List Place := [.dst, .src 0]
  let two : List Place := [.dst, .src 0, .src 1]
  let three : List Place := [.dst, .src 0, .src 1, .src 2]
  let rounding : List (Nat × SPlace) := [(4, .field 32 2)]
  let shared (ops : List Place) (sufs : List (Nat × SPlace)) : Option Template := some { ops := [ops], sufs := sufs, own := false }
  let own (ops : List (List Place)) (sufs : List (Nat × SPlace)) : Option Template := some { ops := ops, sufs := sufs, own := true }
  match op with
  | 0x001 | 0x002 | 0x003 | 0x008 | 0x009 | 0x00A | 0x00C | 0x00D | 0x00E | 0x024 | 0x025 => shared two []
  | 0x004 | 0x006 | 0x007 => shared two [(1, .field 32 1)]
  | 0x005 => shared three []
  | 0x00B | 0x00F | 0x010 | 0x013 | 0x027 | 0x028 | 0x02A | 0x02B | 0x02C | 0x02D | 0x0A1 => shared one []
  | 0x011 => shared [.pdst, .src 0, .src 1] [(1, .field 32 3)]
  | 0x012 => shared [.dst, .src 0, .src 1, .neg 7 32 35] []
  | 0x020 | 0x021 | 0x022 => shared two rounding
  | 0x023 => shared three rounding
  | 0x026 => shared [.pdst, .src 0, .src 1] [(1, .field 32 4)]
  | 0x029 => shared one rounding
  | 0x030 | 0x031 | 0x032 | 0x033 => own [one, one ++ [.count 0 3]] (matrixSufs ++ [(4, .same (op % 4))])
  | 0x040 | 0x041 => shared three [(2, .field 32 4)]
  | 0x042 => own [three ++ [.count 0 9]] []
  | 0x050 => shared two [(1, .field 32 2)]
  | 0x051 => some { ops := [one], sufs := [(1, .field 32 2)], own := false }
  | 0x052 => shared one [(1, .field 32 4)]
  | 0x053 => shared one [(1, .same 0)]
  | 0x060 => own [[.ljump 0, .ljump 16], [.ljump 0]] []
  | 0x061 => own [[.ljump 0]] []
  | 0x062 => own [[]] []
  | 0x070 | 0x071 | 0x072 => own [[.dst, .num 0 32, .src 0]] ((2, .sext 32 (op % 4)) :: laneSufs)
  | 0x074 | 0x075 | 0x076 => own [[.src 1, .num 0 32, .src 0]] ((2, .same (op % 4)) :: laneSufs)
  | 0x078 | 0x079 | 0x07A | 0x07B | 0x07C | 0x07D | 0x07E =>
    own [[.dst, .src 1, .num 0 32, .src 0]] ((1, .same (op % 8)) :: laneSufs)
  | 0x07F => own [[.dst, .src 2, .src 1, .num 0 32, .src 0]] ((1, .same 7) :: laneSufs)
  | 0x080 => own [[.dst, .num 0 32, .src 0]] [(2, .family 34), (3, .courses 36), (4, .field 35 1), (5, .field 38 3)]
  | 0x081 => own [[.src 1, .num 0 32, .src 0]] [(2, .family 34), (3, .courses 36), (5, .field 38 3)]
  | 0x082 => own [[.src 1, .num 0 32, .src 0]] [(2, .family 34), (5, .field 38 3)]
  | 0x090 | 0x092 => own [two] matrixSufs
  | 0x091 => own [[.dst, .reg 0 0, .reg 0 6, .reg 0 12, .reg 0 18]] matrixSufs
  | 0x0A0 => shared [.pdst, .src 0] []
  | _ => none

/-! ## Finalisation (R49, R71, R199) -/
/-- Why a slot does not fit: it names a place outside its section or out of reach (reason 4), or the template has no place for it. -/
inductive SlotErr where
  | target | misfit
  deriving DecidableEq, Repr
/-- Where the records of a portable form lie: for each its section and its offset there. -/
abbrev Layout := List (Bool × Nat)
/-- A signed number in n bits. -/
def fits (v : Int) (n : Nat) : Bool := decide (-(2 ^ (n - 1) : Int) ≤ v) && decide (v < (2 ^ (n - 1) : Int))
def inField (v : Int) (n : Nat) : Nat := (v % (2 ^ n : Int)).toNat
/-- A jump of v units in an n-bit field. -/
def reach (v : Int) (lo n : Nat) : Except SlotErr (Nat × Option Nat) :=
  if fits v n then .ok (inField v n * 2 ^ lo, none) else .error .target
/-- The destination of a record's slot in bits [83:72] of the lane word (R24, R56, R57). -/
def slotDst (s : Slot) (p : Bool) : Option Nat :=
  match s.kind with
  | 0 =>
    match s.cls with
    | 6 => if p then none else some ((if s.idx < 192 then s.idx else 255) * 16)
    | 5 => if p then none else some ((if s.idx < 2 then 192 + s.idx else 255) * 16)
    | 7 => if p then some (min s.idx 255 * 16) else none
    | _ => none
  | 5 =>
    if p then none
    else some ((if s.idx < 192 then s.idx else 255) * 16 + Dec.bits s.value 18 1 * 8 + Dec.bits s.value 16 2 * 2 + 1)
  | _ => none
/-- The selector of a record's slot, with what it puts into the immediate field (R24, R58). -/
def slotSrc (s : Slot) : Option (Nat × Option Nat) :=
  match s.kind with
  | 0 =>
    match s.cls with
    | 6 => some (if s.idx < 192 ∨ s.idx = 204 ∨ s.idx = 205 then s.idx else 511, none)
    | 4 => some (if s.idx < 8 then 192 + s.idx else 511, none)
    | 8 => some (if s.idx < 4 then 200 + s.idx else 511, none)
    | 0 => some (207, some s.idx)
    | _ => none
  | 1 => if -(2 ^ 31 : Int) ≤ s.int ∧ s.int < 2 ^ 32 then some (206, some (inField s.int 32)) else none
  | _ => none
/-- The bit of the selector field of source k (R54). -/
def srcBit (k : Nat) : Nat := match k with | 0 => 63 | 1 => 54 | _ => 45

/-- What one operand slot of record i adds to the word, and to a shared immediate field. -/
def placeSlot (lay : Layout) (i : Nat) (p : Place) (s : Slot) : Except SlotErr (Nat × Option Nat) :=
  let here := (lay.getD i (false, 0)).2
  let val (ok : Bool) (x : Nat) : Except SlotErr (Nat × Option Nat) := if ok then .ok (x, none) else .error .misfit
  match p with
  | .reg c lo => val (s.kind == 0 && s.cls == c && decide (s.idx < 64)) (s.idx * 2 ^ lo)
  | .neg c lo nlo =>
    val (s.kind == 0 && s.cls == c && decide (s.idx < 8)) (s.idx * 2 ^ lo + if Config.slotNegated s.value then 2 ^ nlo else 0)
  | .creg => val (s.kind == 0 && s.cls == 9 && decide (s.idx < 4096)) s.idx
  | .num lo n => val (s.kind == 1 && fits s.int n) (inField s.int n * 2 ^ lo)
  | .count lo n => val (s.kind == 1 && decide (0 ≤ s.int) && decide (s.int < (2 ^ n : Int))) (s.int.toNat * 2 ^ lo)
  | .jump lo n =>
    match s.kind, lay[s.value]? with
    | 3, some (false, t) => reach (((t : Int) - here) / 4) lo n
    | 3, some (true, _) => .error .target
    | 3, none => .error .target
    | 1, _ => reach s.int lo n
    | _, _ => .error .misfit
  | .ljump lo =>
    match s.kind, lay[s.value]? with
    | 3, some (true, t) => if ((t : Int) - here) % 12 = 0 then reach (((t : Int) - here) / 12) lo 16 else .error .target
    | 3, some (false, _) => .error .target
    | 3, none => .error .target
    | 1, _ => reach s.int lo 16
    | _, _ => .error .misfit
  | .block =>
    match s.kind, lay[s.value]? with
    | 4, some (true, t) => .ok (t * 2 ^ 32, none)
    | 4, some (false, _) => .error .target
    | 4, none => .error .target
    | _, _ => .error .misfit
  | .same n => val (s.kind == 0 && s.cls == 1 && s.idx == n) 0
  | .dst => match slotDst s false with | some x => .ok (x * 2 ^ 72, none) | none => .error .misfit
  | .pdst => match slotDst s true with | some x => .ok (x * 2 ^ 72, none) | none => .error .misfit
  | .src k => match slotSrc s with | some (x, imm) => .ok (x * 2 ^ srcBit k, imm) | none => .error .misfit
/-- What the operand slots add, in order. -/
def placeSlots (lay : Layout) (i : Nat) : List Place → List Slot → Except SlotErr (Nat × List Nat)
  | p :: ps, s :: ss =>
    match placeSlot lay i p s with
    | .error e => .error e
    | .ok (x, imm) =>
      match placeSlots lay i ps ss with
      | .error e => .error e
      | .ok (y, imms) => .ok (x + y, imm.toList ++ imms)
  | [], [] => .ok (0, [])
  | _, _ => .error .misfit
/-- What one suffix adds; none where its value does not fit. -/
def placeSuffix (p : SPlace) (v : Nat) : Option Nat :=
  match p with
  | .field lo n => if v < 2 ^ n then some (v * 2 ^ lo) else none
  | .same w => if v = w then some 0 else none
  | .family lo => if v = 10 then some 0 else if v = 11 then some (2 ^ lo) else none
  | .courses lo => if 1 ≤ v ∧ v ≤ 4 then some ((v - 1) * 2 ^ lo) else none
  | .sext lo w => if v = w then some 0 else if v = w + 4 then some (2 ^ lo) else none
/-- What the suffix slots add: each stands in the template's order (R26), and one that is absent has code 0. -/
def placeSuffixes : List (Nat × SPlace) → List Slot → Option Nat
  | _, [] => some 0
  | [], _ :: _ => none
  | (c, p) :: ps, s :: ss =>
    if s.cls = c then
      match placeSuffix p s.idx, placeSuffixes ps ss with
      | some x, some y => some (x + y)
      | _, _ => none
    else placeSuffixes ps (s :: ss)

/-- What a record becomes: a word, a failure with its reason byte, or a record whose slots fit no template: reason 3 with a subcause
that the manual does not give (log entry 20). -/
inductive Final where
  | word (w : Nat)
  | fail (reason : Nat)
  | misfit
  deriving DecidableEq, Repr
/-- A word that R51 to R70 forbid has the subcause of R74. -/
def finalWord (lane : Bool) (w : Nat) (mixed : Bool) : Final :=
  match (if lane then Dec.decodeLane 192 w else Dec.decodeScalar (w % 2 ^ 32) (w / 2 ^ 32)) with
  | .illegal sub => .fail (3 + 16 * sub)
  | .ok _ => if mixed then .misfit else .word w
/-- The template of a record's form. A vvote of the modes any and all writes a predicate (R69). -/
def Rec.template (r : Rec) : Option Template :=
  if r.form = 0x4051 ∧ (r.slots.find? (fun s => s.kind == 2 && s.cls == 1)).any (fun s => decide (s.idx < 2)) then
    some { ops := [[.pdst, .src 0]], sufs := [(1, .field 32 2)], own := false }
  else if r.lane then laneTemplate (r.form - 0x4000) else scalarTemplate (r.form / 128) (r.form % 128)
/-- The word of a form before its operands: the opcode, in a lane word the predicate and selectors that are not read, and in a ret
without a register its default s63 (R67). -/
def Rec.base (r : Rec) (t : Option Template) : Nat :=
  if r.lane then
    let srcs := match t with
      | some t => (t.ops.headD []).filterMap Place.source
      | none => []
    let unread := (List.range 3).filter (fun k => !srcs.contains k)
    (r.form - 0x4000) * 2 ^ 84 + r.pred % 16 * 2 ^ 41 + unread.foldl (fun n k => n + 204 * 2 ^ srcBit k) 0
  else
    let major := r.form / 128
    let m := r.form % 128
    major * 2 ^ 25 + (if major = 0x08 then m % 4 * 2 ^ 11 else if major = 1 ∨ major = 2 ∨ major = 0x0F then m else 0) +
      (if r.form = 0x107 ∧ r.operands.isEmpty then 63 * 2 ^ 13 else 0)
/-- A record becomes its word (R71, R199). -/
def finaliseRec (lay : Layout) (i : Nat) (r : Rec) : Final :=
  if 0x5000 ≤ r.form then .fail 2
  else
    let t := r.template
    let base := r.base t
    match t with
    | none => finalWord r.lane base true
    | some t =>
      match t.ops.find? (fun ps => ps.length == r.operands.length), placeSuffixes t.sufs r.suffixes with
      | some ps, some y =>
        match placeSlots lay i ps r.operands with
        | .error .target => .fail 4
        | .error .misfit => .misfit
        | .ok (x, imms) =>
          let imm := if t.own then 0 else imms.headD 0 % 2 ^ 32
          let mixed := (!t.own && imms.any (fun v => v != imms.headD 0)) || decide (16 ≤ r.pred) || (!r.lane && r.pred != 0)
          finalWord r.lane (base + x + y + imm) mixed
      | _, _ => .misfit

/-- The bytes of a record's word (R50, R54). -/
def Rec.size (r : Rec) : Nat := if r.lane then 12 else if Dec.isWide (r.form / 128 * 2 ^ 25) then 8 else 4
/-- The records that block references name (R48). -/
def blockStarts (rs : List Rec) : List Nat :=
  (rs.map (fun r => (r.slots.filter (fun s => s.kind == 4)).map (·.value))).flatten
/-- Each record's section and offset; a block starts at a multiple of 16 (R36). -/
def layoutOf (blocks : List Nat) : List Rec → Nat → Nat → Nat → Layout
  | [], _, _, _ => []
  | r :: rs, i, ps, pl =>
    if r.lane then
      let at0 := if blocks.contains i then (pl + 15) / 16 * 16 else pl
      (true, at0) :: layoutOf blocks rs (i + 1) ps (at0 + 12)
    else (false, ps) :: layoutOf blocks rs (i + 1) (ps + r.size) pl
/-- Sections of at most 16 MiB, record by record; the first failure, or the bytes of both sections (R199). The truth value says that the
subcause of the failure is open. -/
def finaliseFrom (lay : Layout) : List Rec → Nat → List Byte → List Byte → Finalised × Bool
  | [], _, sc, lc => ({ reason := 0, index := 0, scode := sc, lcode := lc }, false)
  | r :: rs, i, sc, lc =>
    let off := (lay.getD i (false, 0)).2
    let fail (reason : Nat) : Finalised := { reason := reason, index := i, scode := [], lcode := [] }
    match finaliseRec lay i r with
    | .fail n => (fail n, false)
    | .misfit => (fail 3, true)
    | .word w =>
      if 2 ^ 24 < off + r.size then (fail 5, false)
      else if r.lane then
        finaliseFrom lay rs (i + 1) sc (lc ++ List.replicate (off - lc.length) 0 ++ leBytes 12 w)
      else finaliseFrom lay rs (i + 1) (sc ++ leBytes r.size w) lc
/-- The finalisation of all records. -/
def finalise (rs : List Rec) : Finalised × Bool := finaliseFrom (layoutOf (blockStarts rs) rs 0 0 0) rs 0 [] []

/-! ## A whole bundle (R43, R44, R46, R49) -/
/-- What a bundle holds: its images, the records of its portable form with the sections after them, its kernel-table entries, and its
requested reserve. -/
structure Bundle where
  images : List CodeImage
  portable : Option (List Rec × CodeImage)
  kernels : List (List Byte)
  reserve : Nat
  deriving DecidableEq, Repr
/-- The portable form at an offset; the sections after the records stand in an entry of the layout of R45 (log entry 20). -/
def portableAt (b : List Byte) (k off : Nat) : Option (List Rec × CodeImage) :=
  if cut b off 4 = [0x53, 0x50, 0x46, 0x00] ∧ zeros b (off + 8) 8 then
    match recordsAt b (off + 16) (le b (off + 4) 4) with
    | some (rs, e) => (imageAt b k e).map (fun i => (rs, i))
    | none => none
  else none
/-- A well-formed bundle (R43, R44, R46); beside a revision 3 image the portable form is not looked at (R49). -/
def parseBundle (b : List Byte) : Option Bundle :=
  let flags := le b 6 2
  let k := le b 0x0A 2
  let kt := le b 0x14 4
  let head := cut b 0 4 = [0x53, 0x4B, 0x42, 0x00] ∧ le b 4 2 = 1 ∧ flags < 4 ∧ le b 8 2 ≤ 3 ∧ k ≤ 4096 ∧ zeros b 0x0C 4 ∧
    zeros b 0x2A 22 ∧ 64 ≤ b.length ∧ b.length < 2 ^ 32 ∧ kt + 32 * k ≤ b.length ∧
    ((List.range k).all (fun i => zeros b (kt + 32 * i + 0x10) 16)) = true ∧ (flags / 2 = 1 ∨ le b 0x28 2 = 0)
  if head then
    match imagesAt b k (le b 0x10 4) (le b 8 2) with
    | none => none
    | some is =>
      let ks := (List.range k).map (fun i => cut b (kt + 32 * i) 32)
      if flags % 2 = 0 || is.any (fun i => i.rev == 3) then some { images := is, portable := none, kernels := ks, reserve := le b 0x28 2 }
      else (portableAt b k (le b 0x18 4)).map (fun p => { images := is, portable := some p, kernels := ks, reserve := le b 0x28 2 })
  else none
/-- The subcause that the manual does not give is a free value. -/
def State.reportFinal (s : State) (f : Finalised × Bool) : State :=
  if f.2 then
    let (w, s) := s.freeWord
    { s with finalised := { f.1 with reason := f.1.reason + w.toNat % 16 * 16 } }
  else { s with finalised := f.1 }
/-- The report of a bundle with neither a revision 3 image nor a portable form (R199). -/
def noForm : Finalised := { reason := 1, index := 2 ^ 32 - 1, scode := [], lcode := [] }
/-- PORTABLE_FINALISE: the driver finalises the portable form of a bundle without a revision 3 image. -/
def execPortableFinalise (o : Nat) (bundle : List Byte) (s : State) : Host.Outcome State Fault Refusal :=
  match parseBundle bundle with
  | none => .fault .notEnabled
  | some b =>
    if ownerOk o && !b.images.any (fun i => i.rev == 3) then
      match b.portable with
      | none => .next (s.reportFinal (noForm, false))
      | some (rs, _) => .next (s.reportFinal (finalise rs))
    else .fault .notEnabled

/-! ## BUNDLE_LOAD (R42, R47, R49, R198, R200) -/
/-- Eight bytes replace those at a site. -/
def patch (b : List Byte) (i : Nat) (v : Nat) : List Byte := b.take i ++ leBytes 8 v ++ b.drop (i + 8)
/-- The relocations of one section: the address of the target section's base plus the addend, at the site (R47). -/
def relocate (bases : List Nat) (sect : Nat) (rs : List Reloc) (b : List Byte) : List Byte :=
  (rs.filter (fun r => r.sect == sect)).foldl (fun b r => patch b r.site (bases.getD r.target 0 + r.addend)) b
/-- The descriptor of a kernel-table entry (R46, R200). -/
def descBytes (entry lane : Nat) (k : List Byte) : List Byte :=
  leBytes 8 entry ++ leBytes 8 lane ++ cut k 4 12 ++ List.replicate 36 0
/-- Bytes are written at an owner's address through its virtual function, word by word and the last ones singly; none where a word does
not translate to device memory. -/
def State.hostBytes (s : State) (o va : Nat) : List Byte → Option State
  | a :: b :: c :: d :: r =>
    match s.hostPlace o (BitVec.ofNat 64 va) 1 with
    | (some (l, rc), s1) => (s1.hostPut o l rc .w (BitVec.ofNat 64 (leNat [a, b, c, d]))).hostBytes o (va + 4) r
    | (none, _) => none
  | a :: r =>
    match s.hostPlace o (BitVec.ofNat 64 va) 1 with
    | (some (l, rc), s1) => (s1.hostPut o l rc .b (BitVec.ofNat 64 a.toNat)).hostBytes o (va + 1) r
    | (none, _) => none
  | [] => some s
/-- Several runs of bytes. -/
def State.hostRuns (s : State) (o : Nat) : List (Nat × List Byte) → Option State
  | [] => some s
  | (va, b) :: r =>
    match s.hostBytes o va b with
    | some t => t.hostRuns o r
    | none => none
/-- No two runs of bytes overlap. -/
def disjointRuns : List (Nat × List Byte) → Bool
  | [] => true
  | (va, b) :: r => r.all (fun (x : Nat × List Byte) =>
      b.isEmpty || x.2.isEmpty || decide (va + b.length ≤ x.1) || decide (x.1 + x.2.length ≤ va)) && disjointRuns r
/-- The sections of an image and one descriptor per kernel, written at the addresses the driver chose. -/
def State.loadImage (s : State) (o : Nat) (b : Bundle) (i : CodeImage) (scode lcode data course kdesc : Nat) :
    Host.Outcome State Fault Refusal :=
  let bases := [scode, lcode, data, course]
  let descs := (i.entries.zip b.kernels).map (fun x => descBytes (scode + x.1) lcode x.2)
  let runs := [(scode, i.scode), (lcode, i.lcode), (data, relocate bases 2 i.relocs i.data),
    (course, relocate bases 3 i.relocs i.course), (kdesc, descs.flatten)]
  if bases.all (fun a => a % 512 == 0) && kdesc % 64 == 0 && disjointRuns runs then
    match s.hostRuns o runs with
    | some t => .next (t.updOwner o (fun x => { x with askedReserve := b.reserve })).flush
    | none => .fault .notEnabled
  else .fault .notEnabled
/-- BUNDLE_LOAD: the revision 3 image, or else the finalised portable form; with neither, or where finalisation fails, nothing is loaded
and the report says why. -/
def execBundleLoad (o : Nat) (bundle : List Byte) (scode lcode data course kdesc : Nat) (s : State) : Host.Outcome State Fault Refusal :=
  match parseBundle bundle with
  | none => .fault .notEnabled
  | some b =>
    if ownerOk o && (s.owner o).alive then
      match b.images.find? (fun i => i.rev == 3) with
      | some i => s.loadImage o b i scode lcode data course kdesc
      | none =>
        match b.portable with
        | none => .next (s.reportFinal (noForm, false))
        | some (rs, i) =>
          let f := finalise rs
          if f.1.reason = 0 then
            (s.reportFinal f).loadImage o b { i with scode := f.1.scode, lcode := f.1.lcode } scode lcode data course kdesc
          else .next (s.reportFinal f)
    else .fault .notEnabled

end Sys2Proof.Machine
end

