-- ==== Sys2Proof/Machine/Control.lean ====
section
/-! DEFINITION. The scalar stream's control, masks, address streams and operand queues, control registers, traps and returns (R139 to R161, R270, R376). -/
namespace Sys2Proof.Machine

/-! ## Branches (R151) -/
/-- The address disp words from an instruction. -/
def branchTo (pc : DWord) (disp : DWord) : DWord := pc + 4 * disp
/-- br (R151). -/
def execBr (disp : BitVec 21) (s : State) : Host.Outcome State Fault Refusal :=
  scalarJump (.br disp) (upd (fun t => t.updG (fun x => x.goto (branchTo x.pc (sx disp))))) s
/-- bc (R151). -/
def execBc (f : Nat) (neg : Bool) (disp : BitVec 21) (s : State) : Host.Outcome State Fault Refusal :=
  scalarJump (.bc f neg disp)
    (upd (fun t => t.updG (fun x => if x.sr.flag f != neg then x.goto (branchTo x.pc (sx disp)) else x.advance 4))) s
/-- call (R151): s63 holds the return address, not poisoned. -/
def execCall (disp : BitVec 21) (s : State) : Host.Outcome State Fault Refusal :=
  scalarJump (.call disp)
    (upd (fun t => t.updG (fun x => { x with sr := x.sr.put 63 (x.pc + 4) false }.goto (branchTo x.pc (sx disp))))) s
/-- ret (R151): trap 3 on a poisoned register, trap 12 on a misaligned address. -/
def execRet (a : Nat) (s : State) : Host.Outcome State Fault Refusal :=
  scalarJump (.ret a) (do
    let v ← useReg a
    need (v.toNat % 4 == 0) (.trap 12 0)
    upd (fun t => t.updG (fun x => x.goto v))) s
/-- loop (R151): a 64-bit counter that wraps. -/
def execLoop (d : Nat) (disp : BitVec 13) (s : State) : Host.Outcome State Fault Refusal :=
  scalarJump (.loop d disp) (do
    let v ← useReg d
    upd (fun t => t.updG (fun x =>
      let y := { x with sr := x.sr.put d (v - 1) false }
      if v - 1 != 0 then y.goto (branchTo x.pc (sx disp)) else y.advance 4))) s
/-- nop (R151). -/
def execNop (s : State) : Host.Outcome State Fault Refusal := scalarOp .nop (pure ()) s

/-! ## Lane blocks, order (R159, R160, R270) -/
/-- lrun (R159): waits in place while 4 blocks are enqueued, of which the block that runs is none (DESIGN CHOICE: the manual does not say); the mask's value now goes with the block, and so does a latch loss due (R171). -/
def execLrun (m : Nat) (off : Word) (s : State) : Host.Outcome State Fault Refusal :=
  scalarOp (.lrun m off) (fun t =>
    if Config.blockDepth ≤ t.g.lane.blocks.length then .error .wait t
    else .ok () (t.updG (fun x =>
      let b : Block := { off := off.toNat, mask := x.mask m, loss := x.lossNext }
      { x with lane := { x.lane with blocks := x.lane.blocks ++ [b] }, lossNext := false }))) s
/-- lsync (R160). -/
def execLsync (s : State) : Host.Outcome State Fault Refusal := scalarOp .lsync needLanes s
/-- fence (R270). -/
def execFence (o : MOrder) (sc : MScope) (s : State) : Host.Outcome State Fault Refusal :=
  scalarOp (.fence o sc) (do
    needLanes
    if ordAcq o then acquire sc else pure ()
    if ordRel o then release sc else pure ()) s

/-! ## Masks (R161) -/
/-- mset (R161): trap 3 on a poisoned register. -/
def execMset (m a : Nat) (s : State) : Host.Outcome State Fault Refusal :=
  scalarOp (.mset m a) (do
    let v ← useReg a
    upd (fun t => t.updG (fun x => x.putMask m (v.truncate 32)))) s
/-- A mask computed from masks. -/
def maskOp (i : Instr) (m : Nat) (f : Group → Mask) (s : State) : Host.Outcome State Fault Refusal :=
  scalarOp i (upd (fun t => t.updG (fun x => x.putMask m (f x)))) s
/-- mand (R161). -/
def execMand (m i j : Nat) (s : State) : Host.Outcome State Fault Refusal := maskOp (.mand m i j) m (fun x => x.mask i &&& x.mask j) s
/-- mor (R161). -/
def execMor (m i j : Nat) (s : State) : Host.Outcome State Fault Refusal := maskOp (.mor m i j) m (fun x => x.mask i ||| x.mask j) s
/-- mxor (R161). -/
def execMxor (m i j : Nat) (s : State) : Host.Outcome State Fault Refusal := maskOp (.mxor m i j) m (fun x => x.mask i ^^^ x.mask j) s
/-- mnot (R161). -/
def execMnot (m i : Nat) (s : State) : Host.Outcome State Fault Refusal := maskOp (.mnot m i) m (fun x => ~~~(x.mask i)) s
/-- A register computed from a mask, not poisoned. -/
def maskRead (i : Instr) (d m : Nat) (f : Mask → Nat) (s : State) : Host.Outcome State Fault Refusal :=
  scalarOp i (upd (fun t => t.setSr (t.g.sr.put d (BitVec.ofNat 64 (f (t.g.mask m))) false))) s
/-- mcnt (R161). -/
def execMcnt (d m : Nat) (s : State) : Host.Outcome State Fault Refusal := maskRead (.mcnt d m) d m (fun x => popcount x) s
/-- mfirst (R161): 32 where no bit is set. -/
def execMfirst (d m : Nat) (s : State) : Host.Outcome State Fault Refusal :=
  maskRead (.mfirst d m) d m (fun x => (lowestLane x).getD 32) s

/-! ## Address streams and operand queues (R152 to R155, R376) -/
/-- The space a stream's step operand names, by its code (R62, R152). -/
def streamSpace (n : Nat) : Option Space :=
  match n with | 0 => some .gl | 2 => some .sp | 3 => some .cl | 4 => some .ch | _ => none
/-- aset (R152, R153). -/
def execAset (n a b : Nat) (s : State) : Host.Outcome State Fault Refusal :=
  scalarOp (.aset n a b) (do
    let base ← useReg a
    let v ← useReg b
    let ms ← (match streamSpace (fld v 48 3) with
      | some ms => if fld v 51 13 = 0 then pure ms else trap 14
      | none => trap 14 : M Space)
    need (base.toNat % 4 == 0) (.trap 12 0)
    let st : AStream := { base := base, step := v.truncate 32, pitch := fld v 32 16, space := ms }
    upd (fun t => t.updG (fun x => { x with lane := { x.lane with a := tabPut x.lane.a n st } }))) s
/-- astep (R153). -/
def execAstep (n a : Nat) (s : State) : Host.Outcome State Fault Refusal :=
  scalarOp (.astep n a) (do
    let v ← useReg a
    let t ← get
    match tabFind t.g.lane.a n with
    | none => trap 14
    | some st =>
      let st := { st with base := st.base + 4 * sx st.step * v }
      upd (fun t => t.updG (fun x => { x with lane := { x.lane with a := tabPut x.lane.a n st } }))) s
/-- An entry whose lane l loads the word at addr l joins queue q; a full queue stalls the stream in place (R154, R155). -/
def fillQueue (ms : Space) (q : Nat) (addr : Nat → DWord) : M Unit := do
  let t ← get
  need (decide ((tabGet [] t.g.lane.q q).length < Config.queueDepth)) .wait
  let e ← (List.range 32).mapM (fun l => portLoad ms l (addr l))
  upd (fun t => t.updG (fun x => { x with lane := { x.lane with q := tabPut x.lane.q q (tabGet [] x.lane.q q ++ [e]) } }))
/-- aload (R153, R154). -/
def execAload (q n : Nat) (s : State) : Host.Outcome State Fault Refusal :=
  scalarOp (.aload q n) (do
    let t ← get
    match tabFind t.g.lane.a n with
    | none => trap 14
    | some st =>
      fillQueue st.space q (fun l => st.base + BitVec.ofNat 64 (4 * st.pitch * l))
      let st := { st with base := st.base + 4 * sx st.step }
      upd (fun t => t.updG (fun x => { x with lane := { x.lane with a := tabPut x.lane.a n st } }))) s
/-- ldq (R376): 32 consecutive words. -/
def execLdq (q a : Nat) (k : BitVec 13) (s : State) : Host.Outcome State Fault Refusal :=
  scalarOp (.ldq q a k) (do
    let v ← useReg a
    let ea := v + sx k
    need (decide (ea.toNat < 2 ^ 56)) (.trap 14 0)
    need (ea.toNat % 4 == 0) (.trap 12 0)
    fillQueue .gl q (fun l => ea + BitVec.ofNat 64 (4 * l))) s

/-! ## Control registers (R140) -/
/-- The privilege trap below a level (R75, R122). -/
def needLevel (n : Nat) : M Unit := fun s => if n ≤ s.g.level then .ok () s else .error (.trap 2 0) s
/-- The sticky flags show what every earlier block raised (R330): their accesses wait for the group's matrix operations too. -/
def ctlFlags (n : Nat) : Bool := decide (0x019 ≤ n) && decide (n ≤ 0x01E)
def State.flagsSettled (s : State) : Bool := !s.matrix.any (fun m => m.2.group == s.cur && (m.2.started || m.2.tok == s.g.tok))
def needFlags : M Unit := fun s => if s.flagsSettled then .ok () s else .error .wait s
/-- The waits of a control register's access (R140, R330). -/
def ctlWait (n : Nat) : M Unit := do
  if ctlWaits n then needLanes else pure ()
  if ctlFlags n then needFlags else pure ()
/-- crd (R140). -/
def execCrd (d n : Nat) (s : State) : Host.Outcome State Fault Refusal :=
  scalarOp (.crd d n) (do
    needLevel (ctlRead n)
    ctlWait n
    upd (fun t => t.setSr (t.g.sr.put d (t.readCtl n) false))) s
/-- cwr (R140). -/
def execCwr (n a : Nat) (s : State) : Host.Outcome State Fault Refusal :=
  scalarOp (.cwr n a) (do
    match ctlWrite n with
    | none => trap 2
    | some l => needLevel l
    let v ← useReg a
    ctlWait n
    let t ← get
    match t.writeCtl n v with
    | none => trap 14
    | some t' => set t') s

/-! ## Traps and returns (R141 to R145) -/
/-- trap (R141): cause 6 with its code. -/
def execTrap (k : Nat) (s : State) : Host.Outcome State Fault Refusal := scalarOp (.trap k) (throw (.trap 6 k)) s
/-- tret (R142): trap 15 outside a user trap handler, which c.tctl[1] tells alone. Where nothing is set aside, the lane, queue and stream state stays (log entry 7). -/
def execTret (s : State) : Host.Outcome State Fault Refusal :=
  scalarJump .tret (do
    let t ← get
    need (t.g.tr.tctl.getLsbD 1) (.trap 15 0)
    needLanes
    upd (fun t =>
      let a := t.g.uAside.getD (t.g.aside none 0 0)
      (t.retag t.cur t.g.tok a.tok).updG (fun x => x.returnUser a))) s
/-- hret (R143): the privilege trap at level U; level S has no level to return to (log entry 7). -/
def execHret (s : State) : Host.Outcome State Fault Refusal :=
  scalarJump .hret (do
    needHandler
    let t ← get
    need (t.g.level != 3) (.trap 15 0)
    needLanes
    upd (fun t => t.returnLevel t.cur)) s
/-- A pre-empt handler's end (R144): frame A's entry block takes kind 3, and the group is cooperatively saved. What the matrix engine has not begun of the handler's
is not executed. -/
def State.endPreempt (s : State) (g : Nat) : State :=
  let x := s.group g
  let s := s.finishMatrix g
  let s := { s with matrix := s.matrix.filter (fun m => !(m.2.group == g && m.2.tok == x.tok)) }
  let s := s.putReserve64 (s.ownerOf g) (s.frameVa g 0) 3
  let s := (s.losePair g).releaseParks g
  let s := s.updGroup g (fun x => { x with gstate := .saved, coop := true, pleft := 0, preempt := none, retries := [], want := [], pairLost := false })
  s.loseGroup g
/-- pdone (R144): legal in an entry of kind 33 or 35 at level H only. -/
def execPdone (s : State) : Host.Outcome State Fault Refusal :=
  scalarJump .pdone (do
    needHandler
    let t ← get
    need (t.g.level = 1 && (fld t.g.hcause 0 6 == 33 || fld t.g.hcause 0 6 == 35)) (.trap 15 0)
    needLanes
    release .dev
    upd (fun t => (t.endPreempt t.cur).afterSave t.g.team)) s
/-- ostop (R145): the group is saved with its address after the instruction. Level S runs for no owner, and the privilege trap comes first (R75; log entry 7). -/
def execOstop (a : Nat) (s : State) : Host.Outcome State Fault Refusal :=
  scalarJump (.ostop a) (do
    needPaging
    let v ← useReg a
    upd (fun t => t.updG (fun x => x.advance 4))
    upd (fun t => t.stopOwner (t.ownerOf t.cur) 1 (v.toNat % 2 ^ 32) 0 (some t.cur))) s

end Sys2Proof.Machine
end

