-- ==== Sys2Proof/Machine/LaneInt.lean ====
section
/-! DEFINITION. Lane integer instructions (R324, R328) and the poison instructions (R346). -/
namespace Sys2Proof.Machine

/-! ## Values (R328) -/
namespace LaneAlu
/-- The high half of the 64-bit product of two words. -/
def mulh (uns : Bool) (a b : Word) : Word :=
  if uns then BitVec.ofNat 32 (a.toNat * b.toNat / 2 ^ 32) else BitVec.ofInt 32 (a.toInt * b.toInt / 2 ^ 32)
/-- The lesser and the greater of two words. -/
def least (uns : Bool) (a b : Word) : Word := if (if uns then b.ult a else b.slt a) then b else a
def greatest (uns : Bool) (a b : Word) : Word := if (if uns then a.ult b else a.slt b) then b else a
/-- The shift count of b: bits [7:0]. -/
def count (b : Word) : Nat := b.toNat % 256
def shl (a b : Word) : Word := if 32 ≤ count b then 0 else a <<< count b
def shr (a b : Word) : Word := if 32 ≤ count b then 0 else a >>> count b
def sar (a b : Word) : Word := a.sshiftRight (if 32 ≤ count b then 31 else count b)
end LaneAlu

/-! ## Shapes -/
/-- The result of a lane: poisoned when a source is (R99). -/
def intRes (f : List (Word × Bool) → Word) (as : List (Word × Bool)) : LRes := .done [(f as, anyBad as)] 0
/-- d := f a b. -/
def laneBin (i : Instr) (f : Word → Word → Word) (d : LDest) (a b : LSrc) (p : LPred) (imm : Word) (s : State) :
    Host.Outcome State Fault Refusal :=
  laneMap i p [a, b] imm (.dst d) (fun _ as => intRes (fun as => f (argVal as 0) (argVal as 1)) as) s
/-- d := f a. -/
def laneUn (i : Instr) (f : Word → Word) (d : LDest) (a : LSrc) (p : LPred) (imm : Word) (s : State) :
    Host.Outcome State Fault Refusal :=
  laneMap i p [a] imm (.dst d) (fun _ as => intRes (fun as => f (argVal as 0)) as) s

/-! ## Instructions -/
/-- vadd (R328). -/
def execVadd (d : LDest) (a b : LSrc) (p : LPred) (imm : Word) (s : State) : Host.Outcome State Fault Refusal :=
  laneBin (.vadd d a b p imm) (· + ·) d a b p imm s
/-- vsub (R328). -/
def execVsub (d : LDest) (a b : LSrc) (p : LPred) (imm : Word) (s : State) : Host.Outcome State Fault Refusal :=
  laneBin (.vsub d a b p imm) (· - ·) d a b p imm s
/-- vmul (R328). -/
def execVmul (d : LDest) (a b : LSrc) (p : LPred) (imm : Word) (s : State) : Host.Outcome State Fault Refusal :=
  laneBin (.vmul d a b p imm) (· * ·) d a b p imm s
/-- vmulh (R328): signed operands, or unsigned. -/
def execVmulh (uns : Bool) (d : LDest) (a b : LSrc) (p : LPred) (imm : Word) (s : State) : Host.Outcome State Fault Refusal :=
  laneBin (.vmulh uns d a b p imm) (LaneAlu.mulh uns) d a b p imm s
/-- vmad (R328). -/
def execVmad (d : LDest) (a b c : LSrc) (p : LPred) (imm : Word) (s : State) : Host.Outcome State Fault Refusal :=
  laneMap (.vmad d a b c p imm) p [a, b, c] imm (.dst d)
    (fun _ as => intRes (fun as => argVal as 0 * argVal as 1 + argVal as 2) as) s
/-- vmin (R328). -/
def execVmin (uns : Bool) (d : LDest) (a b : LSrc) (p : LPred) (imm : Word) (s : State) : Host.Outcome State Fault Refusal :=
  laneBin (.vmin uns d a b p imm) (LaneAlu.least uns) d a b p imm s
/-- vmax (R328). -/
def execVmax (uns : Bool) (d : LDest) (a b : LSrc) (p : LPred) (imm : Word) (s : State) : Host.Outcome State Fault Refusal :=
  laneBin (.vmax uns d a b p imm) (LaneAlu.greatest uns) d a b p imm s
/-- vand (R328). -/
def execVand (d : LDest) (a b : LSrc) (p : LPred) (imm : Word) (s : State) : Host.Outcome State Fault Refusal :=
  laneBin (.vand d a b p imm) (· &&& ·) d a b p imm s
/-- vor (R328). -/
def execVor (d : LDest) (a b : LSrc) (p : LPred) (imm : Word) (s : State) : Host.Outcome State Fault Refusal :=
  laneBin (.vor d a b p imm) (· ||| ·) d a b p imm s
/-- vxor (R328). -/
def execVxor (d : LDest) (a b : LSrc) (p : LPred) (imm : Word) (s : State) : Host.Outcome State Fault Refusal :=
  laneBin (.vxor d a b p imm) (· ^^^ ·) d a b p imm s
/-- vnot (R328). -/
def execVnot (d : LDest) (a : LSrc) (p : LPred) (imm : Word) (s : State) : Host.Outcome State Fault Refusal :=
  laneUn (.vnot d a p imm) (fun x => ~~~x) d a p imm s
/-- vshl (R328). -/
def execVshl (d : LDest) (a b : LSrc) (p : LPred) (imm : Word) (s : State) : Host.Outcome State Fault Refusal :=
  laneBin (.vshl d a b p imm) LaneAlu.shl d a b p imm s
/-- vshr (R328). -/
def execVshr (d : LDest) (a b : LSrc) (p : LPred) (imm : Word) (s : State) : Host.Outcome State Fault Refusal :=
  laneBin (.vshr d a b p imm) LaneAlu.shr d a b p imm s
/-- vsar (R328). -/
def execVsar (d : LDest) (a b : LSrc) (p : LPred) (imm : Word) (s : State) : Host.Outcome State Fault Refusal :=
  laneBin (.vsar d a b p imm) LaneAlu.sar d a b p imm s
/-- vpopc (R328). -/
def execVpopc (d : LDest) (a : LSrc) (p : LPred) (imm : Word) (s : State) : Host.Outcome State Fault Refusal :=
  laneUn (.vpopc d a p imm) (fun x => BitVec.ofNat 32 (popcount x)) d a p imm s
/-- vclz (R328). -/
def execVclz (d : LDest) (a : LSrc) (p : LPred) (imm : Word) (s : State) : Host.Outcome State Fault Refusal :=
  laneUn (.vclz d a p imm) (fun x => BitVec.ofNat 32 (clz x)) d a p imm s
/-- A truth value as a predicate result. -/
def truth (b : Bool) (flags : Nat) : LRes := .done [(if b then 1 else 0, false)] flags
/-- vcmp (R328): trap 3 in a lane that reads a poisoned operand (R100). -/
def execVcmp (cc : Cond) (d : Nat) (a b : LSrc) (p : LPred) (imm : Word) (s : State) : Host.Outcome State Fault Refusal :=
  laneMap (.vcmp cc d a b p imm) p [a, b] imm (.pred d)
    (fun _ as => if anyBad as then .trap 3 0 else truth (condHolds cc (argVal as 0) (argVal as 1)) 0) s
/-- vsel (R328): the poison bit is the selected source's. -/
def execVsel (neg : Bool) (k : Nat) (d : LDest) (a b : LSrc) (p : LPred) (imm : Word) (s : State) : Host.Outcome State Fault Refusal :=
  laneMap (.vsel neg k d a b p imm) p [a, b] imm (.dst d)
    (fun l as => .done [as.getD (if ((s.g.lr.pred k).getLsbD l != neg) then 0 else 1) (0, false)] 0) s
/-- vmov (R328). -/
def execVmov (d : LDest) (a : LSrc) (p : LPred) (imm : Word) (s : State) : Host.Outcome State Fault Refusal :=
  laneUn (.vmov d a p imm) id d a p imm s
/-- vptest (R346): the poison bit, without trap 3. -/
def execVptest (d : Nat) (a : LSrc) (p : LPred) (imm : Word) (s : State) : Host.Outcome State Fault Refusal :=
  laneMap (.vptest d a p imm) p [a] imm (.pred d) (fun _ as => truth (argBad as 0) 0) s
/-- vpoison (R346). -/
def execVpoison (d : LDest) (a : LSrc) (p : LPred) (imm : Word) (s : State) : Host.Outcome State Fault Refusal :=
  laneMap (.vpoison d a p imm) p [a] imm (.dst d) (fun _ as => .done [(argVal as 0, true)] 0) s

end Sys2Proof.Machine
end

