-- ==== Sys2Proof/Machine/LaneFloat.lean ====
section
/-! DEFINITION. F32 lane instructions (R329 to R338) and conversions (R339 to R341). -/
namespace Sys2Proof.Machine

/-- A floating result: a lane that reads a poisoned source raises nothing, and its result is poisoned (R99, R331). -/
def floatRes (f : List (Word × Bool) → Num.Res) (as : List (Word × Bool)) : LRes :=
  .done [((f as).1, anyBad as)] (if anyBad as then 0 else (f as).2)
/-- d := f a b. -/
def floatBin (i : Instr) (f : Word → Word → Num.Res) (d : LDest) (a b : LSrc) (p : LPred) (imm : Word) (s : State) :
    Host.Outcome State Fault Refusal :=
  laneMap i p [a, b] imm (.dst d) (fun _ as => floatRes (fun as => f (argVal as 0) (argVal as 1)) as) s
/-- d := f a. -/
def floatUn (i : Instr) (f : Word → Num.Res) (d : LDest) (a : LSrc) (p : LPred) (imm : Word) (s : State) :
    Host.Outcome State Fault Refusal :=
  laneMap i p [a] imm (.dst d) (fun _ as => floatRes (fun as => f (argVal as 0)) as) s

/-- vfadd (R334). -/
def execVfadd (r : Rnd) (d : LDest) (a b : LSrc) (p : LPred) (imm : Word) (s : State) : Host.Outcome State Fault Refusal :=
  floatBin (.vfadd r d a b p imm) (Num.fadd r) d a b p imm s
/-- vfsub (R334). -/
def execVfsub (r : Rnd) (d : LDest) (a b : LSrc) (p : LPred) (imm : Word) (s : State) : Host.Outcome State Fault Refusal :=
  floatBin (.vfsub r d a b p imm) (Num.fsub r) d a b p imm s
/-- vfmul (R334). -/
def execVfmul (r : Rnd) (d : LDest) (a b : LSrc) (p : LPred) (imm : Word) (s : State) : Host.Outcome State Fault Refusal :=
  floatBin (.vfmul r d a b p imm) (Num.fmul r) d a b p imm s
/-- vffma (R334): one rounding. -/
def execVffma (r : Rnd) (d : LDest) (a b c : LSrc) (p : LPred) (imm : Word) (s : State) : Host.Outcome State Fault Refusal :=
  laneMap (.vffma r d a b c p imm) p [a, b, c] imm (.dst d)
    (fun _ as => floatRes (fun as => Num.ffma r (argVal as 0) (argVal as 1) (argVal as 2)) as) s
/-- vfmin (R335). -/
def execVfmin (d : LDest) (a b : LSrc) (p : LPred) (imm : Word) (s : State) : Host.Outcome State Fault Refusal :=
  floatBin (.vfmin d a b p imm) (Num.fminmax false) d a b p imm s
/-- vfmax (R335). -/
def execVfmax (d : LDest) (a b : LSrc) (p : LPred) (imm : Word) (s : State) : Host.Outcome State Fault Refusal :=
  floatBin (.vfmax d a b p imm) (Num.fminmax true) d a b p imm s
/-- vfcmp (R336): trap 3 in a lane that reads a poisoned operand (R100). -/
def execVfcmp (cc : FCond) (d : Nat) (a b : LSrc) (p : LPred) (imm : Word) (s : State) : Host.Outcome State Fault Refusal :=
  laneMap (.vfcmp cc d a b p imm) p [a, b] imm (.pred d)
    (fun _ as =>
      let r := Num.fcmp cc (argVal as 0) (argVal as 1)
      if anyBad as then .trap 3 0 else truth r.1 r.2) s
/-- vfrcp (R337). -/
def execVfrcp (d : LDest) (a : LSrc) (p : LPred) (imm : Word) (s : State) : Host.Outcome State Fault Refusal :=
  floatUn (.vfrcp d a p imm) Num.frcp d a p imm s
/-- vfrsq (R337). -/
def execVfrsq (d : LDest) (a : LSrc) (p : LPred) (imm : Word) (s : State) : Host.Outcome State Fault Refusal :=
  floatUn (.vfrsq d a p imm) Num.frsq d a p imm s
/-- vfsqrt (R337). -/
def execVfsqrt (r : Rnd) (d : LDest) (a : LSrc) (p : LPred) (imm : Word) (s : State) : Host.Outcome State Fault Refusal :=
  floatUn (.vfsqrt r d a p imm) (Num.fsqrt r) d a p imm s
/-- vfex2 (R338). -/
def execVfex2 (d : LDest) (a : LSrc) (p : LPred) (imm : Word) (s : State) : Host.Outcome State Fault Refusal :=
  floatUn (.vfex2 d a p imm) Num.fex2 d a p imm s
/-- vflg2 (R338). -/
def execVflg2 (d : LDest) (a : LSrc) (p : LPred) (imm : Word) (s : State) : Host.Outcome State Fault Refusal :=
  floatUn (.vflg2 d a p imm) Num.flg2 d a p imm s
/-- vfsin (R338): the argument is in half-turns. -/
def execVfsin (d : LDest) (a : LSrc) (p : LPred) (imm : Word) (s : State) : Host.Outcome State Fault Refusal :=
  floatUn (.vfsin d a p imm) (Num.fsincos false) d a p imm s
/-- vfcos (R338). -/
def execVfcos (d : LDest) (a : LSrc) (p : LPred) (imm : Word) (s : State) : Host.Outcome State Fault Refusal :=
  floatUn (.vfcos d a p imm) (Num.fsincos true) d a p imm s

/-! ## vcvt (R339 to R341) -/
/-- Element e of a word replaced (R80). -/
def putElem (f : Fmt) (w : Word) (e c : Nat) : Word :=
  let n := Num.elemBits f
  BitVec.ofNat 32 (w.toNat % 2 ^ (n * e) + c % 2 ^ n * 2 ^ (n * e) + w.toNat / 2 ^ (n * (e + 1)) * 2 ^ (n * (e + 1)))
/-- The old destination that an insertion reads: 0 where no v register is written (R340). -/
def oldDest (r : LRegs) (l : Nat) : LDest → Word × Bool
  | .v n _ => r.get n l
  | .latch _ => (0, false)
  | .y _ _ => (0, false)
/-- One lane of vcvt (R340). -/
def cvtLane (tf frm : Fmt) (r : Rnd) (e : Nat) (old : Word × Bool) (x : Word × Bool) : LRes :=
  if frm = .f32 then
    let c := Num.toNarrow tf r x.1
    let fl := if x.2 then 0 else c.flags
    if Num.elemBits tf = 32 then .done [(BitVec.ofNat 32 c.code, x.2 || c.bad)] fl
    else .done [(putElem tf old.1 e c.code, x.2 || c.bad || old.2)] fl
  else
    let v := Num.fromNarrow frm r (if Num.elemBits frm = 32 then x.1.toNat else Num.elem frm x.1 e)
    .done [(v.1, x.2)] (if x.2 then 0 else v.2)
/-- vcvt (R339 to R341): the exceptions depend on the source a alone (log entry 15). -/
def execVcvt (tf frm : Fmt) (r : Rnd) (d : LDest) (a : LSrc) (e : Nat) (p : LPred) (s : State) : Host.Outcome State Fault Refusal :=
  laneMap (.vcvt tf frm r d a e p) p [a] (BitVec.ofNat 32 e) (.dst d)
    (fun l as => cvtLane tf frm r e (oldDest s.g.lr l d) (as.getD 0 (0, false))) s

end Sys2Proof.Machine
end

