-- ==== Sys2Proof/Machine/Memory.lean ====
section
/-! DEFINITION. Scalar loads, stores and atomics, and the raw accesses of level H (R300, R301, R368 to R383). -/
namespace Sys2Proof.Machine

/-- A scalar load (R374) with its order and scope (R269): poisoned base, range, alignment, translation and memory type are checked in this order. -/
def loadOp (i : Instr) (wd : MWidth) (o : MOrder) (sc : MScope) (ms : Space) (d a : Nat) (k : DWord) (s : State) :
    Host.Outcome State Fault Refusal :=
  scalarOp i (do
    let base ← useReg a
    let (l, _) ← place ms (base + k) 0 (widthBytes wd) (typesOf wd)
    if ordAcq o then acquireWait sc else pure ()
    if scRmt sc then promote l else pure ()
    let (v, p) ← loadAt 1 l wd
    if ordAcq o then upd (fun t => t.acquiredFrom sc false [l]) else pure ()
    putReg d v p) s
/-- A scalar store (R375) with its order and scope: from .clus up a release commits first and the store is performed at its home; a narrower one is
held and recorded on its line (R260). -/
def storeOp (i : Instr) (wd : MWidth) (o : MOrder) (sc : MScope) (ms : Space) (d a : Nat) (k : DWord) (s : State) :
    Host.Outcome State Fault Refusal :=
  scalarOp i (do
    let base ← useReg a
    let (l, _) ← place ms (base + k) 1 (widthBytes wd) (typesOf wd)
    let t ← get
    let v := t.g.sr.get d
    let p := t.g.sr.bad d
    if ordRel o then release sc else pure ()
    storeAt 1 (ordRel o && scWide sc) l wd v p
    if ordRel o && !scWide sc then upd (fun t => t.noteRelease l) else pure ()) s

/-- ld.b (R374). -/
def execLdB (d a : Nat) (k : BitVec 13) (s : State) : Host.Outcome State Fault Refusal :=
  loadOp (.ldB d a k) .b .rlx .none .gl d a (sx k) s
/-- ld.h (R374). -/
def execLdH (d a : Nat) (k : BitVec 13) (s : State) : Host.Outcome State Fault Refusal :=
  loadOp (.ldH d a k) .h .rlx .none .gl d a (sx k) s
/-- ld.w (R374). -/
def execLdW (d a : Nat) (k : BitVec 13) (s : State) : Host.Outcome State Fault Refusal :=
  loadOp (.ldW d a k) .w .rlx .none .gl d a (sx k) s
/-- ld.d (R374). -/
def execLdD (d a : Nat) (k : BitVec 13) (s : State) : Host.Outcome State Fault Refusal :=
  loadOp (.ldD d a k) .d .rlx .none .gl d a (sx k) s
/-- ld with a space, an order or a wide displacement (R269, R374). -/
def execLdX (wd : MWidth) (o : MOrder) (sc : MScope) (ms : Space) (d a : Nat) (k : Word) (s : State) :
    Host.Outcome State Fault Refusal :=
  loadOp (.ldX wd o sc ms d a k) wd o sc ms d a (sx k) s
/-- st.b (R375, R380). -/
def execStB (d a : Nat) (k : BitVec 13) (s : State) : Host.Outcome State Fault Refusal :=
  storeOp (.stB d a k) .b .rlx .none .gl d a (sx k) s
/-- st.h (R375, R380). -/
def execStH (d a : Nat) (k : BitVec 13) (s : State) : Host.Outcome State Fault Refusal :=
  storeOp (.stH d a k) .h .rlx .none .gl d a (sx k) s
/-- st.w (R375). -/
def execStW (d a : Nat) (k : BitVec 13) (s : State) : Host.Outcome State Fault Refusal :=
  storeOp (.stW d a k) .w .rlx .none .gl d a (sx k) s
/-- st.d (R375). -/
def execStD (d a : Nat) (k : BitVec 13) (s : State) : Host.Outcome State Fault Refusal :=
  storeOp (.stD d a k) .d .rlx .none .gl d a (sx k) s
/-- st with a space, an order or a wide displacement (R269, R375). -/
def execStX (wd : MWidth) (o : MOrder) (sc : MScope) (ms : Space) (d a : Nat) (k : Word) (s : State) :
    Host.Outcome State Fault Refusal :=
  storeOp (.stX wd o sc ms d a k) wd o sc ms d a (sx k) s

/-- The order of an atomic before its access (R211, R269): release, and from .clus up the team commits in any order. -/
def atomicBefore (o : MOrder) (sc : MScope) (l : Loc) : M Unit := do
  if ordAcq o then acquireWait sc; upd (fun t => t.acquiredFrom sc true [l]) else pure ()
  if ordRel o then release sc else if scWide sc then upd State.commitMine else pure ()
  if scRmt sc then promote l else pure ()
/-- amo (R383): from .clus up the atomic is performed at the home; a narrower one is held as an atomic hold. -/
def execAmo (op : AOp) (wd : MWidth) (o : MOrder) (sc : MScope) (ms : Space) (d a b c : Nat) (k : BitVec 20) (s : State) :
    Host.Outcome State Fault Refusal :=
  scalarOp (.amo op wd o sc ms d a b c k) (do
    let base ← useReg a
    let (l, _) ← place ms (base + sx k) 2 (widthBytes wd) typesAtomic
    let r := (← get).g.sr
    atomicBefore o sc l
    let (v, p) ← atomicAt 1 (scWide sc) l op wd (r.get b) (r.get c) (r.bad b) (r.bad c)
    if ordRel o && !scWide sc then upd (fun t => t.noteRelease l) else pure ()
    putReg d v p) s

/-! ## Raw words and codes (R300, R301) -/
/-- The place of a word that level H reaches raw: type 0 or 1. -/
def rawPlace (ea : DWord) (kind : Nat) : M Loc := do
  need (ea.toNat % 4 == 0) (.trap 12 0)
  let (l, _) ← place .gl ea kind 4 typesDevice
  pure l
/-- ldk (R300): the word and its code as stored, unchecked. -/
def execLdk (d a : Nat) (k : BitVec 13) (s : State) : Host.Outcome State Fault Refusal :=
  scalarOp (.ldk d a k) (do
    needPaging
    let base ← useReg a
    let l ← rawPlace (base + sx k) 0
    let t ← get
    let (w, c) := t.firstRead t.cur l
    putReg d ((c ++ w : BitVec 40).zeroExtend 64) false) s
/-- stk (R300): the word and the code as given, held like any store. -/
def execStk (d a : Nat) (k : BitVec 13) (s : State) : Host.Outcome State Fault Refusal :=
  scalarOp (.stk d a k) (do
    needPaging
    let base ← useReg a
    let l ← rawPlace (base + sx k) 1
    upd (fun t => t.putWords false [(l, (t.g.sr.get d).truncate 32, ((t.g.sr.get d) >>> 32).truncate 8)])) s
/-- ckinj (R301): the team commits, and the stored code of the word changes; no waiter wakes, and other dies' copies keep the old code. -/
def execCkinj (a b : Nat) (s : State) : Host.Outcome State Fault Refusal :=
  scalarOp (.ckinj a b) (do
    needPaging
    let ea ← useReg a
    let v ← useReg b
    need (ea.toNat % 4 == 0) (.trap 12 0)
    need (v != 0 && decide (v.toNat < 256)) (.trap 14 0)
    let l ← rawPlace ea 1
    upd State.commitMine
    upd (fun t => let (w, c) := t.readLoc l; t.putLoc l w (c ^^^ v.truncate 8))) s

end Sys2Proof.Machine
end

