-- ==== Sys2Proof/Machine/LaneMemory.lean ====
section
/-! DEFINITION. Lane loads, stores and atomics (R265, R368 to R372, R377 to R385). -/
namespace Sys2Proof.Machine

/-- What the address of one lane comes to (R369). -/
inductive LPlace where
  | ok (l : Loc)
  | no (r : LRes)
  deriving DecidableEq, Repr
/-- The effective address of a lane (R368): a register pair in .gl, one register elsewhere; none where a base is poisoned. -/
def Group.laneEa (x : Group) (ms : Space) (a l : Nat) (k : Word) : Option DWord :=
  let (lo, p) := x.lr.get a l
  match ms with
  | .gl =>
    let (hi, q) := x.lr.get (a + 1) l
    if p || q then none else some ((hi ++ lo : DWord) + sx k)
  | .pv | .sp | .cl | .ch => if p then none else some (lo.zeroExtend 64 + sx k)
/-- Steps 1 to 5 of R369 for one lane. -/
def lanePlace (ms : Space) (a l : Nat) (k : Word) (kind width : Nat) (types : Nat → Bool) : M LPlace := fun s =>
  match s.g.laneEa ms a l k with
  | none => .ok (.no (.trap 3 0)) s
  | some ea =>
    match s.reach s.cur l ms ea.toNat kind width types with
    | (.ok p _, s') => .ok (.ok p) s'
    | (.trap c, s') => .ok (.no (.trap c 0)) s'
    | (.fault n c, s') => .ok (.no (.fault n c ea)) s'
    | (.beyond, s') => .ok (.no (.beyond ea)) s'
    | (.wait, s') => .error .wait s'
/-- The places of all lanes that have their sources. -/
def lanePlaces (ms : Space) (a : Nat) (k : Word) (kind width : Nat) (types : Nat → Bool)
    (args : List (Nat × LaneArgs)) : M (List (Nat × LPlace × List (Word × Bool))) :=
  args.mapM (fun e => match e.2 with
    | .error r => do
      let s ← get
      pure (e.1, .no (if (s.g.laneEa ms a e.1 k).isNone then missRes r.1 (.trap 3 0) else r.1), [])
    | .ok as => do
      let p ← lanePlace ms a e.1 k kind width types
      pure (e.1, p, as))
/-- The types that vld and vst reach (R370). -/
def typesLane (ty : Nat) : Bool := decide (ty ≤ 3)
/-- A loaded value in a lane register (R378). -/
def laneExtend (wd : MWidth) (sign : Bool) (v : DWord) : Word :=
  match wd with
  | .b => if sign then (v.truncate 8 : BitVec 8).signExtend 32 else v.truncate 32
  | .h => if sign then (v.truncate 16 : BitVec 16).signExtend 32 else v.truncate 32
  | .w => v.truncate 32
  | .d => v.truncate 32
/-- vld (R378). -/
def execVld (wd : MWidth) (sx : Bool) (o : MOrder) (sc : MScope) (ms : Space) (d : LDest) (a : Nat) (p : LPred) (k : Word) (s : State) :
    Host.Outcome State Fault Refusal :=
  laneOp (.vld wd sx o sc ms d a p k) p [] k (.dst d) 0 (widthBytes wd) (fun _ args => do
    if ordAcq o then acquireWait sc else pure ()
    let ps ← lanePlaces ms a k 0 (widthBytes wd) typesLane args
    let rs ← ps.mapM (fun e => match e.2.1 with
      | .no r => pure (e.1, r)
      | .ok l => do
        if scRmt sc then promote l else pure ()
        let (v, bad) ← loadAt 0 l wd
        pure (e.1, LRes.done [(laneExtend wd sx v, bad)] 0))
    if ordAcq o then upd (fun s => s.acquiredFrom sc false (ps.filterMap (fun e => match e.2.1 with | .ok l => some l.word | .no _ => none))) else pure ()
    pure rs) s

/-- A word that one vst builds: its place, its value, whether it is poisoned. -/
abbrev Built := List (Loc × Word × Bool)
/-- The word at a place among those built so far. -/
def builtAt (b : Built) (l : Loc) : Option (Word × Bool) := (b.find? (fun e => e.1 == l)).map (fun e => e.2)
/-- A word built at a place, in the place of an earlier one. -/
def buildPut (l : Loc) (w : Word) (p : Bool) : Built → Built
  | [] => [(l, w, p)]
  | e :: r => if e.1 = l then (l, w, p) :: r else e :: buildPut l w p r
/-- One lane's bytes join the words of the store (R379): a later lane's bytes stand, and a narrow store begins with the old word (R109). -/
def buildLane (wd : MWidth) (b : Built) (l : Loc) (v : Word) (p : Bool) : M Built := do
  match wd with
  | .w | .d => pure (buildPut l v (p || ((builtAt b l).map (fun e => e.2)).getD false) b)
  | .b | .h =>
    let (old, bad) ← (match builtAt b l.word with
      | some e => pure e
      | none =>
        if l.isHost then do
          let s ← get
          pure ((s.readLoc l.word).1, false)
        else consumeAt 0 l : M (Word × Bool))
    pure (buildPut l.word (mergeBytes old l.byte (widthBytes wd) v.toNat) (bad || p) b)
/-- The words of a lane store. -/
def buildAll (wd : MWidth) : Built → List (Nat × LPlace × List (Word × Bool)) → M Built
  | b, [] => pure b
  | b, (_, .no _, _) :: r => buildAll wd b r
  | b, (_, .ok l, as) :: r => do
    let b' ← buildLane wd b l (argVal as 0) (argBad as 0)
    buildAll wd b' r
/-- The built words are stored with their codes; a poisoned word loses its poison in host memory, with an event (R110). -/
def storeBuilt (home : Bool) (b : Built) : M Unit := do
  upd (fun s => s.putWords home (b.map (fun e => (e.1, e.2.1, codeFor e.2.1 e.2.2 e.1.off))))
  b.forM (fun e => if e.2.2 && e.1.isHost then upd (fun s => s.report 4 9 0) else pure ())
/-- The result of a lane that performs and returns nothing. -/
def placeRes : LPlace → LRes
  | .ok _ => .done [] 0
  | .no r => r
/-- vst (R379). -/
def execVst (wd : MWidth) (o : MOrder) (sc : MScope) (ms : Space) (a : Nat) (b : LSrc) (p : LPred) (k : Word) (s : State) :
    Host.Outcome State Fault Refusal :=
  laneOp (.vst wd o sc ms a b p k) p [b] k .none 1 (widthBytes wd) (fun _ args => do
    let ps ← lanePlaces ms a k 1 (widthBytes wd) typesLane args
    let ws ← buildAll wd [] ps
    if ordRel o then release sc else pure ()
    storeBuilt (ordRel o && scWide sc) ws
    if ordRel o && !scWide sc then ws.forM (fun e => upd (fun s => s.noteRelease e.1)) else pure ()
    pure (ps.map (fun e => (e.1, placeRes e.2.1)))) s

/-- The lanes on one word in ascending order (R265, R385): each lane's old value, the word after them all, and whether it is poisoned. -/
def aggregate (op : AOp) : Word → Bool → List (Nat × List (Word × Bool)) → List (Nat × Word × Bool × Bool) × Word × Bool
  | v, bad, [] => ([], v, bad)
  | v, bad, (l, as) :: r =>
    let own := argBad as 0 || (isCas op && argBad as 1)
    let b := bad || own
    let v' := if b then v else atomicVal op v (argVal as 0) (argVal as 1)
    let (rest, x, y) := aggregate op v' b r
    ((l, v, bad, b) :: rest, x, y)
/-- One address of a vamo: one atomic operation at its home. The results are the lanes' old values. -/
def vamoAt (op : AOp) (home : Bool) (l : Loc) (lanes : List (Nat × List (Word × Bool))) : M (List (Nat × LRes)) := do
  settleAtomics l
  let (v, vp) ← atomicRead l
  let (olds, w, bad) := aggregate op v vp lanes
  storeAt 4 home l .w (w.zeroExtend 64) bad
  upd (fun s => s.noteAtomic home l)
  olds.forM (fun e => if e.2.2.1 then upd (fun s => s.report 3 0 l.ma) else pure ())
  pure (olds.map (fun e => (e.1, .done [(e.2.1, e.2.2.2)] 0)))
/-- The addresses of a vamo one after another, in the order of their lowest lanes (R265 orders none; log entry 1). -/
def vamoAll (op : AOp) (home : Bool) (ps : List (Nat × LPlace × List (Word × Bool))) : List Loc → M (List (Nat × LRes))
  | [] => pure []
  | l :: r => do
    let mine := ps.filterMap (fun e => match e.2.1 with | .ok q => if q = l then some (e.1, e.2.2) else none | .no _ => none)
    let a ← vamoAt op home l mine
    let b ← vamoAll op home ps r
    pure (a ++ b)
/-- vamo (R385). -/
def execVamo (op : AOp) (o : MOrder) (sc : MScope) (ms : Space) (d : LDest) (a : Nat) (b c : LSrc) (p : LPred) (k : Word) (s : State) :
    Host.Outcome State Fault Refusal :=
  laneOp (.vamo op o sc ms d a b c p k) p [b, c] k (.dst d) 2 4 (fun _ args => do
    let ps ← lanePlaces ms a k 2 4 typesAtomic args
    let places := (ps.filterMap (fun e => match e.2.1 with | .ok l => some l | .no _ => none)).eraseDups
    if ordAcq o then
      acquireWait sc
      upd (fun s => s.acquiredFrom sc true places)
    else pure ()
    if places.isEmpty then pure ()
    else if ordRel o then release sc else if scWide sc then upd State.commitMine else pure ()
    if scRmt sc then places.forM promote else pure ()
    let done ← vamoAll op (scWide sc) ps places
    if ordRel o && !scWide sc then places.forM (fun l => upd (fun s => s.noteRelease l)) else pure ()
    pure (ps.map (fun e => (e.1, match e.2.1 with
      | .no r => r
      | .ok _ => ((done.find? (fun f => f.1 == e.1)).map (fun f => f.2)).getD (.done [] 0))))) s

end Sys2Proof.Machine
end

