-- ==== Sys2Proof/Machine/Course.lean ====
section
/-! DEFINITION. Course loads, stores and the optimizer update (R82 to R88, R97, R266, R267, R362 to R367). -/
namespace Sys2Proof.Machine

/-! ## Course values -/
/-- Exponent bits, mantissa bits and bias of a family's 32-bit member (R82). -/
def famShape : Fam → Nat × Nat × Nat
  | .ne4 => (4, 27, 7)
  | .ne5 => (5, 26, 15)
/-- The rounding read of one element (R88): its k-course prefix x with the next course; the result, and whether it saturates. -/
def courseRound (k x nxt : Nat) : Nat × Bool :=
  if 128 < nxt || (nxt = 128 && x % 2 = 1) then
    (if x % 2 ^ (8 * k - 1) = 2 ^ (8 * k - 1) - 1 then (x, true) else (x + 1, false))
  else (x, false)
/-- Byte j of a word. -/
def wordByte (w : Word) (j : Nat) : Nat := w.toNat / 256 ^ j % 256
/-- Element j of course words, most significant course first (R84). -/
def courseElem (ws : List Word) (j : Nat) : Nat := ws.foldl (fun x w => x * 256 + wordByte w j) 0
/-- Course word c of four elements of k courses. -/
def courseWord (xs : List Nat) (k c : Nat) : Word :=
  BitVec.ofNat 32 (xs.zipIdx.foldl (fun v e => v + e.1 / 256 ^ (k - 1 - c) % 256 * 256 ^ e.2) 0)
/-- The course words of a rounding read of k courses (R88, R364), from k + 1 words: the words, and whether an element saturates. -/
def roundWords (k : Nat) (ws : List Word) : List Word × Bool :=
  let es := (List.range 4).map (fun j => courseRound k (courseElem (ws.take k) j) (wordByte (ws.getD k 0) j))
  ((List.range k).map (courseWord (es.map (fun e => e.1)) k), es.any (fun e => e.2))
/-- An NE*.32 pattern plus an F32 delta (R97): the pattern and the flags; none where the delta is NaN or infinite. -/
def courseUpdate (f : Fam) (x : Nat) (delta : Word) : Option (Nat × Nat) :=
  let (eb, mb, bias) := famShape f
  let d := Num.f32 delta
  let v := Num.codeVal eb mb bias x
  if d.isNan || d.isInf then none
  else
    let t := v.dy.add d.dy
    let neg := if t.m = 0 then v.neg && d.neg else decide (t.m < 0)
    let (c, nx, sat) := Num.saturating (Num.upOf .rne) eb mb bias neg t.m.natAbs t.e
    some (c, (if nx then fNx else 0) + (if sat then fSat else 0))

/-! ## Places (R363) -/
/-- The line of one lane: a 512-byte aligned address whose last accessed word, far bytes on, is in range. -/
def coursePlace (ms : Space) (a l : Nat) (k : Word) (kind far : Nat) : M LPlace := fun s =>
  match s.g.laneEa ms a l k with
  | none => .ok (.no (.trap 3 0)) s
  | some ea =>
    if ms != .gl && (s.spacePlace s.cur l ms (ea.toNat + far)).isNone then .ok (.no (.trap 14 0)) s
    else lanePlace ms a l k kind 512 typesDevice s
/-- The lines of the lanes that have their sources; n courses are accessed. -/
def coursePlaces (ms : Space) (a : Nat) (k : Word) (kind n : Nat) (args : List (Nat × LaneArgs)) :
    M (List (Nat × LPlace)) :=
  args.mapM (fun e => match e.2 with
    | .error r => pure (e.1, .no r.1)
    | .ok _ => do
      let p ← coursePlace ms a e.1 k kind ((n - 1) * 128 + 4 * e.1)
      pure (e.1, p))
/-- Course word c of lane l in its line (R85). -/
def courseLoc (l : Loc) (lane c : Nat) : Loc := l.plus (c * 128 + 4 * lane)

/-! ## Instructions -/
/-- The destination of a course load: a run of registers when it writes several. -/
def courseDst (n : Nat) (d : LDest) : LaneDst :=
  match d with
  | .v r b => if n = 1 then .dst (.v r b) else .run r
  | .latch k => .dst (.latch k)
  | .y k b => .dst (.y k b)
/-- One lane of vldc from its words (R364). -/
def courseLane (n : Nat) (rn : Bool) (ws : List (Word × Bool)) : LRes :=
  if rn then
    let bad := anyBad ws
    let (rs, sat) := roundWords n (ws.map (fun e => e.1))
    .done (rs.map (fun w => (w, bad))) (if sat && !bad then fSat else 0)
  else .done ws 0
/-- vldc (R364). -/
def execVldc (fam : Fam) (n : Nat) (rn : Bool) (ms : Space) (d : LDest) (a : Nat) (p : LPred) (k : Word) (s : State) :
    Host.Outcome State Fault Refusal :=
  laneOp (.vldc fam n rn ms d a p k) p [] k (courseDst n d) 0 (4 * if rn then n + 1 else n) (fun _ args => do
    let m := if rn then n + 1 else n
    let ps ← coursePlaces ms a k 0 m args
    ps.mapM (fun e => match e.2 with
      | .no r => pure (e.1, r)
      | .ok l => do
        let ws ← (List.range m).mapM (fun c => consumeAt 0 (courseLoc l e.1 c))
        pure (e.1, courseLane n rn ws))) s
/-- vstc (R365): whole course words, each with its register's poison; the buffer has room for all of them first, so that each line changes in one step (R266). -/
def execVstc (fam : Fam) (n : Nat) (ms : Space) (a b : Nat) (p : LPred) (k : Word) (s : State) : Host.Outcome State Fault Refusal :=
  laneOp (.vstc fam n ms a b p k) p [] k .none 1 (4 * n) (fun _ args => do
    let ps ← coursePlaces ms a k 1 n args
    let t ← get
    let ws := ps.map (fun e => match e.2 with
      | .no _ => []
      | .ok l => (List.range n).map (fun c =>
        let v := t.g.lr.get (b + c) e.1
        (courseLoc l e.1 c, v.1, v.2)))
    upd (fun t => t.makeRoom t.g.team (ws.flatten.map (fun e => e.1)))
    storeBuilt false ws.flatten
    pure (ps.map (fun e => (e.1, placeRes e.2)))) s
/-- One lane of vcupd (R366): the words to write with their poison, and the flags. -/
def updateLane (fam : Fam) (ws deltas : List (Word × Bool)) : List (Word × Bool) × Nat :=
  let ys := (List.range 4).map (fun j => courseUpdate fam (courseElem (ws.map (fun e => e.1)) j) (argVal deltas j))
  if anyBad ws || anyBad deltas || ys.any Option.isNone then (ws.map (fun e => (e.1, true)), 0)
  else
    let zs := ys.map (fun y => y.getD (0, 0))
    ((List.range 4).map (fun c => (courseWord (zs.map (fun z => z.1)) 4 c, false)), zs.foldl (fun f z => f ||| z.2) 0)
/-- vcupd (R366): an atomic at each line's home; the flags come back with no trap. -/
def execVcupd (fam : Fam) (ms : Space) (a b : Nat) (p : LPred) (k : Word) (s : State) : Host.Outcome State Fault Refusal :=
  laneOp (.vcupd fam ms a b p k) p [] k .none 2 16 (fun _ args => do
    let ps ← coursePlaces ms a k 2 4 args
    upd (fun t => t.makeRoom t.g.team ((ps.map (fun e => match e.2 with
      | .no _ => []
      | .ok l => (List.range 4).map (courseLoc l e.1))).flatten))
    ps.mapM (fun e => match e.2 with
      | .no r => pure (e.1, r)
      | .ok l => do
        settleAtomics l
        let ws ← (List.range 4).mapM (fun c => atomicRead (courseLoc l e.1 c))
        let t ← get
        let (vs, fl) := updateLane fam ws ((List.range 4).map (fun j => t.g.lr.get (b + j) e.1))
        storeBuilt false (vs.zipIdx.map (fun v => (courseLoc l e.1 v.2, v.1.1, v.1.2)))
        upd (fun t => t.noteAtomic false l)
        pure (e.1, .done [] fl))) s

end Sys2Proof.Machine
end

