-- ==== Sys2Proof/Machine/CrossLane.lean ====
section
/-! DEFINITION. Cross-lane instructions (R342 to R345). A word that runs again after a return reads the lanes that completed before as they are now
(log entry 16). -/
namespace Sys2Proof.Machine

/-- What the active lanes of a word supply to each other: each lane's source, none where its own address faulted. -/
abbrev Seen := List (Nat × Option (Word × Bool))
/-- A lane whose source is lost or out of range supplies a free value (log entry 16). -/
def seenOf (free : Nat) (args : List (Nat × LaneArgs)) : Seen :=
  args.map (fun e => (e.1, match e.2 with
    | .ok as => some (as.getD 0 (0, false))
    | .error r => if r.1.isFault then none else some (Config.freeWord (free + e.1), false)))
/-- The first source of every active lane. -/
def seen (w : LaneWord) (imm : Word) (srcs : List LSrc) : M Seen := fun s =>
  let args := (lanesOf w.active).map (fun l => (l, s.g.laneArgs imm l srcs))
  let lost := args.any (fun e => match e.2 with | .ok _ => false | .error r => !r.1.isFault)
  .ok (seenOf s.freeIdx args) (if lost then { s with freeIdx := s.freeIdx + 32 } else s)
/-- The values of all lanes seen; none where one of them faulted. -/
def Seen.vals (v : Seen) : Option (List (Nat × Word × Bool)) := v.mapM (fun e => e.2.map (fun x => (e.1, x)))
/-- Every executing lane with its sources gets f of itself; the others end as their source says. -/
def crossRes (args : List (Nat × LaneArgs)) (f : Nat → List (Word × Bool) → LRes) : List (Nat × LRes) :=
  args.map (fun e => (e.1, e.2.res (f e.1)))

/-- The lane that lane l reads (R342); none outside 0 to 31. -/
def shflLane (mode : ShflMode) (l n : Nat) : Option Nat :=
  match mode with
  | .idx => some (n % 32)
  | .up => if n ≤ l then some (l - n) else none
  | .down => if l + n < 32 then some (l + n) else none
  | .xor => some (Nat.xor l (n % 32))
/-- vshfl (R342). -/
def execVshfl (mode : ShflMode) (d : LDest) (a b : LSrc) (p : LPred) (imm : Word) (s : State) : Host.Outcome State Fault Refusal :=
  laneOp (.vshfl mode d a b p imm) p [a, b] imm (.dst d) 0 4 (fun w args => do
    let v ← seen w imm [a]
    pure (crossRes args (fun l as =>
      if argBad as 1 then .trap 3 0
      else match shflLane mode l (argVal as 1).toNat with
        | none => .done [] 0
        | some j =>
          match v.find? (fun e => e.1 == j) with
          | none => .done [] 0
          | some (_, none) => .hold
          | some (_, some x) => .done [x] 0))) s

/-- The vote of R343 over the values of the active lanes: its result word and poison bit; none for trap 3. -/
def voteOf (mode : VoteMode) (vs : List (Nat × Word × Bool)) : Option (Word × Bool) :=
  let v := vs.filter (fun e => e.2.1 != 0)
  let bad := vs.any (fun e => e.2.2)
  match mode with
  | .any => if bad then none else some (if v.isEmpty then 0 else 1, false)
  | .all => if bad then none else some (if v.length = vs.length then 1 else 0, false)
  | .ballot => some (maskOf (fun l => v.any (fun e => e.1 == l)), bad)
/-- The destination of a vote (R343). -/
def voteDst (mode : VoteMode) (d : LDest) : LaneDst :=
  match mode, d with
  | .ballot, d => .dst d
  | .any, .v n _ => .pred n
  | .all, .v n _ => .pred n
  | _, .latch _ => .none
  | _, .y _ _ => .none
/-- vvote (R343). -/
def execVvote (mode : VoteMode) (d : LDest) (a : LSrc) (p : LPred) (imm : Word) (s : State) : Host.Outcome State Fault Refusal :=
  laneOp (.vvote mode d a p imm) p [a] imm (voteDst mode d) 0 4 (fun w args => do
    let v ← seen w imm [a]
    pure (crossRes args (fun _ _ =>
      match v.vals with
      | none => .hold
      | some vs => (match voteOf mode vs with | some r => .done [r] 0 | none => .trap 3 0)))) s

/-- RoundNE of the exact sum of F32 values (R344). -/
def sumF32 (ws : List Word) : Num.Res :=
  let vs := ws.map Num.f32
  let pos := vs.any (fun v => v.isInf && !v.neg)
  let neg := vs.any (fun v => v.isInf && v.neg)
  Num.onNan vs
    (if pos && neg then (Num.dnan, fInv) else if pos then (Num.infF false, 0) else if neg then (Num.infF true, 0)
     else Num.roundDy .rne (vs.all (fun v => v.isZero && v.neg)) (Num.Dy.sum (vs.map Num.Val.dy)))
/-- The least or greatest of F32 values (R344). -/
def boundF32 (max : Bool) (ws : List Word) : Num.Res :=
  let fl := if ws.any (fun w => (Num.f32 w).isSig) then fInv else 0
  match ws.filter (fun w => !(Num.f32 w).isNan) with
  | [] => (Num.dnan, fl)
  | w :: r => (r.foldl (fun x y => (Num.fminmax max x y).1) w, fl)
/-- The reduction of R344: the result and its flags. -/
def reduce (op : RedOp) (ws : List Word) : Num.Res :=
  match op, ws with
  | .add, ws => (ws.foldl (· + ·) 0, 0)
  | .min, w :: r => (r.foldl (LaneAlu.least false) w, 0)
  | .max, w :: r => (r.foldl (LaneAlu.greatest false) w, 0)
  | .minu, w :: r => (r.foldl (LaneAlu.least true) w, 0)
  | .and, w :: r => (r.foldl (· &&& ·) w, 0)
  | .or, ws => (ws.foldl (· ||| ·) 0, 0)
  | .xor, ws => (ws.foldl (· ^^^ ·) 0, 0)
  | .fadd, ws => sumF32 ws
  | .fmin, ws => boundF32 false ws
  | .fmax, ws => boundF32 true ws
  | .min, [] => (0, 0)
  | .max, [] => (0, 0)
  | .minu, [] => (0, 0)
  | .and, [] => (0, 0)
/-- vred (R344). -/
def execVred (op : RedOp) (d : LDest) (a : LSrc) (p : LPred) (imm : Word) (s : State) : Host.Outcome State Fault Refusal :=
  laneOp (.vred op d a p imm) p [a] imm (.dst d) 0 4 (fun w args => do
    let v ← seen w imm [a]
    pure (crossRes args (fun _ _ =>
      match v.vals with
      | none => .hold
      | some vs =>
        let bad := vs.any (fun e => e.2.2)
        let r := reduce op (vs.map (fun e => e.2.1))
        .done [(r.1, bad)] (if bad then 0 else r.2)))) s
/-- vscan (R345). -/
def execVscan (d : LDest) (a : LSrc) (p : LPred) (imm : Word) (s : State) : Host.Outcome State Fault Refusal :=
  laneOp (.vscan d a p imm) p [a] imm (.dst d) 0 4 (fun w args => do
    let v ← seen w imm [a]
    pure (crossRes args (fun l _ =>
      match Seen.vals (v.filter (fun e => decide (e.1 ≤ l))) with
      | none => .hold
      | some vs => .done [((vs.map (fun e => e.2.1)).foldl (· + ·) 0, vs.any (fun e => e.2.2))] 0))) s

end Sys2Proof.Machine
end

