-- ==== Sys2Proof/Machine/Dot.lean ====
section
/-! DEFINITION. Packed dot products and block scales (R93 to R96, R347 to R350). -/
namespace Sys2Proof.Machine

/-- An F32 accumulator plus an exact sum, rounded once (R93, R94): a NaN accumulator gives the default NaN, an infinite one stays. An exact zero is
negative only where every addend is. -/
def accFloat (acc : Word) (prods : List Num.Val) : Num.Res :=
  let v := Num.f32 acc
  Num.onNan [v]
    (if v.isInf then (acc, 0)
     else Num.roundDy .rne ((v :: prods).all (fun x => x.isZero && x.neg)) (Num.Dy.sum ((v :: prods).map Num.Val.dy)))
/-- An I32 accumulator plus an exact sum, clamped (R95). -/
def accInt (acc : Word) (prods : List Num.Val) : Num.Res :=
  let t : Int := acc.toInt + prods.foldl (fun x v => x + v.dy.at 0) 0
  if t < -(2 ^ 31) then (0x80000000, fSat) else if 2 ^ 31 - 1 < t then (0x7FFFFFFF, fSat) else (BitVec.ofInt 32 t, 0)
/-- The product of two finite values. -/
def prodVal (a b : Num.Val) : Num.Val := (Num.mulV a b).getD (.fin false 0 0)
/-- An integer element format. -/
def isInt : Fmt → Bool
  | .i32 => true | .n32 => true | .i8 => true | .n8 => true | .i4 => true
  | .f32 => false | .e4m3 => false | .e5m2 => false | .e2m1 => false | .e8s => false | .ne4 => false | .ne5 => false
/-- The dot product of n packed elements (R348). -/
def dotRes (f : Fmt) (n : Nat) (a b c : Word) : Num.Res :=
  let ps := (List.range n).map (fun j => prodVal (Num.elemVal f (Num.elem f a j)) (Num.elemVal f (Num.elem f b j)))
  if isInt f then accInt c ps else accFloat c ps
/-- vdot4 (R348). -/
def execVdot4 (f : Fmt) (d : LDest) (a b c : LSrc) (p : LPred) (imm : Word) (s : State) : Host.Outcome State Fault Refusal :=
  laneMap (.vdot4 f d a b c p imm) p [a, b, c] imm (.dst d)
    (fun _ as => floatRes (fun as => dotRes f 4 (argVal as 0) (argVal as 1) (argVal as 2)) as) s
/-- vdot8 (R348). -/
def execVdot8 (f : Fmt) (d : LDest) (a b c : LSrc) (p : LPred) (imm : Word) (s : State) : Host.Outcome State Fault Refusal :=
  laneMap (.vdot8 f d a b c p imm) p [a, b, c] imm (.dst d)
    (fun _ as => floatRes (fun as => dotRes f 8 (argVal as 0) (argVal as 1) (argVal as 2)) as) s

/-- c + a * 2^(eA-127) * 2^(eB-127) (R96). -/
def scaleRes (a c : Word) (ea eb : Nat) : Num.Res :=
  let p : Num.Val := match Num.f32 a with
    | .fin n m e => .fin n m (e + ea - 127 + eb - 127)
    | .inf n => .inf n
    | .nan q => .nan q
  Num.onNan [p, Num.f32 c] (Num.addV .rne p (Num.f32 c))
/-- vscacc (R350): the B-side scale comes from lane blane. -/
def execVscacc (d : LDest) (a b c : LSrc) (abyte bbyte blane : Nat) (p : LPred) (s : State) : Host.Outcome State Fault Refusal :=
  laneOp (.vscacc d a b c abyte bbyte blane p) p [a, b, c] 0 (.dst d) 0 4 (fun w args => do
    let v ← seen w 0 [b]
    pure (crossRes args (fun _ as =>
      match v.find? (fun e => e.1 == blane) with
      | none => .done [] 0
      | some (_, none) => .hold
      | some (_, some (y, q)) =>
        let bad := anyBad as || q
        let r := scaleRes (argVal as 0) (argVal as 2) (Num.elem .e8s (argVal as 1) abyte) (Num.elem .e8s y bbyte)
        .done [(r.1, bad)] (if bad then 0 else r.2)))) s

end Sys2Proof.Machine
end

