-- ==== Sys2Proof/Machine/LaneControl.lean ====
section
/-! DEFINITION. Lane control: the branches and the end of a path (R163 to R166). -/
namespace Sys2Proof.Machine

/-- The lane word d words from an address (R55). -/
def laneTarget (pc : DWord) (d : BitVec 16) : DWord := pc + 12 * sx d
/-- A lane word that only moves paths: f gives the lane context after it, or none for trap 14 with arg 1 in every lane of the path (R164). A word that a
return skips is past. -/
def laneMove (i : Instr) (f : LaneWord → LaneCtx → Option LaneCtx) (s : State) : Host.Outcome State Fault Refusal :=
  let w := s.laneWord { neg := false, p := 0 }
  if (match w.redo with | some r => r.skip | none => false) then .next (s.endWord w [] .none none).flush
  else
    match f w s.g.lane with
    | some c => .next (s.updG (fun x => (x.endReads w.slot).withLane c)).flush
    | none =>
      let mark : WordMark := { path := w.path.mask, active := w.path.mask, done := 0, push := none }
      .next (s.laneTrap w (encodeWord i) 14 1 w.path.mask 0 mark).flush
/-- The branch of R164: the lanes whose predicate holds go to the target, the others go on; they meet at join. -/
def LaneCtx.branch (c : LaneCtx) (r : LRegs) (now : Nat) (w : LaneWord) (p : LPred) (target join : DWord) : Option LaneCtx :=
  let pr := if p.neg then ~~~(r.pred p.p) else r.pred p.p
  let t := w.path.mask &&& pr
  if p.p = 0 || t = w.path.mask then some (c.movePath now w.slot target)
  else if t = 0 then some (c.movePath now w.slot (w.path.pc + 12))
  else c.diverge now w.slot t target (w.path.pc + 12) join
/-- vbr (R164). -/
def execVbr (p : LPred) (target join : BitVec 16) (s : State) : Host.Outcome State Fault Refusal :=
  laneMove (.vbr p target join) (fun w c =>
    c.branch s.g.lr (s.clock s.cur) w p (laneTarget w.path.pc target) (laneTarget w.path.pc join)) s
/-- vjoin (R164): the join is the next word. -/
def execVjoin (p : LPred) (target : BitVec 16) (s : State) : Host.Outcome State Fault Refusal :=
  laneMove (.vjoin p target) (fun w c =>
    c.branch s.g.lr (s.clock s.cur) w p (laneTarget w.path.pc target) (w.path.pc + 12)) s
/-- vend (R166). -/
def execVend (s : State) : Host.Outcome State Fault Refusal :=
  laneMove .vend (fun w c => some (c.endPath (s.clock s.cur) w.slot)) s

end Sys2Proof.Machine
end

