-- ==== Sys2Proof/Machine/Matrix.lean ====
section
/-! DEFINITION. The matrix engine: tiles in registers and in scratchpad, staging, paired engines (R94, R95, R351 to R361). -/
namespace Sys2Proof.Machine

/-! ## Tiles (R351) -/
/-- The image words of one row of A or one column of B: 16 words with their poison. -/
abbrev Image := List (Word × Bool)
/-- The elements of an image in the order of k. -/
def imageVals (f : Fmt) (r : Image) : List Num.Val :=
  let ws := r.map (fun e => e.1)
  match f with
  | .ne4 | .ne5 =>
    ((List.range 8).map (fun q => (List.range 4).map (fun j =>
      Num.elemVal f (courseElem [ws.getD (2 * q) 0, ws.getD (2 * q + 1) 0] j)))).flatten
  | .e2m1 | .i4 => (ws.map (fun w => (List.range 8).map (fun j => Num.elemVal f (Num.elem f w j)))).flatten
  | .e4m3 | .e5m2 | .i8 | .n8 | .e8s => (ws.map (fun w => (List.range 4).map (fun j => Num.elemVal f (Num.elem f w j)))).flatten
  | .f32 | .i32 | .n32 => []
/-- The image of lane i in the run of 16 registers from r. -/
def LRegs.image (x : LRegs) (r i : Nat) : Image := (List.range 16).map (fun w => x.get (r + w) i)
/-- One element of C (R94, R95, R99): its new word, its poison bit, the flags it raises. -/
def matrixElem (fa fb : Fmt) (c : Word × Bool) (a b : Image) : Word × Bool × Nat :=
  let ps := (imageVals fa a).zipWith prodVal (imageVals fb b)
  let r := if isInt fa && isInt fb then accInt c.1 ps else accFloat c.1 ps
  let bad := c.2 || anyBad a || anyBad b
  (r.1, bad, if bad then 0 else r.2)
/-- What a matrix instruction writes (R353): register * 32 + lane with word and poison for the rows of the mask, and each row's flags.
satA and satB list the rows of A and columns of B whose rounding read saturated (R356). -/
def matrixOut (x : LRegs) (fa fb : Fmt) (d : Nat) (mask : Mask) (a b : Nat → Image) (satA satB : List Nat) :
    List (Nat × Word × Bool) × List (Nat × Nat) :=
  let rows := (lanesOf mask).map (fun i =>
    (i, (List.range 32).map (fun j => ((d + j) * 32 + i, matrixElem fa fb (x.get (d + j) i) (a i) (b j)))))
  ((rows.map (fun r => r.2.map (fun e => (e.1, e.2.1, e.2.2.1)))).flatten,
   rows.map (fun r => (r.1, r.2.foldl (fun f e => f ||| e.2.2.2) (if satA.contains r.1 || !satB.isEmpty then fSat else 0))))

/-! ## Tiles in scratchpad (R356, R357) -/
/-- An operand descriptor. -/
structure TileDesc where
  course : Bool
  ncourse : Nat
  rot : Nat
  tpitch : Nat
  rpitch : Nat
  deriving DecidableEq, Repr
/-- The courses of a format that course planes may hold. -/
def planesOf : Fmt → Nat
  | .e4m3 => 1 | .e5m2 => 1 | .ne4 => 2 | .ne5 => 2
  | .f32 => 0 | .i32 => 0 | .n32 => 0 | .e2m1 => 0 | .i8 => 0 | .n8 => 0 | .i4 => 0 | .e8s => 0
/-- The descriptor a register holds; none where it breaks R356. -/
def tileDesc (f : Fmt) (v : DWord) : Option TileDesc :=
  let n := planesOf f
  let x : TileDesc :=
    { course := v.getLsbD 37, ncourse := fld v 35 2, rot := fld v 32 3, tpitch := fld v 16 16, rpitch := fld v 0 16 }
  if fld v 38 26 = 0 && x.rpitch % 4 = 0 && x.tpitch % 4 = 0 &&
     (if x.course then n != 0 && (x.ncourse == n || x.ncourse == n + 1) else x.ncourse == 0 && x.tpitch == 0) then some x
  else none
/-- The offset of image word w of row i. -/
def TileDesc.off (x : TileDesc) (f : Fmt) (i w : Nat) : Nat :=
  if x.course && planesOf f = 2 then i * x.rpitch + w % 2 * x.tpitch + 4 * ((w / 2 + x.rot * i) % 8)
  else i * x.rpitch + 4 * ((w + x.rot * i) % 16)
/-- The engine also reads the next course plane and rounds. -/
def TileDesc.rounds (x : TileDesc) (f : Fmt) : Bool := x.course && x.ncourse == planesOf f + 1
/-- The offset of the word of the next plane beside image word w. -/
def TileDesc.next (x : TileDesc) (f : Fmt) (i w : Nat) : Nat :=
  if planesOf f = 2 then i * x.rpitch + 2 * x.tpitch + 4 * ((w / 2 + x.rot * i) % 8) else x.off f i w + x.tpitch
/-- Every offset a tile reads. -/
def TileDesc.offs (x : TileDesc) (f : Fmt) : List Nat :=
  ((List.range 32).map (fun i => (List.range 16).map (fun w => x.off f i w) ++
    (if x.rounds f then (List.range 16).map (fun w => x.next f i w) else []))).flatten
/-- Course words c = 0 to n rounded together (R88, R364): poison of one poisons all. -/
def roundImage (n : Nat) (ws : Image) : Image × Bool :=
  let bad := anyBad ws
  let (rs, sat) := roundWords n (ws.map (fun e => e.1))
  (rs.map (fun w => (w, bad)), sat && !bad)
/-- The image of row i as the operand port receives it, and whether a rounding saturated; base is an offset in the core's SRAM. -/
def tileRow (x : TileDesc) (f : Fmt) (t base i : Nat) : M (Image × Bool) := do
  let at_ (o : Nat) : M (Word × Bool) := consumeAt 2 (.sram t (base + o))
  let ws ← (List.range 16).mapM (fun w => at_ (x.off f i w))
  if x.rounds f then
    let n := planesOf f
    let rs ← (List.range (16 / n)).mapM (fun q => do
      let e ← at_ (x.next f i (n * q))
      pure (roundImage n ((ws.drop (n * q)).take n ++ [e])))
    pure ((rs.map (fun r => r.1)).flatten, rs.any (fun r => r.2))
  else pure (ws, false)
/-- A whole tile: its words row by row, and the rows that saturated. -/
def tileRows (x : TileDesc) (f : Fmt) (t base : Nat) : M (Image × List Nat) := do
  let rs ← (List.range 32).mapM (fun i => tileRow x f t base i)
  pure ((rs.map (fun r => r.1)).flatten, rs.zipIdx.filterMap (fun r => if r.1.2 then some r.2 else none))

/-! ## The engine (R354, R358) -/
/-- The first unstarted operation of a group's running level. -/
def State.nextMatrix (s : State) (g : Nat) : Option (Nat × MatrixOp) :=
  s.matrix.find? (fun m => m.2.group == g && !m.2.started && m.2.tok == (s.group g).tok)
/-- The core whose engine serves an operation: that of its group's team (R354). -/
def State.engineOf (s : State) (m : MatrixOp) : Nat := (s.team (s.group m.group).team).core
/-- The engine of a core is free. -/
def State.engineFree (s : State) (core : Nat) : Bool := !(s.matrix.any (fun m => s.engineOf m.2 == core && m.2.started))
/-- The operations that an engine may start: the first of each active group of its core, but for a vmmap, whose start its own scheduler and the partner's choose
together (R354, R360). -/
def State.engineQueue (s : State) (core : Nat) : List (Nat × MatrixOp) :=
  (s.groups.filter (fun g => g.2.gstate == .active && g.2.level != 3 && (s.team g.2.team).core == core)).filterMap (fun g =>
    (s.nextMatrix g.1).bind (fun e => if e.2.kind = 2 then none else some e))
/-- The engine takes the group whose last issue on it is oldest, and of two such the one in the lower context (R175, R354). -/
def State.engineTurn (s : State) (m : MatrixOp) : Bool :=
  let x := s.group m.group
  (s.engineQueue (s.engineOf m)).all (fun e =>
    let y := s.group e.2.group
    decide (x.issuedMx < y.issuedMx) || (x.issuedMx == y.issuedMx && decide (x.ctx ≤ y.ctx)))
/-- Staging bytes of a team that its operations hold: 4 KiB from a vmmas's issue until the engine has read both tiles. -/
def State.stagingHeld (s : State) (t : Nat) : Nat :=
  4096 * (s.matrix.filter (fun m => (s.group m.2.group).team == t && m.2.kind == 1 && !m.2.started)).length
/-- Staging bytes of a team (R200). -/
def State.stageBytes (s : State) (t : Nat) : Nat := (s.descOf t).stage * 1024
/-- The acting group's operation of a kind, as it waits for the engine. -/
def State.matrixOp (s : State) (w : LaneWord) (kind : Nat) (fa fb : Fmt) (d a b : Nat)
    (staged : Option (Image × Image × List Nat × List Nat)) : MatrixOp :=
  { group := s.cur, tok := s.g.tok, path := w.path.mask, t0 := s.cycle.toNat, kind := kind, fa := fa, fb := fb,
    d := d, a := a, b := b, mask := w.run, seq := s.g.seq, staged := staged, started := false, out := [], flags := [] }
/-- The operation joins the engine's list. -/
def State.addMatrix (s : State) (m : MatrixOp) : State :=
  { s with matrix := tabPut s.matrix s.nextId m, nextId := s.nextId + 1 }
/-- A matrix word: every active lane is done when the operation is handed over; the results come with MATRIX_COMPLETE. -/
def matrixWord (i : Instr) (p : LPred) (body : LaneWord → M Unit) (s : State) : Host.Outcome State Fault Refusal :=
  laneOp i p [] 0 .none 0 4 (fun w args => do
    body w
    pure (args.map (fun e => (e.1, .done [] 0)))) s
/-- vmma (R353): it reads its registers when the engine starts it. -/
def execVmma (fa fb : Fmt) (d a b : Nat) (p : LPred) (s : State) : Host.Outcome State Fault Refusal :=
  matrixWord (.vmma fa fb d a b p) p (fun w =>
    if w.run = 0 then pure () else upd (fun t => t.addMatrix (t.matrixOp w 0 fa fb d a b none))) s
/-- The base of a scratchpad tile: the team of its logical core and the offset (R237, R357). -/
def tileBase (v : DWord) : M (Nat × Nat) := fun s =>
  if v.toNat < 2 ^ 22 then
    match s.teamAt s.g.team (v.toNat / 2 ^ 19) with
    | some t => .ok (t, v.toNat % 2 ^ 19) s
    | none => .error (.trap 14 0) s
  else .error (.trap 14 0) s
/-- vmmas (R357): its checks in their order, the wait for staging, and both tiles copied into staging. -/
def execVmmas (fa fb : Fmt) (d sA sDA sB sDB : Nat) (p : LPred) (s : State) : Host.Outcome State Fault Refusal :=
  matrixWord (.vmmas fa fb d sA sDA sB sDB p) p (fun w => do
    if w.run = 0 then pure ()
    else
      let r := (← get).g.sr
      need (!(r.bad sA || r.bad sDA || r.bad sB || r.bad sDB)) (.trap 3 0)
      let (ta, oa) ← tileBase (r.get sA)
      let (tb, ob) ← tileBase (r.get sB)
      need (oa % 4 == 0 && ob % 4 == 0) (.trap 12 0)
      match tileDesc fa (r.get sDA), tileDesc fb (r.get sDB) with
      | some x, some y =>
        let t ← get
        need ((x.offs fa).all (fun o => decide (oa + o + 4 ≤ (t.descOf ta).scratch)) &&
          (y.offs fb).all (fun o => decide (ob + o + 4 ≤ (t.descOf tb).scratch))) (.trap 14 0)
        need (decide (4096 ≤ t.stageBytes t.g.team)) (.trap 11 0)
        need (decide (t.stagingHeld t.g.team + 4096 ≤ t.stageBytes t.g.team)) .wait
        let (wa, sa) ← tileRows x fa ta ((t.team ta).sramAt + oa)
        let (wb, sb) ← tileRows y fb tb ((t.team tb).sramAt + ob)
        upd (fun t => t.addMatrix (t.matrixOp w 1 fa fb d 0 0 (some (wa, wb, sa, sb))))
      | none, _ => trap 14
      | some _, none => trap 14) s

/-! ## Paired engines (R359 to R361) -/
/-- The group that a group may pair with: the same c.grp in the team on logical core c.core xor 1 of the set. -/
def State.partnerOf (s : State) (g : Nat) : Option Nat :=
  match s.teamAt (s.group g).team (Nat.xor (s.lcoreOf (s.group g).team) 1) with
  | none => none
  | some u => (s.groups.find? (fun e => e.2.team == u && e.2.idx == (s.group g).idx && e.2.gstate != .free && e.2.level != 3)).map (fun e => e.1)
/-- The cycles in which a partner may come (R359, R360), and those between the later ready cycle and the pair (R359). -/
def pairLimit : Nat := 4096
def pairDelay : Nat := 8
/-- A group is ready to pair, still within its limit, and has found none to pair with (R359). -/
def State.awaitsPair (s : State) (g now : Nat) : Bool :=
  (s.matched g).isNone && (match (s.group g).pairReady with | some t0 => decide (now < t0 + pairLimit) | none => false)
/-- Two ready groups have found each other at a cycle; each waits in its pair for the start that both schedulers agree. An entry that reaches one before it ends this (R420). -/
def Group.matchWith (x : Group) (h now : Nat) : Group := { x with pairMatch := some (h, now), pairLost := false }
/-- A group is paired with h and goes on after its pair. -/
def Group.paired (x : Group) (h : Nat) : Group :=
  { x with partner := some h, seq := 0, pairReady := none, pairMatch := none, pairLost := false }.advance 4
/-- Two groups complete their pair at one cycle (R359); the partner's scalar word counts as the acting group's does (R404). -/
def State.completePair (s : State) (g h : Nat) : State :=
  ((s.updGroup h (fun x => x.paired g)).updGroup g (fun x => x.paired h)).count (s.dieOf h) (s.ownerOf h) 17 1
/-- pair (R359): it ends an older pairing of the group, waits in place until the partner is ready to pair, and both go on together at least 8 cycles after the later of
the two was ready; trap 10 where the pairing is lost meanwhile (R361), trap 15 at level S (log entry 7). -/
def execPair (s : State) : Host.Outcome State Fault Refusal :=
  scalarJump .pair (do
    let t ← get
    need (t.g.level != 3) (.trap 15 0)
    needLanes
    need (decide (Nat.xor (t.lcoreOf t.g.team) 1 < (t.setTeams t.g.team).length)) (.trap 14 0)
    let now := t.cycle.toNat
    match t.g.pairReady with
    | some _ =>
      if t.g.pairLost then do
        upd (fun t => t.updG (fun x => { x with pairLost := false, pairReady := none }))
        trap 10
      else match t.matched t.cur with
        | some (h, r) => if r + pairDelay ≤ now then upd (fun t => t.completePair t.cur h) else throw .wait
        | none => throw .wait
    | none =>
      upd (fun t => t.losePair t.cur)
      upd (fun t => t.updG (fun x => { x with pairReady := some now }))
      let t ← get
      match (t.partnerOf t.cur).filter (fun h => t.awaitsPair h now) with
      | some h => upd (fun t => (t.updGroup h (fun x => x.matchWith t.cur now)).updG (fun x => x.matchWith h now))
      | none => pure ()
      throw .wait) s
/-- PAIR_TIMEOUT (R359): 4,096 cycles after it became ready the group takes trap 10. -/
def execPairTimeout (g : Nat) (s : State) : Host.Outcome State Fault Refusal :=
  match (s.group g).pairReady with
  | some t0 =>
    if t0 + pairLimit ≤ s.cycle.toNat && (s.matched g).isNone && (s.group g).gstate = .active then
      let s := { s with cur := g }.updGroup g (fun x => { x with pairReady := none })
      .next (s.takeTrap g (scalarTrap s.g.pc (encodeWord .pair) 4 10 0)).flush
    else .fault .notEnabled
  | none => .fault .notEnabled

/-- A waiting vmmap of a group. -/
def State.waitingVmmap (s : State) (g : Nat) : Option (Nat × MatrixOp) :=
  s.matrix.find? (fun m => m.2.group == g && m.2.kind == 2 && !m.2.started)
/-- A waiting vmmap takes a trap in its active lanes. -/
def State.trapVmmap (s : State) (g cause : Nat) : State :=
  match s.waitingVmmap g with
  | none => s
  | some (id, m) =>
    let own := s.cur
    let s := { s with matrix := tabDel s.matrix id, cur := g }
    let w : LaneWord := { slot := 0, path := s.g.lane.pathOf m.path, active := m.mask, run := m.mask, redo := none }
    let mark : WordMark := { path := m.path, active := m.mask, done := 0, push := none }
    let i : Instr := .vmmap m.fa m.fb m.d m.a m.b { neg := false, p := 0 }
    { s.laneTrap w (encodeWord i) cause 0 m.mask 0 mark with cur := own }
/-- vmmap (R360): unpaired it takes trap 14, and trap 10 where the pairing was lost while it waited; it waits in place for the partner's and for the engines
(MATRIX_START); two that differ in a format trap in both groups. -/
def execVmmap (fa fb : Fmt) (d a b : Nat) (p : LPred) (s : State) : Host.Outcome State Fault Refusal :=
  matrixWord (.vmmap fa fb d a b p) p (fun w => do
    let t ← get
    if t.g.pairLost then do
      upd (fun t => t.updG (fun x => { x with pairLost := false }))
      trap 10
    else
      match t.g.partner with
      | none => trap 14
      | some h => do
        need (decide (2048 ≤ t.stageBytes t.g.team)) (.trap 11 0)
        match t.waitingVmmap h with
        | some (_, m) =>
          if m.seq = t.g.seq && t.cycle.toNat < m.t0 + pairLimit && (m.fa != fa || m.fb != fb) then do
            upd (fun t => t.trapVmmap h 14)
            trap 14
          else pure ()
        | none => pure ()
        if (t.waitingVmmap t.cur).isNone then upd (fun t => t.addMatrix (t.matrixOp w 2 fa fb d a b none)) else pure ()
        throw .wait) s
/-- Two vmmaps meet: the same seq, each issued within the other's limit (R360). -/
def MatrixOp.meets (m n : MatrixOp) : Bool := n.seq == m.seq && decide (n.t0 < m.t0 + pairLimit) && decide (m.t0 < n.t0 + pairLimit)
/-- VMMAP_TIMEOUT (R360): 4,096 cycles without the partner's vmmap of the same seq. -/
def execVmmapTimeout (g : Nat) (s : State) : Host.Outcome State Fault Refusal :=
  match s.waitingVmmap g with
  | some (_, m) =>
    let met := match (s.group g).partner with
      | some h => (match s.waitingVmmap h with | some (_, n) => m.meets n | none => false)
      | none => false
    if m.t0 + pairLimit ≤ s.cycle.toNat && !met && (s.group g).gstate = .active then .next (s.trapVmmap g 10).flush
    else .fault .notEnabled
  | none => .fault .notEnabled

/-! ## MATRIX_START and MATRIX_COMPLETE (R354) -/
/-- The images a vmma or vmmas multiplies: from registers as they are now, or staged. -/
def MatrixOp.images (m : MatrixOp) (x : LRegs) : (Nat → Image) × (Nat → Image) × List Nat × List Nat :=
  match m.staged with
  | some (a, b, sa, sb) => (fun i => (a.drop (16 * i)).take 16, fun i => (b.drop (16 * i)).take 16, sa, sb)
  | none => (fun i => x.image m.a i, fun i => x.image m.b i, [], [])
/-- The engine starts an operation with these images: its results are fixed. -/
def State.startMatrix (s : State) (id : Nat) (m : MatrixOp) (b : Nat → Image) : State :=
  let x := (s.group m.group).lr
  let (a, _, sa, sb) := m.images x
  let (out, flags) := matrixOut x m.fa m.fb m.d m.mask a b sa sb
  { s with matrix := tabPut s.matrix id { m with started := true, out := out, flags := flags } }.updGroup m.group
    (fun y => { y with issuedMx := s.steps })
/-- The path of a started vmmap goes on, in its slot or parked, and its group counts it, as the counters of lane words and matrix instructions do (R404). -/
def State.passVmmap (s : State) (m : MatrixOp) : State :=
  let one (s : State) (k : Nat) : State := s.count (s.dieOf m.group) (s.ownerOf m.group) k 1
  (one (one s 18) 19).updGroup m.group (fun x =>
    match x.lane.slotOf m.path with
    | some z => { x.pastWord (s.clock m.group) z (x.lane.pathOf m.path).pc with seq := x.seq + 1 }
    | none => { x with lane := x.lane.onPath m.path (fun p => { p with pc := p.pc + 12, redo := none }), seq := x.seq + 1 })
/-- MATRIX_START: a group's operations start in order, on a free engine, the groups of a core in the engine's order; a vmmap starts together with its partner's, with the even core's B, once both
teams have 2 KiB of staging free. -/
def execMatrixStart (id : Nat) (s : State) : Host.Outcome State Fault Refusal :=
  match tabFind s.matrix id with
  | none => .fault .notEnabled
  | some m =>
    let first := match s.nextMatrix m.group with | some e => e.1 == id | none => false
    if !(first && (s.group m.group).gstate == .active && s.engineFree (s.engineOf m)) then .fault .notEnabled
    else if m.kind != 2 then
      if s.engineTurn m then .next (s.startMatrix id m (m.images (s.group m.group).lr).2.1) else .fault .notEnabled
    else
      match (s.group m.group).partner with
      | none => .fault .notEnabled
      | some h =>
        match s.nextMatrix h with
        | none => .fault .notEnabled
        | some (jd, n) =>
          let room (t : Nat) : Bool := decide (s.stagingHeld t + 2048 ≤ s.stageBytes t)
          if n.kind = 2 && m.meets n && n.fa = m.fa && n.fb = m.fb && (s.group h).gstate = .active && s.engineFree (s.engineOf n) &&
             room (s.group m.group).team && room (s.group h).team then
            let even := if s.lcoreOf (s.group m.group).team % 2 = 0 then m else n
            let x := (s.group even.group).lr
            let b : Nat → Image := fun i => x.image even.b i
            .next (((s.startMatrix id m b).startMatrix jd n b).passVmmap m |>.passVmmap n)
          else .fault .notEnabled
/-- MATRIX_COMPLETE: a started operation writes its C (R353). -/
def execMatrixComplete (id : Nat) (s : State) : Host.Outcome State Fault Refusal :=
  match tabFind s.matrix id with
  | none => .fault .notEnabled
  | some m => if m.started then .next ({ s with matrix := tabDel s.matrix id }.matrixWrite m) else .fault .notEnabled

end Sys2Proof.Machine
end

