-- ==== Sys2Proof/Machine/ScalarAlu.lean ====
section
/-! DEFINITION. The scalar ALU: majors 0x01 and 0x03 to 0x10 (R325 to R327), and the pop of a return queue (R156). -/
namespace Sys2Proof.Machine

/-- A scalar instruction that only computes on the registers. -/
def aluOp (i : Instr) (f : SRegs → SRegs) (s : State) : Host.Outcome State Fault Refusal :=
  scalarOp i (upd (fun t => t.setSr (f t.g.sr))) s
/-- One that takes trap 3 on a poisoned operand (R327). -/
def aluCheck (i : Instr) (f : SRegs → Option SRegs) (s : State) : Host.Outcome State Fault Refusal :=
  scalarOp i (fun t => match f t.g.sr with
    | some r => .ok () (t.setSr r)
    | none => .error (.trap 3 0) t) s

/-- add (R325): d := a + b. -/
def execAdd (d a b : Nat) (s : State) : Host.Outcome State Fault Refusal := aluOp (.add d a b) (Alu.bin (· + ·) d a b) s
/-- sub (R325): d := a - b. -/
def execSub (d a b : Nat) (s : State) : Host.Outcome State Fault Refusal := aluOp (.sub d a b) (Alu.bin (· - ·) d a b) s
/-- mul (R325): d := a * b, low half. -/
def execMul (d a b : Nat) (s : State) : Host.Outcome State Fault Refusal := aluOp (.mul d a b) (Alu.bin (· * ·) d a b) s
/-- mulh (R325): the high half of the signed product. -/
def execMulh (d a b : Nat) (s : State) : Host.Outcome State Fault Refusal := aluOp (.mulh d a b) (Alu.bin Alu.mulh d a b) s
/-- div (R325): signed division; b = 0 gives all ones. -/
def execDiv (d a b : Nat) (s : State) : Host.Outcome State Fault Refusal := aluOp (.div d a b) (Alu.bin Alu.div d a b) s
/-- divu (R325): unsigned division; b = 0 gives all ones. -/
def execDivu (d a b : Nat) (s : State) : Host.Outcome State Fault Refusal := aluOp (.divu d a b) (Alu.bin Alu.divu d a b) s
/-- and (R325): bitwise. -/
def execAnd (d a b : Nat) (s : State) : Host.Outcome State Fault Refusal := aluOp (.and d a b) (Alu.bin (· &&& ·) d a b) s
/-- or (R325): bitwise. -/
def execOr (d a b : Nat) (s : State) : Host.Outcome State Fault Refusal := aluOp (.or d a b) (Alu.bin (· ||| ·) d a b) s
/-- xor (R325): bitwise. -/
def execXor (d a b : Nat) (s : State) : Host.Outcome State Fault Refusal := aluOp (.xor d a b) (Alu.bin (· ^^^ ·) d a b) s
/-- shl (R325): the count is b[7:0]. -/
def execShl (d a b : Nat) (s : State) : Host.Outcome State Fault Refusal := aluOp (.shl d a b) (Alu.bin (fun x y => Alu.shl x (Alu.count y)) d a b) s
/-- shr (R325): the count is b[7:0]. -/
def execShr (d a b : Nat) (s : State) : Host.Outcome State Fault Refusal := aluOp (.shr d a b) (Alu.bin (fun x y => Alu.shr x (Alu.count y)) d a b) s
/-- sar (R325): the count is b[7:0], at most 63. -/
def execSar (d a b : Nat) (s : State) : Host.Outcome State Fault Refusal := aluOp (.sar d a b) (Alu.bin (fun x y => Alu.sar x (Alu.count y)) d a b) s
/-- min (R325): signed. -/
def execMin (d a b : Nat) (s : State) : Host.Outcome State Fault Refusal := aluOp (.min d a b) (Alu.bin Alu.smin d a b) s
/-- max (R325): signed. -/
def execMax (d a b : Nat) (s : State) : Host.Outcome State Fault Refusal := aluOp (.max d a b) (Alu.bin Alu.smax d a b) s
/-- minu (R325): unsigned. -/
def execMinu (d a b : Nat) (s : State) : Host.Outcome State Fault Refusal := aluOp (.minu d a b) (Alu.bin Alu.umin d a b) s
/-- maxu (R325): unsigned. -/
def execMaxu (d a b : Nat) (s : State) : Host.Outcome State Fault Refusal := aluOp (.maxu d a b) (Alu.bin Alu.umax d a b) s
/-- mov (R325): d := a. -/
def execMov (d a : Nat) (s : State) : Host.Outcome State Fault Refusal := aluOp (.mov d a) (Alu.un id d a) s
/-- clz (R325): leading zero bits, 0 to 64. -/
def execClz (d a : Nat) (s : State) : Host.Outcome State Fault Refusal := aluOp (.clz d a) (Alu.un (fun x => BitVec.ofNat 64 (clz x)) d a) s
/-- popc (R325): one bits, 0 to 64. -/
def execPopc (d a : Nat) (s : State) : Host.Outcome State Fault Refusal := aluOp (.popc d a) (Alu.un (fun x => BitVec.ofNat 64 (popcount x)) d a) s
/-- extB (R325): sign extension. -/
def execExtB (d a : Nat) (s : State) : Host.Outcome State Fault Refusal := aluOp (.extB d a) (Alu.un (Alu.ext 8) d a) s
/-- extH (R325): sign extension. -/
def execExtH (d a : Nat) (s : State) : Host.Outcome State Fault Refusal := aluOp (.extH d a) (Alu.un (Alu.ext 16) d a) s
/-- extW (R325): sign extension. -/
def execExtW (d a : Nat) (s : State) : Host.Outcome State Fault Refusal := aluOp (.extW d a) (Alu.un (Alu.ext 32) d a) s
/-- sel (R325, R327). -/
def execSel (d a b f : Nat) (s : State) : Host.Outcome State Fault Refusal := aluOp (.sel d a b f) (Alu.sel d a b f) s
/-- cmp (R325): the flag; trap 3 on a poisoned operand. -/
def execCmp (cc : Cond) (f a b : Nat) (s : State) : Host.Outcome State Fault Refusal :=
  aluCheck (.cmp cc f a b) (fun r => Alu.cmp cc f a (r.get b) (r.bad b) r) s
/-- mov d, y (R156, R325): one entry, sign extended, with its poison bit; an empty queue stalls the stream in place. -/
def execMovY (d y : Nat) (s : State) : Host.Outcome State Fault Refusal :=
  scalarOp (.movY d y) (fun t =>
    match tabGet [] t.g.lane.y y with
    | [] => .error .wait t
    | (w, p) :: r =>
      .ok () ((t.updG (fun x => { x with lane := { x.lane with y := tabPut x.lane.y y r } })).setSr (t.g.sr.put d (sx w) p))) s
/-- add with a constant (R326). -/
def execAddImm (d a : Nat) (k : BitVec 13) (s : State) : Host.Outcome State Fault Refusal := aluOp (.addImm d a k) (Alu.imm (· + ·) d a (sx k)) s
/-- mul with a constant (R326). -/
def execMulImm (d a : Nat) (k : BitVec 13) (s : State) : Host.Outcome State Fault Refusal := aluOp (.mulImm d a k) (Alu.imm (· * ·) d a (sx k)) s
/-- and with a constant (R326). -/
def execAndImm (d a : Nat) (k : BitVec 13) (s : State) : Host.Outcome State Fault Refusal := aluOp (.andImm d a k) (Alu.imm (· &&& ·) d a (sx k)) s
/-- or with a constant (R326). -/
def execOrImm (d a : Nat) (k : BitVec 13) (s : State) : Host.Outcome State Fault Refusal := aluOp (.orImm d a k) (Alu.imm (· ||| ·) d a (sx k)) s
/-- xor with a constant (R326). -/
def execXorImm (d a : Nat) (k : BitVec 13) (s : State) : Host.Outcome State Fault Refusal := aluOp (.xorImm d a k) (Alu.imm (· ^^^ ·) d a (sx k)) s
/-- min with a constant (R326). -/
def execMinImm (d a : Nat) (k : BitVec 13) (s : State) : Host.Outcome State Fault Refusal := aluOp (.minImm d a k) (Alu.imm Alu.smin d a (sx k)) s
/-- max with a constant (R326). -/
def execMaxImm (d a : Nat) (k : BitVec 13) (s : State) : Host.Outcome State Fault Refusal := aluOp (.maxImm d a k) (Alu.imm Alu.smax d a (sx k)) s
/-- minu with a constant (R326). -/
def execMinuImm (d a : Nat) (k : BitVec 13) (s : State) : Host.Outcome State Fault Refusal := aluOp (.minuImm d a k) (Alu.imm Alu.umin d a (sx k)) s
/-- maxu with a constant (R326). -/
def execMaxuImm (d a : Nat) (k : BitVec 13) (s : State) : Host.Outcome State Fault Refusal := aluOp (.maxuImm d a k) (Alu.imm Alu.umax d a (sx k)) s
/-- shl by a constant count (R326). -/
def execShlImm (d a k : Nat) (s : State) : Host.Outcome State Fault Refusal := aluOp (.shlImm d a k) (Alu.un (fun x => Alu.shl x k) d a) s
/-- shr by a constant count (R326). -/
def execShrImm (d a k : Nat) (s : State) : Host.Outcome State Fault Refusal := aluOp (.shrImm d a k) (Alu.un (fun x => Alu.shr x k) d a) s
/-- sar by a constant count (R326). -/
def execSarImm (d a k : Nat) (s : State) : Host.Outcome State Fault Refusal := aluOp (.sarImm d a k) (Alu.un (fun x => Alu.sar x k) d a) s
/-- li (R326, R327). -/
def execLi (d : Nat) (k : BitVec 13) (s : State) : Host.Outcome State Fault Refusal := aluOp (.li d k) (Alu.li d (sx k)) s
/-- cmp with a constant (R326). -/
def execCmpImm (cc : Cond) (f a : Nat) (k : BitVec 13) (s : State) : Host.Outcome State Fault Refusal :=
  aluCheck (.cmpImm cc f a k) (Alu.cmp cc f a (sx k) false) s
/-- Major 0x0F: an operation with a 32-bit constant (R326). -/
def execAluWide (op : WideOp) (d a : Nat) (k : Word) (s : State) : Host.Outcome State Fault Refusal := aluCheck (.aluWide op d a k) (Alu.wide op d a k) s
/-- lih (R326, R327): d keeps its poison bit. -/
def execLih (d : Nat) (k : Word) (s : State) : Host.Outcome State Fault Refusal := aluOp (.lih d k) (Alu.lih d k) s

end Sys2Proof.Machine
end

