-- ==== Sys2Proof/Machine/Sched.lean ====
section
/-! DEFINITION. The steps of a core that no word asks for: lane blocks start, READY groups fill the active set, parked paths rotate in, and retried reads return
(R108, R147, R159, R168, R171, R174). -/
namespace Sys2Proof.Machine

/-- The next block of a lane stream begins in slot 0 over its mask; one with an empty mask has ended (R159). -/
def LaneCtx.startBlock (c : LaneCtx) (now : Nat) (base : DWord) (b : Block) (rest : List Block) : LaneCtx :=
  if b.mask = 0 then { c with blocks := rest }
  else
    { c with
      blocks := rest, running := true, spill := [],
      slots := [(0, ({ pc := base + BitVec.ofNat 64 b.off, mask := b.mask, inner := none }, now))] }
/-- LANE_BLOCK_START: the block before it has ended; latches are lost where a switch point came between (R171). -/
def execLaneBlockStart (g : Nat) (s : State) : Host.Outcome State Fault Refusal :=
  let x := s.group g
  match x.lane.blocks with
  | [] => .fault .notEnabled
  | b :: rest =>
    if x.gstate = .active && x.level < 3 && !x.lane.running then
      .next (s.setGroup g { x with
        lane := x.lane.startBlock (s.clock g) (s.descOf x.team).laneBase b rest, lr := if b.loss then x.lr.loseLatches else x.lr })
    else .fault .notEnabled

/-- The order of the pending set (R174): class, highest first, then wake order, then context number. -/
def Group.before (x y : Group) : Bool :=
  decide (y.cls < x.cls) || (x.cls == y.cls && (decide (x.wake < y.wake) || (x.wake == y.wake && decide (x.ctx < y.ctx))))
/-- The first READY group of a core's pending set. -/
def State.firstPending (s : State) (core : Nat) : Option Nat :=
  (s.groups.foldl (fun (b : Option (Nat × Group)) e =>
    if e.2.gstate = .ready && e.2.level < 3 && (s.team e.2.team).core = core then
      match b with
      | none => some e
      | some y => if e.2.before y.2 then some e else some y
    else b) none).map (fun e => e.1)
/-- The active groups of a core. -/
def State.activeOn (s : State) (core : Nat) : Nat :=
  (s.groups.filter (fun e => e.2.gstate == .active && decide (e.2.level < 3) && (s.team e.2.team).core == core)).length
/-- ACTIVE_SET_FILL: the first pending group takes a free place (R174). -/
def execActiveSetFill (core : Nat) (s : State) : Host.Outcome State Fault Refusal :=
  match s.firstPending core with
  | none => .fault .notEnabled
  | some g =>
    if s.activeOn core < Config.activeSet then .next (s.updGroup g (fun x => { x with gstate := .active })) else .fault .notEnabled

/-- PATH_ROTATION: the parked path and the slot's path change places (R168), with what is left of a word that a return re-executes. A path whose vmmap waits for its partner
takes that with it. -/
def execPathRotation (g : Nat) (s : State) : Host.Outcome State Fault Refusal :=
  let x := s.group g
  match x.lane.rotate (s.clock g) with
  | some c =>
    if x.gstate = .active then .next (s.setGroup g (x.withLane c)) else .fault .notEnabled
  | none => .fault .notEnabled

/-- CHECK_RETRY: the first word for which a stream of the group waits is read again, past every cached copy (R108); the stream finds it. Where it is correct now, no
cached copy of the line is left. -/
def execCheckRetry (g : Nat) (s : State) : Host.Outcome State Fault Refusal :=
  match (s.group g).want with
  | [] => .fault .notEnabled
  | (z, ma) :: rest =>
    let (w, c) := s.mem.read ma
    let s := { s with badCopies := tabDel s.badCopies (ma / 4) }
    let s := if codeOk w c (ma % 65536) then { s.dropLine ma with badCopies := s.badCopies.filter (fun e => e.1 / 128 != ma / 512) } else s
    .next (s.updGroup g (fun x => { x with retries := (z, ma, w, c) :: x.retries, want := rest }))

end Sys2Proof.Machine
end

