-- ==== Sys2Proof/Machine/Service.lean ====
section
/-! DEFINITION. Level S: partition registers, merges and splits, frame transfers, the service pairs, timing replay, power, and the package reset (R403, R407 to
R415, R417). -/
namespace Sys2Proof.Machine

/-! ## pset (R410, R411) -/
/-- c.pstat is busy on one of some dies. -/
def State.anyBusy (s : State) (ds : List Nat) : Bool := ds.any (fun d => (s.die d).pstat % 16 == 1)
/-- A partition command (R410, R412, R413): its op and the half it names; none where it breaks the table. A merge joins two quarters, a split divides a half. -/
def State.pcmdOk (s : State) (v : DWord) : Option (Nat × Nat) :=
  let op := fld v 62 2
  let mask := fld v 56 4
  let half := mask == 3 || mask == 12
  if fld v 60 2 ≠ 0 || !half then none
  else if op = 1 then (if (diesOf mask).all (fun d => (s.die d).pcfg == 2 ^ d) then some (op, mask) else none)
  else if op = 2 then (if (diesOf mask).all (fun d => (s.die d).pcfg == mask) && fld v 0 56 % 256 = 0 then some (op, mask) else none)
  else none
/-- c.elect names each die once. -/
def electOk (n : Nat) : Bool := ((List.range 4).map (fun i => n / 4 ^ i % 4)).eraseDups.length == 4
/-- Register n with value v reaches every die it covers, from die d; none where the value breaks R410. -/
def State.psetPut (s : State) (d n : Nat) (v : DWord) : Option State :=
  let mine := diesOf (s.die d).pcfg
  let all := List.range 4
  let put (ds : List Nat) (f : Die → Die) : State := ds.foldl (fun s k => s.updDie k f) s
  if n = 0x281 then
    match s.pcmdOk v with
    | none => none
    | some (_, mask) => if s.anyBusy (diesOf mask) then none else some (put (diesOf mask) (fun x => { x with pcmd := v, pstat := 1 }))
  else if n = 0x285 then
    if fld v 0 6 ≤ 48 && mine.all (fun k => decide (s.sharesOn k ≤ fld v 0 6)) then some (put mine (fun x => { x with plim := fld v 0 6 })) else none
  else if n = 0x286 then (if 1 ≤ fld v 0 10 && fld v 0 10 ≤ 1000 then some (put mine (fun x => { x with qto := fld v 0 10 })) else none)
  else if n = 0x287 then (if electOk (fld v 0 8) then some (put all (fun x => { x with elect := fld v 0 8 })) else none)
  else if n = 0x288 then (if 1000 ≤ fld v 0 12 && fld v 0 12 ≤ 3200 then some (put all (fun x => { x with pcap := fld v 0 12 })) else none)
  else none
/-- pset (R411). -/
def execPset (a b : Nat) (s : State) : Host.Outcome State Fault Refusal :=
  scalarOp (.pset a b) (do
    needService
    let n ← useReg a
    let v ← useReg b
    let s ← get
    match s.psetPut (s.dieOf s.cur) n.toNat v with
    | none => trap 14
    | some t => set t) s

/-! ## fxfer (R414) -/
/-- A descriptor in 8 words; none where it breaks the table. -/
def parseTransfer (ws : List Word) (target die : Nat) : Option Transfer :=
  let le (i n : Nat) : Nat := wordsLe ws i n
  let t : Transfer :=
    { die := die, source := le 0 1, count := le 4 4, sfirst := le 8 4, tfirst := le 12 4, tier := le 16 1, target := target, completion := le 24 8,
      started := false, frames := [] }
  if le 1 3 = 0 && 1 ≤ t.count && t.count ≤ 65536 && (t.source != 0 || (t.sfirst == 0 && decide (t.tier ≤ 1))) && (target != 0 || t.tfirst == 0) &&
     le 17 7 = 0 && t.completion % 8 = 0 && t.completion < 2 ^ 48 then some t
  else none
/-- fxfer (R414): the transfer goes on after the instruction. -/
def execFxfer (a b : Nat) (s : State) : Host.Outcome State Fault Refusal :=
  scalarOp (.fxfer a b) (do
    needService
    let va ← useReg a
    let target ← useReg b
    need (va.toNat % 8 == 0 && decide (target.toNat ≤ 255)) (.trap 14 0)
    let (l, _) ← place .gl va 0 8 (fun _ => true)
    let ws ← descWords 1 l 8
    let s ← get
    match parseTransfer ws target.toNat (s.dieOf s.cur) with
    | none => trap 14
    | some t => upd (fun s => { s with transfers := tabPut s.transfers s.nextId t, nextId := s.nextId + 1 }.tryTransfer s.nextId)) s

/-! ## PARTITION_MERGE, PARTITION_SPLIT, QUIESCE_COMPLETE, QUIESCE_TIMEOUT (R208, R412, R413) -/
/-- The owners of some dies. -/
def State.ownersOn (s : State) (dies : Nat) : List Nat :=
  (s.owners.filter (fun o => o.2.ostate != .free && (diesOf o.2.dies).any (fun d => dies / 2 ^ d % 2 == 1))).map (fun o => o.1)
/-- A cooperative kernel that has begun and not ended: its teams do not all fit an empty die d at once (R208). -/
def State.breaksOn (s : State) (k d : Nat) : Bool :=
  let live := (s.teamsOf k).filter (fun t => t.2.tstate == .placed || t.2.tstate == .saved)
  let alone : State := { s with teams := live.map (fun (t : Nat × Team) => (t.1, { t.2 with tstate := .waiting, avoid := none })) }
  (s.kernel k).lrec.flags % 2 == 1 && decide (alone.reservation d [k] < live.length)
def State.ownerBreaks (s : State) (o d : Nat) : Bool := (s.kernelsOf o).any (fun k => s.breaksOn k d)
/-- The die whose quarter keeps owner o, as the split map says; none where the byte names no die of the half. -/
def State.keptDie (s : State) (c : PChange) (o : Nat) : Option Nat :=
  let b := (s.readLoc (.dev ((c.map + o) / 4 * 4))).1.toNat / 256 ^ ((c.map + o) % 4) % 256
  if (diesOf c.dies).contains b then some b else none
/-- A change begins: every owner of its dies receives a slice end, with entries of kind 35 where a forced split breaks its residency. -/
def State.quiesce (s : State) (c : PChange) : State :=
  let s := { s with pchanges := s.pchanges ++ [c] }
  (s.ownersOn c.dies).foldl (fun s o =>
    if (s.owner o).ostate = .running then
      let lost := c.op == 2 && c.forced && (match s.keptDie c o with | some d => s.ownerBreaks o d | none => false)
      s.preemptOwner o (if lost then 35 else 33)
    else s) s
/-- The change that a die's busy command asks for, where it has not begun. -/
def State.pending (s : State) (die op : Nat) (forced : Bool) : Option PChange :=
  let x := s.die die
  if x.pstat % 16 = 1 && fld x.pcmd 62 2 = op && !s.pchanges.any (fun c => c.dies / 2 ^ die % 2 == 1) then
    some { op := op, dies := fld x.pcmd 56 4, map := fld x.pcmd 0 56, forced := forced, start := s.window }
  else none
/-- A change begins, by the leading service pair (R4, R408). -/
def beginChange (c : Option PChange) (s : State) : Host.Outcome State Fault Refusal :=
  match c with
  | none => .fault .notEnabled
  | some c => if s.led then .next (s.quiesce c).flush else .fault .notEnabled
/-- PARTITION_MERGE. -/
def execPartitionMerge (die : Nat) (s : State) : Host.Outcome State Fault Refusal := beginChange (s.pending die 1 false) s
/-- PARTITION_SPLIT: forced, where level S says so (log entry 11). -/
def execPartitionSplit (die : Nat) (forced : Bool) (s : State) : Host.Outcome State Fault Refusal := beginChange (s.pending die 2 forced) s
/-- The change of a die. -/
def State.changeOf (s : State) (die : Nat) : Option PChange := s.pchanges.find? (fun c => c.dies / 2 ^ die % 2 == 1)
/-- A change ends: done, or refused with a reason. -/
def State.endChange (s : State) (c : PChange) (pstat : Nat) : State :=
  let s := { s with pchanges := s.pchanges.filter (fun x => x.dies != c.dies) }
  (diesOf c.dies).foldl (fun s d => s.updDie d (fun x => { x with pstat := pstat })) s
/-- The dies are quiet (R412 step 1): no owner runs or is being saved or stopped, no taken record waits to be placed, no operation is in flight, and no access is parked. -/
def State.quiet (s : State) (c : PChange) : Bool :=
  let os := s.ownersOn c.dies
  os.all (fun o => match (s.owner o).ostate with
    | .running | .preempting | .stopping => false
    | .free | .built | .ready | .saved | .stopped | .teardown => true) &&
  !s.kernels.any (fun k => os.contains k.2.owner && s.unplaced k.1) && !s.copies.any (fun x => os.contains x.2.owner) &&
  !s.colls.any (fun x => os.contains x.2.owner) && !s.parks.any (fun p => os.contains p.2.owner)
/-- A die in a partition of some dies (R409, R410): what the partition's registers share is the value of its lowest die (R400; log entry 53). -/
def Die.join (x : Die) (part : Nat) (lowest : Die) : Die :=
  { x with mint := stacksOf part, nbnd := part, pcfg := part, sev := lowest.sev, plim := lowest.plim, qto := lowest.qto }
/-- An owner keeps some dies; its virtual function is on the port of the lowest, after a hot-remove and a hot-add where it was on another (R412). -/
def State.rehome (s : State) (o dies : Nat) : State :=
  let d := (diesOf dies).headD 0
  let v := (s.owner o).vf
  let s := if v = d then s else { s with plugs := s.plugs ++ [(o, v, d)] }
  s.updOwner o (fun x => { x with dies := dies, vf := d })
/-- The registers and owners of dies after step 4: what each die's partition is now; translation caches are empty, and virtual functions have moved (step 5). -/
def State.repartition (s : State) (ds : List Nat) (part : Nat → Nat) (keep : Nat → Nat) (os : List Nat) : State :=
  let s := ds.foldl (fun s d => s.updDie d (fun x => x.join (part d) (s.die ((diesOf (part d)).headD d)))) s
  let s := os.foldl (fun s o => s.rehome o (keep o)) s
  { s with tlb := s.tlb.filter (fun e => !os.contains e.owner) }
/-- Steps 2 to 6 of a merge (R412). -/
def State.finishMerge (s : State) (c : PChange) : State :=
  let os := s.ownersOn c.dies
  let ds := diesOf c.dies
  let shares := os.foldl (fun n o => n + (s.owner o).share) 0
  let slots := os.foldl (fun n o => n + (s.owner o).routines.length) 0
  if ds.any (fun d => decide ((s.die d).plim < shares)) then s.endChange c (2 * 256 + 3)
  else if Config.walkSlots < slots then s.endChange c (3 * 256 + 3)
  else (s.repartition ds (fun _ => c.dies) (fun _ => c.dies) os).endChange c 2
/-- The lines of a frame move one after the other. -/
def State.moveFrame (s : State) (src dst : Nat) : State :=
  (List.range 128).foldl (fun s l => s.moveLine (src * 128 + l) (dst * 128 + l)) s
/-- The entries of an owner over HBM that are not in a die's stacks, the pinned ones too: a split moves each of the owner's frames (R413; log entry 24). -/
def State.strayFrames (s : State) (o d : Nat) : List (Nat × FEntry) :=
  (s.owner o).fmap.filter (fun e => e.2.st == 1 && e.2.ty == 0 && !frameFits 0 (stacksOf (2 ^ d)) e.2.frame)
/-- An owner's frames move to the stacks of its kept die (R285, R413); none where those lack free frames. -/
def State.gatherFrames (s : State) (o d : Nat) : Option State :=
  let es := s.strayFrames o d
  (s.freeFrames 0 (stacksOf (2 ^ d)) (d * 2 ^ 22) es.length (es.length + s.mframes.length + 16)).map (fun fs =>
    (es.zip fs).foldl (fun s (e : (Nat × FEntry) × Nat) =>
      let s := s.moveFrame e.1.2.frame e.2
      let s := ((s.scrubFrame e.1.2.frame).setFrames .free [e.1.2.frame]).setFrames .owned [e.2]
      (s.dropFrames o e.1.1 1).updOwner o (fun x => { x with fmap := tabPut x.fmap e.1.1 { e.1.2 with frame := e.2 } })) s)
def State.gatherAll (s : State) (c : PChange) : List Nat → Option State
  | [] => some s
  | o :: r =>
    match s.keptDie c o with
    | none => s.gatherAll c r
    | some d =>
      match s.gatherFrames o d with
      | none => none
      | some s' => s'.gatherAll c r
/-- The frames' move, after the moves that are in progress, and steps 3 to 6 of a split (R413): refused with reason 6, reason 5, or, for a map that names no die for an owner, a reason the manual does not
number (log entry 2). -/
def State.finishSplit (s : State) (c : PChange) : State :=
  let os := s.ownersOn c.dies
  if os.any (fun o => (s.keptDie c o).isNone) then
    let (r, s) := s.freeReason
    s.endChange c (r % 256 * 256 + 3)
  else if !c.forced && os.any (fun o => match s.keptDie c o with | some d => s.ownerBreaks o d | none => false) then s.endChange c (6 * 256 + 3)
  else
    match (s.finishMoves os).gatherAll c os with
    | none => s.endChange c (5 * 256 + 3)
    | some s' => (s'.repartition (diesOf c.dies) (fun d => 2 ^ d) (fun o => 2 ^ ((s.keptDie c o).getD 0)) os).endChange c 2
/-- QUIESCE_COMPLETE: the remaining steps of the change. -/
def execQuiesceComplete (die : Nat) (s : State) : Host.Outcome State Fault Refusal :=
  match s.changeOf die with
  | none => .fault .notEnabled
  | some c => if s.quiet c && s.led then .next (if c.op = 1 then s.finishMerge c else s.finishSplit c).flush else .fault .notEnabled
/-- QUIESCE_TIMEOUT: past c.qto, refused with reason 1. -/
def execQuiesceTimeout (die : Nat) (s : State) : Host.Outcome State Fault Refusal :=
  match s.changeOf die with
  | none => .fault .notEnabled
  | some c => if !s.quiet c && s.led && c.start + (s.die die).qto ≤ s.window then .next (s.endChange c 0x103) else .fault .notEnabled

/-! ## HEARTBEAT, TAKEOVER, SERVICE_PAIR_HALT (R407, R408) -/
/-- HEARTBEAT: written by the leader. -/
def execHeartbeat (s : State) : Host.Outcome State Fault Refusal :=
  if s.led then .next ((List.range 4).foldl (fun s d => s.updDie d (fun x => { x with beats := (x.beats + 1) % 2 ^ 32 })) s)
  else .fault .notEnabled
/-- The pairs in the order of c.elect after a leader, around. -/
def electAfter (elect leader : Nat) : List Nat :=
  let l := (List.range 4).map (fun i => elect / 4 ^ i % 4)
  let p := (findIdx (fun d => d == leader) l 0).getD 0
  l.drop (p + 1) ++ l.take (p + 1)
/-- A service pair begins again from the service OS's last checkpoint: what that holds the manual does not give, and its pc and registers are free values (log entry 2). -/
def Group.checkpoint (x : Group) (k : Nat) : Group :=
  let w (i : Nat) : DWord := Config.freeWord (k + 2 * i + 1) ++ Config.freeWord (k + 2 * i)
  { x with
    pc := w 0 &&& 0x00FFFFFFFFFFFFFC
    sr := { s := (List.range 63).map (fun i => (i + 1, w (i + 1))), poison := w 64 &&& (-2), f := (w 65).truncate 8 } }
/-- TAKEOVER: no pair leads, and the next one that is not halted takes the role and begins from the checkpoint; what is still unanswered is answered by steps of its own. -/
def execTakeover (s : State) : Host.Outcome State Fault Refusal :=
  if s.led then .fault .notEnabled
  else
    match (electAfter (s.die 0).elect (s.die 0).leader).find? (fun d => (s.die d).role == 1) with
    | none => .fault .notEnabled
    | some n =>
      let (k, s) := s.freeRun 132
      let s := s.updGroup (serviceGroup n) (fun x => x.checkpoint k)
      .next ((List.range 4).foldl (fun s d => s.updDie d (fun x => { x with leader := n, role := if d = n then 2 else x.role })) s)
/-- SERVICE_PAIR_HALT: the pair issues nothing further, with an event in its die's log. -/
def execServicePairHalt (die : Nat) (s : State) : Host.Outcome State Fault Refusal :=
  if die < 4 && (s.die die).role != 0 then
    .next ((s.updDie die (fun x => { x with role := 0 })).reportFor 12 13 0 0 0 die).flush
  else .fault .notEnabled

/-! ## TIMING_REPLAY, POWER_LIMIT, PACKAGE_RESET (R403, R409, R417) -/
/-- TIMING_REPLAY: counted; the first of a core in a window that exceeds c.trlim raises its event. -/
def execTimingReplay (core : Nat) (s : State) : Host.Outcome State Fault Refusal :=
  if Config.dies * Config.clusters * Config.cores ≤ core then .fault .notEnabled
  else
    let d := dieOfCore core
    let n := tabGet 0 (s.die d).replays core + 1
    let s := (s.updDie d (fun x => { x with replays := tabPut x.replays core n })).count d 0 31 1
    if fld (s.die d).trlim 0 32 < n && !(s.die d).spoke.contains core then
      let s := s.updDie d (fun x => { x with spoke := core :: x.spoke })
      let e : Event := { cls := 11, src := 12, owner := 0, core := some core, ma := 0, detail := 0, group := none, die := d }
      .next { s with evs := s.evs ++ [e] }.flush
    else .next s
/-- POWER_LIMIT: the clock falls by 100 MHz, to 0.9 GHz at the least; one event in a budget window. -/
def execPowerLimit (s : State) : Host.Outcome State Fault Refusal :=
  let t := { s with clockMHz := max 900 (s.clockMHz - 100), capped := true }
  .next (if s.capped then t else (t.reportFor 14 14 0 0 0 ((s.leaderDie).getD 0)).flush)
/-- The boot ROM accepts an image (R415): both signatures verify, and its security version is at least the fused counter. -/
def BootImage.accepted (i : BootImage) : Bool := i.ecdsa && i.lms && decide (i.counter ≤ i.version)
/-- A die that boots, or one that stays in reset with its pair. -/
def Die.boot (x : Die) (ok : Bool) : Die := { x with started := ok, role := if ok then x.role else 0 }
/-- PACKAGE_RESET: the machine as after its reset, with partitions from the strap. Host memory is the host's; the words of device memory are those of an unlisted
word (log entry 3). A die whose image is not accepted stays in reset: its pair issues nothing, and no owner can be created on it (R415). -/
def execPackageReset (strap : Nat) (images : List BootImage) (s : State) : Host.Outcome State Fault Refusal :=
  .next { State.resetWith (strap % 4) with
    dieRegs := (List.range 4).map (fun d => (d, (Die.reset (strap % 4) d).boot ((images[d]?).any BootImage.accepted)))
    agenda := s.agenda, steps := s.steps, freeIdx := s.freeIdx, nextId := s.nextId, hostMem := s.hostMem, outbox := s.outbox, collOut := s.collOut, interrupts := s.interrupts,
    hostData := s.hostData, finalised := s.finalised, device := s.device }

end Sys2Proof.Machine
end

