-- ==== Sys2Proof/Machine/Dispatch.lean ====
section
/-! DEFINITION. One arm per instruction and step of the opcode table: each calls its meaning. -/
namespace Sys2Proof.Machine

def exec (i : Instr) (s : State) : Host.Outcome State Fault Refusal :=
  match i with
  | .add d a b => Sys2Proof.Machine.execAdd d a b s
  | .sub d a b => Sys2Proof.Machine.execSub d a b s
  | .mul d a b => Sys2Proof.Machine.execMul d a b s
  | .mulh d a b => Sys2Proof.Machine.execMulh d a b s
  | .div d a b => Sys2Proof.Machine.execDiv d a b s
  | .divu d a b => Sys2Proof.Machine.execDivu d a b s
  | .and d a b => Sys2Proof.Machine.execAnd d a b s
  | .or d a b => Sys2Proof.Machine.execOr d a b s
  | .xor d a b => Sys2Proof.Machine.execXor d a b s
  | .shl d a b => Sys2Proof.Machine.execShl d a b s
  | .shr d a b => Sys2Proof.Machine.execShr d a b s
  | .sar d a b => Sys2Proof.Machine.execSar d a b s
  | .min d a b => Sys2Proof.Machine.execMin d a b s
  | .max d a b => Sys2Proof.Machine.execMax d a b s
  | .minu d a b => Sys2Proof.Machine.execMinu d a b s
  | .maxu d a b => Sys2Proof.Machine.execMaxu d a b s
  | .mov d a => Sys2Proof.Machine.execMov d a s
  | .movY d y => Sys2Proof.Machine.execMovY d y s
  | .clz d a => Sys2Proof.Machine.execClz d a s
  | .popc d a => Sys2Proof.Machine.execPopc d a s
  | .extB d a => Sys2Proof.Machine.execExtB d a s
  | .extH d a => Sys2Proof.Machine.execExtH d a s
  | .extW d a => Sys2Proof.Machine.execExtW d a s
  | .sel d a b f => Sys2Proof.Machine.execSel d a b f s
  | .cmp cc f a b => Sys2Proof.Machine.execCmp cc f a b s
  | .addImm d a k => Sys2Proof.Machine.execAddImm d a k s
  | .mulImm d a k => Sys2Proof.Machine.execMulImm d a k s
  | .andImm d a k => Sys2Proof.Machine.execAndImm d a k s
  | .orImm d a k => Sys2Proof.Machine.execOrImm d a k s
  | .xorImm d a k => Sys2Proof.Machine.execXorImm d a k s
  | .shlImm d a k => Sys2Proof.Machine.execShlImm d a k s
  | .shrImm d a k => Sys2Proof.Machine.execShrImm d a k s
  | .sarImm d a k => Sys2Proof.Machine.execSarImm d a k s
  | .minImm d a k => Sys2Proof.Machine.execMinImm d a k s
  | .maxImm d a k => Sys2Proof.Machine.execMaxImm d a k s
  | .minuImm d a k => Sys2Proof.Machine.execMinuImm d a k s
  | .maxuImm d a k => Sys2Proof.Machine.execMaxuImm d a k s
  | .li d k => Sys2Proof.Machine.execLi d k s
  | .cmpImm cc f a k => Sys2Proof.Machine.execCmpImm cc f a k s
  | .aluWide op d a k => Sys2Proof.Machine.execAluWide op d a k s
  | .lih d k => Sys2Proof.Machine.execLih d k s
  | .br disp => Sys2Proof.Machine.execBr disp s
  | .bc f neg disp => Sys2Proof.Machine.execBc f neg disp s
  | .call disp => Sys2Proof.Machine.execCall disp s
  | .loop d disp => Sys2Proof.Machine.execLoop d disp s
  | .lrun m off => Sys2Proof.Machine.execLrun m off s
  | .ldB d a k => Sys2Proof.Machine.execLdB d a k s
  | .ldH d a k => Sys2Proof.Machine.execLdH d a k s
  | .ldW d a k => Sys2Proof.Machine.execLdW d a k s
  | .ldD d a k => Sys2Proof.Machine.execLdD d a k s
  | .stB d a k => Sys2Proof.Machine.execStB d a k s
  | .stH d a k => Sys2Proof.Machine.execStH d a k s
  | .stW d a k => Sys2Proof.Machine.execStW d a k s
  | .stD d a k => Sys2Proof.Machine.execStD d a k s
  | .ldX wd o sc ms d a k => Sys2Proof.Machine.execLdX wd o sc ms d a k s
  | .stX wd o sc ms d a k => Sys2Proof.Machine.execStX wd o sc ms d a k s
  | .amo op wd o sc ms d a b c k => Sys2Proof.Machine.execAmo op wd o sc ms d a b c k s
  | .ldq q a k => Sys2Proof.Machine.execLdq q a k s
  | .ldk d a k => Sys2Proof.Machine.execLdk d a k s
  | .stk d a k => Sys2Proof.Machine.execStk d a k s
  | .crd d n => Sys2Proof.Machine.execCrd d n s
  | .cwr n a => Sys2Proof.Machine.execCwr n a s
  | .trap k => Sys2Proof.Machine.execTrap k s
  | .rld wd d a k => Sys2Proof.Machine.execRld wd d a k s
  | .rst wd d a k => Sys2Proof.Machine.execRst wd d a k s
  | .ramo op wd d a b c k => Sys2Proof.Machine.execRamo op wd d a b c k s
  | .nop => Sys2Proof.Machine.execNop s
  | .lsync => Sys2Proof.Machine.execLsync s
  | .fence o sc => Sys2Proof.Machine.execFence o sc s
  | .commit => Sys2Proof.Machine.execCommit s
  | .gexit => Sys2Proof.Machine.execGexit s
  | .texit => Sys2Proof.Machine.execTexit s
  | .cwait => Sys2Proof.Machine.execCwait s
  | .ret a => Sys2Proof.Machine.execRet a s
  | .tret => Sys2Proof.Machine.execTret s
  | .hret => Sys2Proof.Machine.execHret s
  | .pdone => Sys2Proof.Machine.execPdone s
  | .replay => Sys2Proof.Machine.execReplay s
  | .ostop a => Sys2Proof.Machine.execOstop a s
  | .tinv a b => Sys2Proof.Machine.execTinv a b s
  | .fgrow a b => Sys2Proof.Machine.execFgrow a b s
  | .frel a b => Sys2Proof.Machine.execFrel a b s
  | .ckinj a b => Sys2Proof.Machine.execCkinj a b s
  | .pair => Sys2Proof.Machine.execPair s
  | .launch a => Sys2Proof.Machine.execLaunch a s
  | .spawn d a b => Sys2Proof.Machine.execSpawn d a b s
  | .qpost d a b => Sys2Proof.Machine.execQpost d a b s
  | .waitk a => Sys2Proof.Machine.execWaitk a s
  | .coll d a => Sys2Proof.Machine.execColl d a s
  | .pset a b => Sys2Proof.Machine.execPset a b s
  | .fxfer a b => Sys2Proof.Machine.execFxfer a b s
  | .aset n a b => Sys2Proof.Machine.execAset n a b s
  | .astep n a => Sys2Proof.Machine.execAstep n a s
  | .aload q n => Sys2Proof.Machine.execAload q n s
  | .mset m a => Sys2Proof.Machine.execMset m a s
  | .mand m i1 j => Sys2Proof.Machine.execMand m i1 j s
  | .mor m i1 j => Sys2Proof.Machine.execMor m i1 j s
  | .mxor m i1 j => Sys2Proof.Machine.execMxor m i1 j s
  | .mnot m i1 => Sys2Proof.Machine.execMnot m i1 s
  | .mcnt d m => Sys2Proof.Machine.execMcnt d m s
  | .mfirst d m => Sys2Proof.Machine.execMfirst d m s
  | .cpy d a b => Sys2Proof.Machine.execCpy d a b s
  | .cpy2 d a b => Sys2Proof.Machine.execCpy2 d a b s
  | .cpy3 d a b => Sys2Proof.Machine.execCpy3 d a b s
  | .bclose d => Sys2Proof.Machine.execBclose d s
  | .waitb a => Sys2Proof.Machine.execWaitb a s
  | .barinit a b => Sys2Proof.Machine.execBarinit a b s
  | .arrive a b => Sys2Proof.Machine.execArrive a b s
  | .bwait a => Sys2Proof.Machine.execBwait a s
  | .arrivew a b => Sys2Proof.Machine.execArrivew a b s
  | .bmin k a b => Sys2Proof.Machine.execBmin k a b s
  | .bread d k => Sys2Proof.Machine.execBread d k s
  | .vwait d a b => Sys2Proof.Machine.execVwait d a b s
  | .vwake d a b => Sys2Proof.Machine.execVwake d a b s
  | .dqpush f a b => Sys2Proof.Machine.execDqpush f a b s
  | .dqpop d a f => Sys2Proof.Machine.execDqpop d a f s
  | .dqsteal d a f => Sys2Proof.Machine.execDqsteal d a f s
  | .vadd d a b p imm => Sys2Proof.Machine.execVadd d a b p imm s
  | .vsub d a b p imm => Sys2Proof.Machine.execVsub d a b p imm s
  | .vmul d a b p imm => Sys2Proof.Machine.execVmul d a b p imm s
  | .vmulh uns d a b p imm => Sys2Proof.Machine.execVmulh uns d a b p imm s
  | .vmad d a b c p imm => Sys2Proof.Machine.execVmad d a b c p imm s
  | .vmin uns d a b p imm => Sys2Proof.Machine.execVmin uns d a b p imm s
  | .vmax uns d a b p imm => Sys2Proof.Machine.execVmax uns d a b p imm s
  | .vand d a b p imm => Sys2Proof.Machine.execVand d a b p imm s
  | .vor d a b p imm => Sys2Proof.Machine.execVor d a b p imm s
  | .vxor d a b p imm => Sys2Proof.Machine.execVxor d a b p imm s
  | .vnot d a p imm => Sys2Proof.Machine.execVnot d a p imm s
  | .vshl d a b p imm => Sys2Proof.Machine.execVshl d a b p imm s
  | .vshr d a b p imm => Sys2Proof.Machine.execVshr d a b p imm s
  | .vsar d a b p imm => Sys2Proof.Machine.execVsar d a b p imm s
  | .vpopc d a p imm => Sys2Proof.Machine.execVpopc d a p imm s
  | .vclz d a p imm => Sys2Proof.Machine.execVclz d a p imm s
  | .vcmp cc d a b p imm => Sys2Proof.Machine.execVcmp cc d a b p imm s
  | .vsel neg k d a b p imm => Sys2Proof.Machine.execVsel neg k d a b p imm s
  | .vmov d a p imm => Sys2Proof.Machine.execVmov d a p imm s
  | .vfadd r d a b p imm => Sys2Proof.Machine.execVfadd r d a b p imm s
  | .vfsub r d a b p imm => Sys2Proof.Machine.execVfsub r d a b p imm s
  | .vfmul r d a b p imm => Sys2Proof.Machine.execVfmul r d a b p imm s
  | .vffma r d a b c p imm => Sys2Proof.Machine.execVffma r d a b c p imm s
  | .vfmin d a b p imm => Sys2Proof.Machine.execVfmin d a b p imm s
  | .vfmax d a b p imm => Sys2Proof.Machine.execVfmax d a b p imm s
  | .vfcmp cc d a b p imm => Sys2Proof.Machine.execVfcmp cc d a b p imm s
  | .vfrcp d a p imm => Sys2Proof.Machine.execVfrcp d a p imm s
  | .vfrsq d a p imm => Sys2Proof.Machine.execVfrsq d a p imm s
  | .vfsqrt r d a p imm => Sys2Proof.Machine.execVfsqrt r d a p imm s
  | .vfex2 d a p imm => Sys2Proof.Machine.execVfex2 d a p imm s
  | .vflg2 d a p imm => Sys2Proof.Machine.execVflg2 d a p imm s
  | .vfsin d a p imm => Sys2Proof.Machine.execVfsin d a p imm s
  | .vfcos d a p imm => Sys2Proof.Machine.execVfcos d a p imm s
  | .vcvt tf frm r d a e p => Sys2Proof.Machine.execVcvt tf frm r d a e p s
  | .vdot4 f d a b c p imm => Sys2Proof.Machine.execVdot4 f d a b c p imm s
  | .vdot8 f d a b c p imm => Sys2Proof.Machine.execVdot8 f d a b c p imm s
  | .vscacc d a b c abyte bbyte blane p => Sys2Proof.Machine.execVscacc d a b c abyte bbyte blane p s
  | .vshfl mode d a b p imm => Sys2Proof.Machine.execVshfl mode d a b p imm s
  | .vvote mode d a p imm => Sys2Proof.Machine.execVvote mode d a p imm s
  | .vred op d a p imm => Sys2Proof.Machine.execVred op d a p imm s
  | .vscan d a p imm => Sys2Proof.Machine.execVscan d a p imm s
  | .vbr p target join => Sys2Proof.Machine.execVbr p target join s
  | .vjoin p target => Sys2Proof.Machine.execVjoin p target s
  | .vend => Sys2Proof.Machine.execVend s
  | .vld wd sx o sc ms d a p k => Sys2Proof.Machine.execVld wd sx o sc ms d a p k s
  | .vst wd o sc ms a b p k => Sys2Proof.Machine.execVst wd o sc ms a b p k s
  | .vamo op o sc ms d a b c p k => Sys2Proof.Machine.execVamo op o sc ms d a b c p k s
  | .vldc fam n rn ms d a p k => Sys2Proof.Machine.execVldc fam n rn ms d a p k s
  | .vstc fam n ms a b p k => Sys2Proof.Machine.execVstc fam n ms a b p k s
  | .vcupd fam ms a b p k => Sys2Proof.Machine.execVcupd fam ms a b p k s
  | .vmma fa fb d a b p => Sys2Proof.Machine.execVmma fa fb d a b p s
  | .vmmas fa fb d sA sDA sB sDB p => Sys2Proof.Machine.execVmmas fa fb d sA sDA sB sDB p s
  | .vmmap fa fb d a b p => Sys2Proof.Machine.execVmmap fa fb d a b p s
  | .vptest d a p imm => Sys2Proof.Machine.execVptest d a p imm s
  | .vpoison d a p imm => Sys2Proof.Machine.execVpoison d a p imm s
  | .laneBlockStart g => Sys2Proof.Machine.execLaneBlockStart g s
  | .activeSetFill core => Sys2Proof.Machine.execActiveSetFill core s
  | .pathRotation g => Sys2Proof.Machine.execPathRotation g s
  | .preemptBudgetExpiry g => Sys2Proof.Machine.execPreemptBudgetExpiry g s
  | .pairTimeout g => Sys2Proof.Machine.execPairTimeout g s
  | .vmmapTimeout g => Sys2Proof.Machine.execVmmapTimeout g s
  | .matrixComplete m => Sys2Proof.Machine.execMatrixComplete m s
  | .mirrorPush n => Sys2Proof.Machine.execMirrorPush n s
  | .checkRetry g => Sys2Proof.Machine.execCheckRetry g s
  | .walk o va kind lvl => Sys2Proof.Machine.execWalk o va kind lvl s
  | .walkCycleLimit o va => Sys2Proof.Machine.execWalkCycleLimit o va s
  | .parkSlotAcquired g => Sys2Proof.Machine.execParkSlotAcquired g s
  | .engineFaultDelivery g => Sys2Proof.Machine.execEngineFaultDelivery g s
  | .copyChunk c => Sys2Proof.Machine.execCopyChunk c s
  | .collectiveTimeout c => Sys2Proof.Machine.execCollectiveTimeout c s
  | .takeLaunchRecord die => Sys2Proof.Machine.execTakeLaunchRecord die s
  | .kernelPlacementCheck k => Sys2Proof.Machine.execKernelPlacementCheck k s
  | .placeTeamSet k die clus cores => Sys2Proof.Machine.execPlaceTeamSet k die clus cores s
  | .sliceStart o => Sys2Proof.Machine.execSliceStart o s
  | .sliceEnd o => Sys2Proof.Machine.execSliceEnd o s
  | .ownerCreate o spec => Sys2Proof.Machine.execOwnerCreate o spec s
  | .stopSequenceComplete o => Sys2Proof.Machine.execStopSequenceComplete o s
  | .vreqActivate o => Sys2Proof.Machine.execVreqActivate o s
  | .vreqStop o => Sys2Proof.Machine.execVreqStop o s
  | .vreqResume o => Sys2Proof.Machine.execVreqResume o s
  | .vreqTeardown o => Sys2Proof.Machine.execVreqTeardown o s
  | .qbind o desc q => Sys2Proof.Machine.execQbind o desc q s
  | .queueUnbind q => Sys2Proof.Machine.execQueueUnbind q s
  | .communicatorSetup o desc contexts => Sys2Proof.Machine.execCommunicatorSetup o desc contexts s
  | .communicatorDelete o desc => Sys2Proof.Machine.execCommunicatorDelete o desc s
  | .exportRequest o desc first => Sys2Proof.Machine.execExportRequest o desc first s
  | .importRequest o desc => Sys2Proof.Machine.execImportRequest o desc s
  | .revokeRequest o desc => Sys2Proof.Machine.execRevokeRequest o desc s
  | .wsetup o desc => Sys2Proof.Machine.execWsetup o desc s
  | .walkSetupLoaded o => Sys2Proof.Machine.execWalkSetupLoaded o s
  | .voctxWrite o i1 v => Sys2Proof.Machine.execVoctxWrite o i1 v s
  | .vfRegisterWrite o off v => Sys2Proof.Machine.execVfRegisterWrite o off v s
  | .hostWrite o va wd v => Sys2Proof.Machine.execHostWrite o va wd v s
  | .hostRead o va wd => Sys2Proof.Machine.execHostRead o va wd s
  | .hostAtomic o va op wd b c => Sys2Proof.Machine.execHostAtomic o va op wd b c s
  | .fabricRead m => Sys2Proof.Machine.execFabricRead m s
  | .fabricWrite m => Sys2Proof.Machine.execFabricWrite m s
  | .fabricAtomic m => Sys2Proof.Machine.execFabricAtomic m s
  | .readReply m => Sys2Proof.Machine.execReadReply m s
  | .writeAcknowledgement m => Sys2Proof.Machine.execWriteAcknowledgement m s
  | .atomicReply m => Sys2Proof.Machine.execAtomicReply m s
  | .collectiveContribution m => Sys2Proof.Machine.execCollectiveContribution m s
  | .collectiveResult m => Sys2Proof.Machine.execCollectiveResult m s
  | .portTrain die n => Sys2Proof.Machine.execPortTrain die n s
  | .portDown die n => Sys2Proof.Machine.execPortDown die n s
  | .bothLanesLock die n => Sys2Proof.Machine.execBothLanesLock die n s
  | .oneLaneLocks die n => Sys2Proof.Machine.execOneLaneLocks die n s
  | .portTrainingTimeout die n => Sys2Proof.Machine.execPortTrainingTimeout die n s
  | .laneLost die n => Sys2Proof.Machine.execLaneLost die n s
  | .flitGroupRetry die n => Sys2Proof.Machine.execFlitGroupRetry die n s
  | .fabricPathLost die n => Sys2Proof.Machine.execFabricPathLost die n s
  | .fgrowAnswer o ans => Sys2Proof.Machine.execFgrowAnswer o ans s
  | .frameMoveStart o ofi target retire => Sys2Proof.Machine.execFrameMoveStart o ofi target retire s
  | .lineCopyComplete mv line => Sys2Proof.Machine.execLineCopyComplete mv line s
  | .scrubComplete frame => Sys2Proof.Machine.execScrubComplete frame s
  | .partitionMerge die => Sys2Proof.Machine.execPartitionMerge die s
  | .partitionSplit die forced => Sys2Proof.Machine.execPartitionSplit die forced s
  | .quiesceComplete die => Sys2Proof.Machine.execQuiesceComplete die s
  | .quiesceTimeout die => Sys2Proof.Machine.execQuiesceTimeout die s
  | .servicePairHalt die => Sys2Proof.Machine.execServicePairHalt die s
  | .timingReplay core => Sys2Proof.Machine.execTimingReplay core s
  | .packageReset strap images => Sys2Proof.Machine.execPackageReset strap images s
  | .bundleLoad o bundle scode lcode data course kdesc => Sys2Proof.Machine.execBundleLoad o bundle scode lcode data course kdesc s
  | .portableFinalise o bundle => Sys2Proof.Machine.execPortableFinalise o bundle s
  | .hostSnoop addr invalidate => Sys2Proof.Machine.execHostSnoop addr invalidate s
  | .matrixStart m => Sys2Proof.Machine.execMatrixStart m s
  | .budgetWindowStart => Sys2Proof.Machine.execBudgetWindowStart s
  | .heartbeat => Sys2Proof.Machine.execHeartbeat s
  | .takeover => Sys2Proof.Machine.execTakeover s
  | .powerLimit => Sys2Proof.Machine.execPowerLimit s

end Sys2Proof.Machine
end

