-- ==== Sys2Proof/Machine/Due.lean ====
section
/-! DEFINITION. What moves next when nobody says so: the steps of the device that may be due, and the streams that may issue (R148, R175; log entry 1). -/
namespace Sys2Proof.Machine

/-- The cores of sets of some sizes on the clusters of a list, one set after the other. -/
def planSets (cls : List Nat) (use : Nat → Claim) (need : Claim) : List Nat → Option (List Nat)
  | [] => some []
  | n :: r =>
    match pickSet use need n cls with
    | none => none
    | some cs => (planSets cls (moreUse use need cs) need r).map (fun x => cs ++ x)
/-- Where the placer puts the next sets of a kernel: the first clusters of the partition with room, but not the one a set has left (R204, R212; log entry 11). -/
def State.planPlacement (s : State) (k : Nat) : Option Instr :=
  let x := s.kernel k
  let sets := s.nextSets k
  let avoid := (sets.map (fun j => (s.waitingSet k j).filterMap (fun t => t.2.avoid))).flatten
  let cls := ((diesOf (s.owner x.owner).dies).map clustersOf).flatten.filter (fun c => !avoid.contains c)
  if x.kstate != .running || (s.owner x.owner).ostate != .running || sets.isEmpty then none
  else (planSets cls (s.coreUse none) x.d.claim (sets.map (fun j => (s.waitingSet k j).length))).map (fun cs => Instr.placeTeamSet k 0 0 cs)
/-- The steps of the device that may be due. Those that carry a choice of level S, of the host or of a peer are never taken unless the agenda names them. -/
def State.dueEvents (s : State) : List Instr :=
  let gs := s.groups.map (fun g => g.1)
  (gs.filter (fun g => (s.group g).spent s.cycle)).map Instr.preemptBudgetExpiry ++
  (s.matrix.map (fun m => if m.2.started then Instr.matrixComplete m.1 else .matrixStart m.1)) ++
  ((List.range 4).map (fun d => ((s.die d).ports.filter (fun p => p.2.st == 1 && decide (100 < p.2.trained))).map (fun p => Instr.portTrainingTimeout d p.1))).flatten ++
  gs.map Instr.pairTimeout ++ gs.map Instr.vmmapTimeout ++ s.colls.map (fun c => Instr.collectiveTimeout c.1) ++
  (List.range s.pushes.length).map Instr.mirrorPush ++
  (gs.filter (fun g => !(s.group g).want.isEmpty)).map Instr.checkRetry ++
  (gs.filter (fun g => (s.group g).pendingFault.isSome || (s.chunkSlot g).isSome)).map Instr.parkSlotAcquired ++
  (gs.filter (fun g => !(s.group g).lane.running && !(s.group g).lane.blocks.isEmpty)).map Instr.laneBlockStart ++
  gs.map Instr.pathRotation ++ gs.map Instr.engineFaultDelivery ++
  ((gs.filter (fun g => (s.group g).gstate == .ready)).map (fun g => (s.team (s.group g).team).core)).eraseDups.map Instr.activeSetFill ++
  s.copies.map (fun c => Instr.copyChunk c.1) ++ s.colls.filterMap (fun c => s.ownContribution c.2) ++
  s.walks.map (fun w => Instr.walk w.owner w.va w.kind w.level) ++
  (s.moves.map (fun m => (List.range 128).filterMap (fun l =>
    if m.2.moved.contains l then none else some (Instr.lineCopyComplete m.1 l)))).flatten ++
  (s.mframes.filterMap (fun f => if f.2 = .scrub then some (Instr.scrubComplete f.1) else none)) ++
  (s.owners.filterMap (fun o => if o.2.wsetup.isSome then some (Instr.walkSetupLoaded o.1) else none)) ++
  (s.owners.filterMap (fun o => if o.2.ostate = .stopping then some (Instr.stopSequenceComplete o.1) else none)) ++
  (s.kernels.filterMap (fun k => if k.2.kstate = .admitted then some (Instr.kernelPlacementCheck k.1) else none)) ++
  s.kernels.filterMap (fun k => s.planPlacement k.1) ++
  (List.range 4).map Instr.takeLaunchRecord ++ (s.pchanges.map (fun c => Instr.quiesceComplete ((diesOf c.dies).headD 0))) ++
  (if s.led then s.requests else [])
/-- The streams of a group that may issue, each with the step of its last issue on its port or pipe, and the group's context. -/
def State.streamsOf (s : State) (g : Nat) : List (Nat × Nat × Turn) :=
  let x := s.group g
  let lane (z : Nat) : List (Nat × Nat × Turn) := if s.mayIssueLane g z then [(x.issuedLane, x.ctx, .lane g z)] else []
  if s.mayIssue g then [(x.issued, x.ctx, .scalar g)] ++ lane 0 ++ lane 1 else []
/-- One stream goes before another: the older last issue, and of two such the lower context (R175). -/
def streamBefore (x y : Nat × Nat × Turn) : Bool := decide (x.1 < y.1) || (x.1 == y.1 && decide (x.2.1 < y.2.1))
/-- A stream takes its place in an order. -/
def placeStream (x : Nat × Nat × Turn) : List (Nat × Nat × Turn) → List (Nat × Nat × Turn)
  | [] => [x]
  | y :: r => if streamBefore x y then x :: y :: r else y :: placeStream x r
/-- The streams that may issue, in their order. -/
def State.dueStreams (s : State) : List Turn :=
  (((s.groups.map (fun g => s.streamsOf g.1)).flatten).foldl (fun l x => placeStream x l) []).map (fun e => e.2.2)
/-- A list from its place n on, around. -/
def turnList {α : Type} (l : List α) (n : Nat) : List α := l.drop (n % l.length) ++ l.take (n % l.length)
/-- The turns to try in a step that no agenda names: device steps and streams come first by turns, and no device step comes first for ever. -/
def State.dueTurns (s : State) : List Turn :=
  let es := (turnList s.dueEvents (s.steps / 2)).map Turn.event
  if s.steps % 2 = 0 then es ++ s.dueStreams else s.dueStreams ++ es

end Sys2Proof.Machine
end

