-- ==== Sys2Proof/Machine/Turn.lean ====
section
/-! DEFINITION. One turn of the machine: an issue of one of the two streams of a group, a step of the device, or something from outside; and the machine
prepared for the run of one instruction (R148, R175, R429; log entries 1 and 11). -/
namespace Sys2Proof.Machine

/-- The words that may leave their stream where it is although they complete. -/
def Instr.toItself (i : Instr) : Bool :=
  match i with
  | .br _ | .bc _ _ _ | .call _ | .ret _ | .loop _ _ | .vbr _ _ _ | .vjoin _ _ => true
  | _ => false
/-- The acting group stands where it stood: neither its scalar stream nor its lane path is anywhere else. -/
def State.stood (t u : State) : Bool :=
  let a := t.g
  let b := u.group t.cur
  b.pc == a.pc && b.level == a.level && b.gstate == a.gstate && b.tr.tctl == a.tr.tctl &&
    decide (tabFind b.lane.slots t.slot = tabFind a.lane.slots t.slot)
/-- The acting group's word waited in place. -/
def State.waited (t u : State) (i : Instr) : Bool := !Instr.toItself i && t.stood u
/-- A matrix instruction (R69). -/
def Instr.matrix (i : Instr) : Bool :=
  match i with
  | .vmma _ _ _ _ _ _ | .vmmas _ _ _ _ _ _ _ _ | .vmmap _ _ _ _ _ _ => true
  | _ => false
/-- A word that did not wait has issued, and is counted on the die of its group and for its owner: scalar instructions, lane words, and matrix instructions
among these, and the cycle in which it issues, where it is the first of it (R175, R404; log entry 2). -/
def State.counted (t : State) (i : Instr) (o : Host.Outcome State Fault Refusal) : Host.Outcome State Fault Refusal :=
  match o with
  | .next u =>
    if t.waited u i then .next u
    else
      let one (u : State) (k : Nat) : State := u.count (t.dieOf t.cur) (t.ownerOf t.cur) k 1
      let u := (u.stampIssue t.cur t.slot).count (t.dieOf t.cur) (t.ownerOf t.cur) 16 (if Config.firstOfCycle t.steps then 1 else 0)
      if isLane i then .next (if Instr.matrix i then one (one u 18) 19 else one u 18) else .next (one u 17)
  | .fault f => .fault f
  | .refused r => .refused r

/-- What a word that does not execute comes to, with its issue where it takes a trap or a fault (R175). -/
def State.missed (t : State) (o : Host.Outcome State Fault Refusal) : Host.Outcome State Fault Refusal :=
  match o with
  | .next u => .next (if t.stood u then u else u.stampIssue t.cur t.slot)
  | .fault f => .fault f
  | .refused r => .refused r

/-- A group's scalar stream issues: the word at its pc is fetched and, when no reply it needs is outstanding, executed. -/
def issueScalar (s : State) (g : Nat) : Host.Outcome State Fault Refusal :=
  if s.mayIssue g then
    let s := s.issueFrom g scalarStream
    match fetchScalar s with
    | .ok (.ok i) t => if t.scalarHazard i then s.waitHere t else t.counted i (exec i t)
    | .ok (.illegal k w) t => s.missed (s.scalarMiss (.ok (.illegal k w) t))
    | .ok (.poisoned w) t => s.missed (s.scalarMiss (.ok (.poisoned w) t))
    | .error e t => s.missed (s.scalarMiss (.error e t))
  else .fault .noSuchAgent
/-- A slot of a group's lane stream issues the word at its path. -/
def issueLane (s : State) (g z : Nat) : Host.Outcome State Fault Refusal :=
  if s.mayIssueLane g z then
    let s := s.issueFrom g z
    let w := s.laneWord { neg := false, p := 0 }
    match fetchLane (s.descOf s.g.team).regs w.path.pc s with
    | .ok (.ok i) t => if t.laneHazard i then s.waitHere t else t.counted i (exec i t)
    | .ok (.illegal k b) t => s.missed (s.laneMiss w (.ok (.illegal k b) t))
    | .ok (.poisoned b) t => s.missed (s.laneMiss w (.ok (.poisoned b) t))
    | .error e t => s.missed (s.laneMiss w (.error e t))
  else .fault .noSuchAgent
/-- A fill of a line of an owner with encrypted memory fails its tag (R416): 128 words of poison, and an event of the memory controller. The data are free values. -/
def State.poisonLine (s : State) (ma o : Nat) : State :=
  let base := ma / 512 * 512
  let k := s.freeIdx
  let m := (List.range 128).foldl (fun (m : Store) i =>
    let w := Config.freeWord (k + i)
    m.write (base + 4 * i) w (poisonCode w ((base + 4 * i) % 65536))) s.mem
  { s with mem := m, freeIdx := k + 128 }.reportFor 8 11 o base 0 (homeDie base)
/-- A stored word changes without a write (R108). In a line of an owner with encrypted memory, the turn is the change together with the fill that finds it; one that is
overwritten before any fill leaves nothing, and is no turn (log entry 47). -/
def State.upset (s : State) (ma : Nat) (w : Word) (c : Byte) : State :=
  match s.sealedBy (ma / 65536) with
  | some o => (s.poisonLine ma o).flush
  | none => { s with mem := s.mem.write ma w c }
/-- One held line of a team lands ahead of the commit that a turn, with this outcome, brings (R258). -/
def landTurn (s : State) (t line : Nat) (o : Host.Outcome State Fault Refusal) : Host.Outcome State Fault Refusal :=
  match o with
  | .next u =>
    if (s.team t).held.any (fun x => x.1 / 128 == line) && decide ((s.team t).commits < (u.team t).commits) then .next (s.landLine t line).flush
    else .fault .notEnabled
  | .fault _ => .fault .notEnabled
  | .refused _ => .fault .notEnabled
/-! ## The device's own accesses wait for budgets (R115, R431; log entry 5) -/
/-- The owners whose budgets do not carry the device's own accesses for them in a turn. One that the turn stops is none: a stop does not wait. -/
def State.heldOwners (s u : State) : List Nat :=
  (u.owners.filter (fun e =>
    let x := s.owner e.1
    e.2.ostate == x.ostate && (decide (x.walkDebt < e.2.walkDebt) || decide (x.fillWaits < e.2.fillWaits)))).map (fun e => e.1)
/-- What is left of an owner's walk budget goes to its own walks that wait. -/
def Owner.saveWalk (x : Owner) : Owner := { x with walkSaved := x.walkSaved + x.walkLeft, walkLeft := 0, dry := true }
/-- A turn with an outcome, held back where owners' budgets do not carry its accesses of the device's own: it is not taken, and what their walk budgets still have is saved
for the next time. -/
def State.carried (s : State) (o : Host.Outcome State Fault Refusal) : Host.Outcome State Fault Refusal :=
  match o with
  | .next u =>
    if (s.heldOwners u).isEmpty then .next u
    else
      .next { s with
        freeIdx := u.freeIdx
        owners := s.owners.map (fun e =>
          if (s.heldOwners u).contains e.1 && decide (e.2.walkDebt < (u.owner e.1).walkDebt) then (e.1, e.2.saveWalk) else e) }
  | .fault f => .fault f
  | .refused r => .refused r

/-- One turn. An instruction that a word encodes runs only as a stream issues it. An upset changes a stored word or a cached copy of it (R108); a host store changes host memory (R110). -/
def runTurn (s : State) : Turn → Host.Outcome State Fault Refusal
  | .scalar g => s.carried (issueScalar s g)
  | .lane g z => s.carried (issueLane s g z)
  | .event i => if hasWord i then .fault .noSuchAgent else s.carried (exec i s)
  | .upset ma w c => .next (s.upset ma w c)
  | .badCopy ma w c => .next { s with badCopies := tabPut s.badCopies (ma / 4) (w, c) }
  | .remoteCopy d ma => if d < 4 && d != homeDie ma then .next (s.fillCopy d ma) else .fault .notEnabled
  | .sectors d o f b =>
    if 1 ≤ f + b && d < 4 && (o == 0 || decide (f + b ≤ (s.owner o).memLeft)) then .next (if o = 0 then (s.count d 0 21 f).count d 0 22 b else s.payMemory d o f b)
    else .fault .notEnabled
  | .misses d o n => if d < 4 && (o == 0 || (s.owner o).alive) then .next (s.count d o 20 n) else .fault .notEnabled
  | .land t line next => landTurn s t line (runTurn s next)
  | .resent die n => resentTurn s die n
  | .deviceNumber n => if s.led && n < 1024 then .next { s with device := n } else .fault .notEnabled
  | .tlbDrop n => .next { s with tlb := s.tlb.eraseIdx n }
  | .hostStore a wd v => .next { s with hostMem := cellsWrite s.hostMem a (widthBytes wd) v.toNat, hostLines := s.hostLines.filter (fun e => e.1 / 4 != a / 64) }
/-- A turn is more than a word that waits in place. -/
def State.moved (s u : State) : Turn → Bool
  | .scalar g => (tabFind u.groups g).all (fun x => x.issued == s.steps)
  | .lane g _ => (tabFind u.groups g).all (fun x => x.issuedLane == s.steps)
  | _ => true
/-- The first turn of a list that can be taken; streams that are stalled are passed over. With none, time passes. -/
def firstTurn (s : State) : List Turn → Host.Outcome State Fault Refusal
  | [] => .next s
  | t :: r =>
    match runTurn s t with
    | .next u => if s.moved u t then .next u else firstTurn u r
    | .fault _ => firstTurn s r
    | .refused _ => firstTurn s r
/-- Time passes, and then the next turn of the agenda is taken; where the agenda is empty, a step of the device that is due or a stream that may issue
(log entry 1). -/
def turn (s : State) : Host.Outcome State Fault Refusal :=
  let s := s.tick
  match s.agenda with
  | t :: r => runTurn { s with agenda := r } t
  | [] => firstTurn s s.dueTurns

/-! ## One instruction, ready to run (log entry 11) -/
/-- The words of an instruction whose low nbits bits are w and whose other bits are zero, with their codes, from a machine address. -/
def Store.putCode (m : Store) (a w : Nat) : Nat → Store
  | 0 => m
  | n + 1 =>
    let x : Word := BitVec.ofNat 32 w
    Store.putCode (m.write a x (checkCode x (a % 65536))) (a + 4) (w / 2 ^ 32) n
/-- The owner that runs the instruction: 64 reserve frames at machine frames 256 to 319, one device frame at 320, handlers in the reserve. -/
def placedOwner : Owner :=
  { Owner.init with
    ostate := .running, frames := 65, reserve := 64, contexts := 64, walkBudget := 1000000, memBudget := 1000000, fabBudget := 1000000,
    copyBudget := 1000000, share := 1, dies := 15, walkLeft := 1000000, memLeft := 1000000, fabLeft := 1000000,
    copyLeft := 1000000, hvec := BitVec.ofNat 64 (reserveBase + 0x10000), pvec := BitVec.ofNat 64 (reserveBase + 0x10100),
    rvec := BitVec.ofNat 64 (reserveBase + 0x10200), pbud := 1024, fqbase := BitVec.ofNat 64 (reserveBase + 0x20000), fqcap := 128,
    spool := BitVec.ofNat 64 (60 * 2 ^ 32 + 4),
    fmap := (List.range 65).map (fun i =>
      (i, { st := 1, ty := 0, pinned := decide (i < 64), move := 0, frame := 256 + i })) }
/-- Its kernel of one team of one group. -/
def placedKernel : Kernel :=
  { Kernel.init with
    owner := 1, kstate := .running, lrec := { LaunchRec.zero with teams := 1 },
    desc := some { KDesc.zero with entry := 0x10000, laneBase := 0x10000, max := 2, regs := 192, scratch := 4096, lanepriv := 256 } }
def placedTeam : Team := { Team.init with tstate := .placed, die := some 0, run := some 4 }
def placedGroup : Group := { Group.init with gstate := .active, pc := 0x10000 }
/-- The same group with a lane block that begins at the same address. -/
def placedLaneGroup : Group :=
  { placedGroup with
    lane := { LaneCtx.empty with running := true, slots := [(0, ({ pc := 0x10000, mask := -1, inner := none }, 0))] } }
/-- The machine with an owner whose only group issues exactly that instruction next. -/
def State.placeWord (s : State) (nbits w : Nat) : State :=
  { s with
    agenda := [if nbits = 96 then .lane 0 0 else .scalar 0],
    nextId := max s.nextId 1,
    owners := tabPut s.owners 1 placedOwner, kernels := tabPut s.kernels 0 placedKernel, teams := tabPut s.teams 0 placedTeam,
    groups := tabPut s.groups 0 (if nbits = 96 then placedLaneGroup else placedGroup),
    mframes := (List.range 65).foldl (fun t i => tabPut t (256 + i) .owned) s.mframes,
    tlb := [{ unit := 0, owner := 1, page := 1, res := BitVec.ofNat 64 (2 ^ 63 + 64 * 2 ^ 16 + 15) }],
    mem := s.mem.putCode (320 * 65536) (w % 2 ^ nbits) 3 }

end Sys2Proof.Machine
end

