-- ==== Sys2Proof/Safety.lean ====
section
/-! DEFINITION. The notions that statements use: the form of memory, the frame of an update, a lane word that is ready to execute and the state it leaves. -/
namespace Sys2Proof
open Machine

/-- The stores of device and host memory are in their canonical form. -/
def MemoryForm (s : State) : Prop := Memory.wf s = true
/-- A step goes on. -/
def Goes (s : State) : Prop := ∃ t, step s = .next t

/-! ## Frames -/
/-- The byte of device memory at a machine address. -/
def devByte (s : State) (a : Nat) : Byte := s.mem.byte a
/-- The byte of host memory at an address. -/
def hostByte (s : State) (a : Nat) : Byte := cellGet s.hostMem a
/-- The byte of device memory that a team sees: its held word over the committed contents (R210). -/
def viewByte (s : State) (t a : Nat) : Byte := ((s.viewLoc t (.dev a)).1 >>> (8 * (a % 4))).truncate 8
/-- Only the acting group and its table entry differ: every other group and every other part of the state is as before. -/
def OnlyGroup (s t : State) : Prop := t = { s with groups := t.groups } ∧ ∀ g, g ≠ s.cur → t.group g = s.group g
/-- The acting group differs in its scalar registers and flags, its pc (now n bytes on), and the words it has read again (R108), alone. -/
def OnlyScalar (s t : State) (n : Nat) : Prop :=
  t.g = { s.g.endReads scalarStream with sr := t.g.sr, pc := s.g.pc + BitVec.ofNat 64 n }
/-- s registers other than d keep value and poison, and flags other than f keep their value. -/
def KeepsRegs (s t : State) (d f : Option Nat) : Prop :=
  (∀ n, some n ≠ d → t.g.sr.get n = s.g.sr.get n ∧ t.g.sr.bad n = s.g.sr.bad n) ∧ ∀ n, n < 8 → some n ≠ f → t.g.sr.flag n = s.g.sr.flag n

/-! ## The scalar stream -/
/-- The state in which the acting group has gone past an instruction. -/
def past (i : Instr) (s : State) : State := s.updG (fun x => x.advance (wordBytes i))
/-- The instruction completes in t: the group is past it, and what it reported meets the severity matrix. -/
def Completes (i : Instr) (s t : State) : Prop := exec i s = .next (past i t).flush
/-- The instruction takes a trap with nothing done. -/
def Traps (i : Instr) (s : State) (cause arg : Nat) : Prop :=
  exec i s = .next (s.takeTrap s.cur (scalarTrap s.g.pc (encodeWord i) (wordBytes i) cause arg)).flush
/-- A computation gives a value and a state. -/
def Gives {α : Type} (m : M α) (s : State) (a : α) (t : State) : Prop := m s = .ok a t
/-- Register n of the acting group: its value, and whether it is poisoned. -/
def sreg (s : State) (n : Nat) : DWord := s.g.sr.get n
def sbad (s : State) (n : Nat) : Bool := s.g.sr.bad n
/-- The acting group's register n with a value and a poison bit. -/
def setReg (s : State) (n : Nat) (v : DWord) (p : Bool) : State := s.setSr (s.g.sr.put n v p)

/-- An acquire at a scope waits for nothing (R257, R311), and a release at one (R256, R425). -/
def acquireOk (s : State) (sc : MScope) : Bool := !(scSys sc && s.g.replies.any (fun r => r.got.isNone))
def releaseOk (s : State) (sc : MScope) : Bool :=
  !scWide sc || !(s.pushes.any (fun p => p.groups.contains s.cur) || (scSys sc && s.g.acks != 0))
/-- An access to control register n waits for nothing (R140, R330). -/
def ctlReady (s : State) (n : Nat) : Bool := (!ctlWaits n || s.g.lanesIdle) && (!ctlFlags n || s.flagsSettled)
/-- The state after a release at a scope. -/
def released (s : State) (sc : MScope) : State := if scWide sc then s.commitMine else s

/-! ## The lane stream -/
/-- The sources of a lane, where it gets them. -/
def laneIn (s : State) (imm : Word) (srcs : List LSrc) (l : Nat) : List (Word × Bool) :=
  match s.g.laneArgs imm l srcs with
  | .ok as => as
  | .error _ => []
/-- The acting group's slot holds a word that no return resumes; its queues have entries, a return queue has room, and every active lane gets its
sources. -/
def laneReady (s : State) (p : LPred) (imm : Word) (srcs : List LSrc) (d : LaneDst) : Bool :=
  let w := s.laneWord p
  w.redo.isNone && (queuesOf srcs).all (fun q => !(tabGet [] s.g.lane.q q).isEmpty) &&
  (match d.queue with | some k => decide ((tabGet [] s.g.lane.y k).length < Config.queueDepth) | none => true) &&
  (lanesOf w.run).all (fun l => match s.g.laneArgs imm l srcs with | .ok _ => true | .error _ => false)
/-- A lane's result is complete, and no enabled exception makes it trap. -/
def laneQuiet (s : State) (d : LaneDst) (r : LRes) : Bool := r.isDone && (enabled s.g.fpen d r == r)
/-- The state after a lane word whose active lanes have completed with results: registers, sticky flags, the pops and the push, and the path 12 bytes
on. -/
def laneDone (s : State) (w : LaneWord) (srcs : List LSrc) (d : LaneDst) (res : List (Nat × LRes)) : State :=
  (({ s with freeIdx := s.freeIdx + 1 }).updG (fun x => x.takeResults d res)).endWord w (queuesOf srcs) d
    (pushValue (Config.freeWord s.freeIdx) none res)
/-- The results of the lanes that execute a word, from f of the lane and its sources. -/
def laneResults (s : State) (p : LPred) (imm : Word) (srcs : List LSrc) (f : Nat → List (Word × Bool) → LRes) : List (Nat × LRes) :=
  (lanesOf (s.laneWord p).run).map (fun l => (l, f l (laneIn s imm srcs l)))
/-- The lane instruction i completes in every active lane with the results f, where those raise no enabled exception. -/
def LaneCompletes (i : Instr) (s : State) (p : LPred) (imm : Word) (srcs : List LSrc) (d : LaneDst) (f : Nat → List (Word × Bool) → LRes) : Prop :=
  laneReady s p imm srcs d = true → (laneResults s p imm srcs f).all (fun e => laneQuiet s d e.2) = true →
    exec i s = .next (laneDone s (s.laneWord p) srcs d (laneResults s p imm srcs f)).flush
/-- The lane instruction i completes with a body's results: the body, run on the state, gives every active lane a complete result. -/
def LaneBodyCompletes (i : Instr) (s : State) (p : LPred) (imm : Word) (srcs : List LSrc) (d : LaneDst) (m : M (List (Nat × LRes))) : Prop :=
  laneReady s p imm srcs d = true → ∀ res t, Gives m s res t → res.all (fun e => laneQuiet t d e.2) = true →
    exec i s = .next (laneDone t (s.laneWord p) srcs d res).flush
/-- Source n of lane l, as a lane word receives it. -/
def laneVal (s : State) (imm : Word) (a : LSrc) (l : Nat) : Word × Bool := (laneIn s imm [a] l).getD 0 (0, false)
/-- The lanes that execute the word of a predicate field. -/
def running (s : State) (p : LPred) : List Nat := lanesOf (s.laneWord p).run
/-- A lane that completes with results res writes v register n. -/
def writesV (d : LaneDst) (n : Nat) (r : LRes) : Bool :=
  match d, r with
  | .dst (.v m _), .done (_ :: _) _ => m == n
  | .run m, .done ws _ => decide (m ≤ n ∧ n < m + ws.length)
  | _, _ => false
/-- The lane word ends with a trap in the lanes whose result is one: the results it keeps, and the trap. -/
def laneTrapped (i : Instr) (s : State) (w : LaneWord) (d : LaneDst) (res : List (Nat × LRes)) : State :=
  let done := (w.active &&& ~~~w.run) ||| lanesWith res LRes.isDone
  (({ s with freeIdx := s.freeIdx + 1 }).updG (fun x => (x.takeResults d res).endReads w.slot)).laneTrap w (encodeWord i)
    (firstCause res) 0 (lanesWith res LRes.isTrap) done
    { path := w.path.mask, active := w.active, done := done, push := pushValue (Config.freeWord s.freeIdx) none res }

/-- The lane instruction i takes its trap in the lanes whose result f is one, or raises an enabled exception; the other active lanes complete (R332). -/
def LaneTraps (i : Instr) (s : State) (p : LPred) (imm : Word) (srcs : List LSrc) (d : LaneDst) (f : Nat → List (Word × Bool) → LRes) : Prop :=
  let res := (laneResults s p imm srcs f).map (fun e => (e.1, enabled s.g.fpen d e.2))
  laneReady s p imm srcs d = true → res.any (fun e => e.2.isTrap) = true → exec i s = .next (laneTrapped i s (s.laneWord p) d res).flush
/-- Both ends of a lane instruction whose results are f. -/
def LaneEnds (i : Instr) (s : State) (p : LPred) (imm : Word) (srcs : List LSrc) (d : LaneDst) (f : Nat → List (Word × Bool) → LRes) : Prop :=
  LaneCompletes i s p imm srcs d f ∧ LaneTraps i s p imm srcs d f

/-! ## Exact values rounded once (R77, R81, R82, R331) -/
/-- The magnitude code n of a format with mb mantissa bits in units of its smallest positive number; the codes go on past the largest. -/
def codeUnits (mb n : Nat) : Nat := if n < 2 ^ mb then n else (2 ^ mb + n % 2 ^ mb) * 2 ^ (n / 2 ^ mb - 1)
/-- The value of a finite F32 pattern in units of 2^-149. -/
def f32Units (w : Word) : Int := if w.msb then -(codeUnits 23 (w.toNat % 2 ^ 31) : Int) else codeUnits 23 (w.toNat % 2 ^ 31)
/-- The magnitude a / k of a number of a sign, rounded in a mode to one of the magnitudes u 0 < u 1 < ..., is u n. Of two that are equally near, the even one is taken. -/
def RoundsTo (r : Rnd) (neg : Bool) (u : Nat → Nat) (a k n : Nat) : Prop :=
  let down : Prop := u n * k ≤ a ∧ a < u (n + 1) * k
  let up : Prop := a ≤ u n * k ∧ (n ≠ 0 → u (n - 1) * k < a)
  match r with
  | .rne => (2 * a < (u n + u (n + 1)) * k ∨ 2 * a = (u n + u (n + 1)) * k ∧ n % 2 = 0) ∧
      (n ≠ 0 → (u (n - 1) + u n) * k < 2 * a ∨ (u (n - 1) + u n) * k = 2 * a ∧ n % 2 = 0)
  | .rtz => down
  | .rup => if neg then down else up
  | .rdn => if neg then up else down
/-- The exact value v / k, in units of 2^-149 and not zero, delivered as F32 with its flags: overflow where the value rounded without a limit above exceeds the largest finite one, underflow where the
delivered value is not exact and the value rounded without a limit below is less than 2^-126 (2^24 units of 2^-150). -/
def RoundedF32 (r : Rnd) (v : Int) (k : Nat) (res : Word × Nat) : Prop :=
  let neg := decide (v < 0)
  let a := v.natAbs
  let sign : Nat := if neg then 2 ^ 31 else 0
  ∃ n, RoundsTo r neg (codeUnits 23) a k n ∧
    if 0x7F800000 ≤ n then
      res = (BitVec.ofNat 32 (sign + if r = .rne ∨ r = .rup ∧ neg = false ∨ r = .rdn ∧ neg = true then 0x7F800000 else 0x7F7FFFFF), 20)
    else
      let tiny : Prop := ∃ j, j < 2 ^ 24 ∧ RoundsTo r neg (codeUnits 23) (2 * a) k j
      res.1 = BitVec.ofNat 32 (sign + n) ∧ (codeUnits 23 n * k = a → res.2 = 0) ∧ (codeUnits 23 n * k ≠ a → tiny → res.2 = 24) ∧
        (codeUnits 23 n * k ≠ a → ¬tiny → res.2 = 16)

/-! ## Engines and the steps of the device -/
/-- No request waits on register reg of owner o's virtual function. -/
def requestFree (s : State) (o reg : Nat) : Bool := (s.askedBefore (o, reg, 0)).isEmpty
/-- The acting group's copies and its cluster's engine have room for one more (R386, R387). -/
def copyRoom (s : State) (c : Copy) : Bool :=
  decide ((s.copies.filter (fun e => e.2.group == c.group)).length < Config.groupCopies) &&
  decide ((s.copies.filter (fun e => e.2.cluster == c.cluster)).length < Config.engineCopies)
/-- The state in which the acting group has issued a copy: it is pending, and the team is no longer clean. -/
def issued (s : State) (c : Copy) : State :=
  ((({ s with copies := tabPut s.copies s.nextId c, nextId := s.nextId + 1 }).updG
    (fun x => { x with pending := x.pending ++ [s.nextId] })).soil c.team).settleCopy s.nextId
/-- The acting group parks at a switch point (R171, R176): it leaves the active set until what it waits for comes. -/
def parked (s : State) (w : Wait) : State :=
  s.updG (fun x => { x.endReads scalarStream with gstate := .parked, wait := some w, lossNext := true })
/-- It goes on at a switch point: its next lane block begins without latches. -/
def switched (s : State) : State := s.updG (fun x => { x with lossNext := true })
/-- A step of the device happens, and what it reports meets the severity matrix. -/
def Happens (i : Instr) (s t : State) : Prop := exec i s = .next t.flush
/-- A step of the device cannot happen. -/
def NotNow (i : Instr) (s : State) : Prop := exec i s = .fault .notEnabled

end Sys2Proof
end

