-- ==== Sys2Proof/Certificates/Slice0/Obligations.lean ====
section
/-! DEFINITION. The statements for the provers. Completes, Traps, LaneCompletes and the other notions they use stand in Sys2Proof/Safety.lean. -/
open Sys2Proof Sys2Proof.Machine

/-- R51, R98, R146: register s0 reads zero, is never poisoned, and a write to it is discarded; a write to another register sets its value and its poison bit and leaves
every other register and every flag. -/
def Obligations.ScalarRegisterWrite : Prop :=
  ∀ (r : SRegs) (n m : Nat) (v : DWord) (p : Bool), n < 64 → m < 64 →
    (r.get 0 = 0 ∧ r.bad 0 = false) ∧ r.put 0 v p = r ∧
    (n ≠ 0 → (r.put n v p).get n = v ∧ (r.put n v p).bad n = p) ∧
    (m ≠ n → (r.put n v p).get m = r.get m ∧ (r.put n v p).bad m = r.bad m) ∧
    (∀ f, (r.put n v p).flag f = r.flag f)

/-- R325, the register forms with two and with one source register (R327: the result is poisoned when a source is). R325, R327: sel takes the register the flag names,
with that register's poison bit alone. -/
def Obligations.ScalarRegisterForms : Prop :=
  (∀ (s : State) (d a b : Nat),
    let x := sreg s a
    let y := sreg s b
    let two (i : Instr) (v : DWord) : Prop := Completes i s (setReg s d v (sbad s a || sbad s b))
    let one (i : Instr) (v : DWord) : Prop := Completes i s (setReg s d v (sbad s a))
    two (.add d a b) (x + y) ∧ two (.sub d a b) (x - y) ∧ two (.mul d a b) (x * y) ∧
    two (.mulh d a b) ((x.signExtend 128 * y.signExtend 128).extractLsb' 64 64) ∧
    two (.div d a b) (if y = 0 then -1 else x.sdiv y) ∧ two (.divu d a b) (if y = 0 then -1 else x.udiv y) ∧
    two (.and d a b) (x &&& y) ∧ two (.or d a b) (x ||| y) ∧ two (.xor d a b) (x ^^^ y) ∧
    two (.shl d a b) (if 64 ≤ y.toNat % 256 then 0 else x <<< (y.toNat % 256)) ∧
    two (.shr d a b) (if 64 ≤ y.toNat % 256 then 0 else x >>> (y.toNat % 256)) ∧
    two (.sar d a b) (x.sshiftRight (min (y.toNat % 256) 63)) ∧
    two (.min d a b) (if x.toInt ≤ y.toInt then x else y) ∧ two (.max d a b) (if x.toInt ≤ y.toInt then y else x) ∧
    two (.minu d a b) (if x.toNat ≤ y.toNat then x else y) ∧ two (.maxu d a b) (if x.toNat ≤ y.toNat then y else x) ∧
    one (.mov d a) x ∧
    one (.clz d a) (BitVec.ofNat 64 ((List.range 64).takeWhile (fun i => !x.getLsbD (63 - i))).length) ∧
    one (.popc d a) (BitVec.ofNat 64 ((List.range 64).filter (fun i => x.getLsbD i)).length) ∧
    one (.extB d a) ((x.truncate 8 : BitVec 8).signExtend 64) ∧ one (.extH d a) ((x.truncate 16 : BitVec 16).signExtend 64) ∧
    one (.extW d a) ((x.truncate 32 : BitVec 32).signExtend 64)) ∧
  (∀ (s : State) (d a b f : Nat),
    (s.g.sr.flag f = true → Completes (.sel d a b f) s (setReg s d (sreg s a) (sbad s a))) ∧
    (s.g.sr.flag f = false → Completes (.sel d a b f) s (setReg s d (sreg s b) (sbad s b))))

/-- R63, R325, R326, R327: cmp sets its flag and no other state, for a register and for a constant; a poisoned source takes trap 3 and leaves the flag. -/
def Obligations.ScalarCompare : Prop :=
  ∀ (s : State) (cc : Cond) (f a b : Nat) (k : BitVec 13) (e : Word),
    let holds (x y : DWord) : Bool := match cc with
      | .eq => decide (x = y) | .ne => decide (x ≠ y) | .lt => decide (x.toInt < y.toInt) | .ge => decide (y.toInt ≤ x.toInt)
      | .le => decide (x.toInt ≤ y.toInt) | .gt => decide (y.toInt < x.toInt) | .ltu => decide (x.toNat < y.toNat)
      | .geu => decide (y.toNat ≤ x.toNat)
    let sets (i : Instr) (y : DWord) : Prop := Completes i s (s.setSr (s.g.sr.putFlag f (holds (sreg s a) y)))
    (sbad s a = false → sbad s b = false → sets (.cmp cc f a b) (sreg s b)) ∧
    (sbad s a = false → sets (.cmpImm cc f a k) (k.signExtend 64) ∧ sets (.aluWide (.cmp cc) f a e) (e.signExtend 64)) ∧
    (sbad s a = true ∨ sbad s b = true → Traps (.cmp cc f a b) s 3 0) ∧
    (sbad s a = true → Traps (.cmpImm cc f a k) s 3 0 ∧ Traps (.aluWide (.cmp cc) f a e) s 3 0)

/-- R326, R327: the immediate and extended forms act as the register form with b replaced; li clears the poison bit, lih keeps it. -/
def Obligations.ScalarImmediateForms : Prop :=
  ∀ (s : State) (d a n : Nat) (k : BitVec 13) (e : Word), n < 64 →
    let x := sreg s a
    let y : DWord := k.signExtend 64
    let z : DWord := e.signExtend 64
    let sets (i : Instr) (v : DWord) : Prop := Completes i s (setReg s d v (sbad s a))
    sets (.addImm d a k) (x + y) ∧ sets (.mulImm d a k) (x * y) ∧ sets (.andImm d a k) (x &&& y) ∧ sets (.orImm d a k) (x ||| y) ∧
    sets (.xorImm d a k) (x ^^^ y) ∧ sets (.minImm d a k) (if x.toInt ≤ y.toInt then x else y) ∧
    sets (.maxImm d a k) (if x.toInt ≤ y.toInt then y else x) ∧ sets (.minuImm d a k) (if x.toNat ≤ y.toNat then x else y) ∧
    sets (.maxuImm d a k) (if x.toNat ≤ y.toNat then y else x) ∧
    sets (.shlImm d a n) (x <<< n) ∧ sets (.shrImm d a n) (x >>> n) ∧ sets (.sarImm d a n) (x.sshiftRight n) ∧
    sets (.aluWide .add d a e) (x + z) ∧ sets (.aluWide .sub d a e) (x - z) ∧ sets (.aluWide .mul d a e) (x * z) ∧
    sets (.aluWide .and d a e) (x &&& z) ∧ sets (.aluWide .or d a e) (x ||| z) ∧ sets (.aluWide .xor d a e) (x ^^^ z) ∧
    sets (.aluWide .min d a e) (if x.toInt ≤ z.toInt then x else z) ∧ sets (.aluWide .max d a e) (if x.toInt ≤ z.toInt then z else x) ∧
    sets (.aluWide .minu d a e) (if x.toNat ≤ z.toNat then x else z) ∧ sets (.aluWide .maxu d a e) (if x.toNat ≤ z.toNat then z else x) ∧
    Completes (.li d k) s (setReg s d y false) ∧
    Completes (.lih d e) s (setReg s d (e ++ (sreg s d).extractLsb' 0 32) (sbad s d))

/-- The frame of the scalar instructions that only compute (R325 to R327): where no error event waits, every register but the destination, every flag but a compare's,
every byte of memory, every other group and every other part of the state is as before; the pc goes past the instruction. -/
def Obligations.ScalarComputeFrame : Prop :=
  ∀ (s t : State) (d a b f n : Nat) (cc : Cond) (k : BitVec 13) (e : Word) (i : Instr), s.evs = [] →
    (i ∈ [.add d a b, .sub d a b, .mul d a b, .mulh d a b, .div d a b, .divu d a b, .and d a b, .or d a b, .xor d a b, .shl d a b, .shr d a b,
        .sar d a b, .min d a b, .max d a b, .minu d a b, .maxu d a b, .mov d a, .clz d a, .popc d a, .extB d a, .extH d a, .extW d a,
        .sel d a b f, .addImm d a k, .mulImm d a k, .andImm d a k, .orImm d a k, .xorImm d a k, .shlImm d a n, .shrImm d a n, .sarImm d a n,
        .minImm d a k, .maxImm d a k, .minuImm d a k, .maxuImm d a k, .li d k, .lih d e, .mcnt d a, .mfirst d a] ∨
      ∃ op, (∀ c, op ≠ .cmp c) ∧ i = .aluWide op d a e) →
    (exec i s = .next t →
      KeepsRegs s t (some d) none ∧ OnlyScalar s t (wordBytes i) ∧ OnlyGroup s t ∧ (∀ a, devByte t a = devByte s a ∧ hostByte t a = hostByte s a)) ∧
    (sbad s a = false → sbad s b = false → ∀ j ∈ [Instr.cmp cc f a b, .cmpImm cc f a k, .aluWide (.cmp cc) f a e], exec j s = .next t →
      KeepsRegs s t none (some f) ∧ OnlyScalar s t (wordBytes j) ∧ OnlyGroup s t ∧ (∀ a, devByte t a = devByte s a ∧ hostByte t a = hostByte s a))

/-- R156, R325, R327: mov from a return queue takes its oldest entry, sign extended, with its poison bit; an empty queue stalls the stream in place. R156: the entry that
a completed word pushes: the value of its lowest lane that completed, and 0 where it ran in no lane. The value that a push carries where its lane has no result is the
model's choice (log entry 35). -/
def Obligations.ReturnQueues : Prop :=
  (∀ (s : State) (d y : Nat),
    (∀ w p r, tabGet [] s.g.lane.y y = (w, p) :: r →
      Completes (.movY d y) s
        (setReg (s.updG (fun x => { x with lane := { x.lane with y := tabPut x.lane.y y r } })) d (w.signExtend 64) p)) ∧
    (tabGet [] s.g.lane.y y = [] → exec (.movY d y) s = .next s.flush)) ∧
  (∀ (s : State) (w : LaneWord) (srcs : List LSrc) (k : Nat) (b : Option Nat) (res : List (Nat × LRes)),
    let y := tabGet [] (laneDone s w srcs (.dst (.y k b)) res).g.lane.y k
    (∀ l v bad fl rest, res = (l, .done [(v, bad)] fl) :: rest → y = tabGet [] s.g.lane.y k ++ [(v, bad)]) ∧
    (res = [] → y = tabGet [] s.g.lane.y k ++ [(0, false)]))

/-- R161: the mask instructions, their effects and their words; m0 reads all ones, a destination m0 is illegal with subcause 5, and a poisoned source of mset takes trap
3. -/
def Obligations.MaskInstructions : Prop :=
  ∀ (s : State) (d m i j a : Nat),
    let put (v : Mask) : State := s.updG (fun x => x.putMask m v)
    s.g.mask 0 = -1 ∧
    (sbad s a = false → Completes (.mset m a) s (put ((sreg s a).truncate 32))) ∧ (sbad s a = true → Traps (.mset m a) s 3 0) ∧
    Completes (.mand m i j) s (put (s.g.mask i &&& s.g.mask j)) ∧ Completes (.mor m i j) s (put (s.g.mask i ||| s.g.mask j)) ∧
    Completes (.mxor m i j) s (put (s.g.mask i ^^^ s.g.mask j)) ∧ Completes (.mnot m i) s (put (~~~(s.g.mask i))) ∧
    Completes (.mcnt d i) s (setReg s d (BitVec.ofNat 64 ((List.range 32).filter (fun l => (s.g.mask i).getLsbD l)).length) false) ∧
    Completes (.mfirst d i) s
      (setReg s d (BitVec.ofNat 64 (((List.range 32).find? (fun l => (s.g.mask i).getLsbD l)).getD 32)) false) ∧
    (m < 8 → i < 8 → j < 8 → d < 64 → a < 64 →
      let word (x y z minor : Nat) : Nat := 0x04000000 + x * 2 ^ 19 + y * 2 ^ 13 + z * 2 ^ 7 + minor
      let writes (w : Nat) (r : Instr) : Prop := decodeTableWord 32 w = if m = 0 then none else some r
      writes (word m a 0 0x28) (.mset m a) ∧ writes (word m i j 0x29) (.mand m i j) ∧ writes (word m i j 0x2A) (.mor m i j) ∧
      writes (word m i j 0x2B) (.mxor m i j) ∧ writes (word m i 0 0x2C) (.mnot m i) ∧
      decodeTableWord 32 (word d i 0 0x2D) = some (.mcnt d i) ∧ decodeTableWord 32 (word d i 0 0x2E) = some (.mfirst d i) ∧
      Dec.decodeScalar (word 0 i j 0x29) 0 = .illegal 5)

/-- R151: where each branch goes. ret and loop take trap 3 on a poisoned register, ret trap 12 on an address that is not a multiple of 4. That loop with s0 branches on
the decremented value is the model's reading (log entry 21). -/
def Obligations.BranchTargets : Prop :=
  ∀ (s : State) (f a d : Nat) (neg : Bool) (disp : BitVec 21) (k : BitVec 13),
    let pc := s.g.pc
    let goes (i : Instr) (t : State) (to_ : DWord) : Prop := exec i s = .next (t.updG (fun x => x.goto to_)).flush
    goes (.br disp) s (pc + 4 * disp.signExtend 64) ∧
    goes (.bc f neg disp) s (if s.g.sr.flag f != neg then pc + 4 * disp.signExtend 64 else pc + 4) ∧
    goes (.call disp) (setReg s 63 (pc + 4) false) (pc + 4 * disp.signExtend 64) ∧
    (sbad s a = false → (sreg s a).toNat % 4 = 0 → goes (.ret a) s (sreg s a)) ∧
    (sbad s a = false → (sreg s a).toNat % 4 ≠ 0 → Traps (.ret a) s 12 0) ∧ (sbad s a = true → Traps (.ret a) s 3 0) ∧
    (sbad s d = false → goes (.loop d k) (setReg s d (sreg s d - 1) false)
      (if sreg s d - 1 ≠ 0 then pc + 4 * k.signExtend 64 else pc + 4)) ∧
    (sbad s d = true → Traps (.loop d k) s 3 0) ∧
    goes .nop s (pc + BitVec.ofNat 64 (wordBytes .nop))

/-- R256, R257, R270, R311: a fence completes once the enqueued lane blocks have ended, what it acquires has come and what it releases has landed; a release from .clus up
commits the team's held stores. R254, R257, R264: an acquire from .dev up drops every copy that the acting group's die keeps of a line with another home, no other die's
and no stored word, and so does an acquire of any scope that reads the completion value of an engine's operation; a store's word changes its own die's copy of the line
and no other; a copy holds the words that the line had at its home when it was taken. R159, R160: lrun enqueues a block with the mask's value now, and waits in place
while four are enqueued; lsync completes once no block is enqueued or running, and waits in place before. The order in which held lines land, and when a die takes a copy,
are the model's choices (log entries 1 and 5), as is the reading of a fence without an order or scope (log entry 26). -/
def Obligations.FencesAndBlocks : Prop :=
  (∀ (s : State) (o : MOrder) (sc : MScope),
    s.g.lanesIdle = true → (ordAcq o = true → acquireOk s sc = true) → (ordRel o = true → releaseOk s sc = true) →
      let t := if ordAcq o then s.acquired sc else s
      Completes (.fence o sc) s (if ordRel o && scWide sc then t.commitMine else t)) ∧
  (∀ (s : State) (sc : MScope) (d ma : Nat) (w : Word) (c : Byte), s.dieOf s.cur < 4 → d < 4 →
    (scDev sc = true → (s.acquired sc).copyWord (s.dieOf s.cur) ma = none ∧
      (d ≠ s.dieOf s.cur → (s.acquired sc).copyWord d ma = s.copyWord d ma)) ∧
    (scDev sc = false → s.acquired sc = s) ∧ (∀ x y, (s.acquired sc).readLoc x = s.readLoc x ∧ (s.acquired sc).viewLoc y x = s.viewLoc y x) ∧
    (∀ e b, e < 4 → (s.copyPut d (.dev ma) w c).copyWord e b =
      if e = d ∧ b / 4 = ma / 4 then (s.copyWord e b).map (fun _ => (w, c)) else s.copyWord e b) ∧
    (∀ b, (s.fillCopy d ma).copyWord d b = if b / 512 = ma / 512 then some (s.mem.read (b / 4 * 4)) else s.copyWord d b) ∧
    (d ≠ homeDie ma → runTurn s (.remoteCopy d ma) = .next (s.fillCopy d ma)) ∧
    (tabFind s.completions (ma / 8) = none → scDev sc = false → s.acquiredFrom sc false [.dev ma] = s) ∧
    (∀ v b, tabFind (s.team s.g.team).held (ma / 4) = none → tabFind s.badCopies (ma / 4) = none → tabFind s.completions (ma / 8) = some v →
      (s.firstRead s.cur (.dev ma)).1 = (v >>> (ma / 4 % 2 * 32)).truncate 32 → (s.acquiredFrom sc false [.dev ma]).copyWord (s.dieOf s.cur) b = none)) ∧
  (∀ (s : State) (m : Nat) (off : Word),
    (s.g.lane.blocks.length < 4 →
      Completes (.lrun m off) s (s.updG (fun x =>
        { x with lane := { x.lane with blocks := x.lane.blocks ++ [{ off := off.toNat, mask := x.mask m, loss := x.lossNext }] }, lossNext := false }))) ∧
    (4 ≤ s.g.lane.blocks.length → exec (.lrun m off) s = .next s.flush) ∧
    (s.g.lane.blocks = [] → s.g.lane.running = false → Completes .lsync s s) ∧
    (s.g.lane.blocks ≠ [] ∨ s.g.lane.running = true → exec .lsync s = .next s.flush))

/-- R152, R153: aset sets a stream from a base and a step operand, with trap 14 on a space or reserved bits that the table does not give and trap 12 on a misaligned base;
astep moves it by a steps, with trap 14 where it is not set. R153 to R155, R376: aload and ldq fill an entry of an operand queue, lane l from base + 4 l times the lane
pitch, or from consecutive words; a full queue stalls the stream in place. ldq takes trap 3 on a poisoned base, trap 14 on an address of 2^56 or more and trap 12 on one
that is not a multiple of 4. -/
def Obligations.OperandStreams : Prop :=
  (∀ (s : State) (n a b : Nat) (ms : Space), sbad s a = false →
    let x := sreg s a
    let y := sreg s b
    let put (st : AStream) : State := s.updG (fun g => { g with lane := { g.lane with a := tabPut g.lane.a n st } })
    (sbad s b = false → streamSpace (fld y 48 3) = some ms → fld y 51 13 = 0 → x.toNat % 4 = 0 →
      Completes (.aset n a b) s (put { base := x, step := y.truncate 32, pitch := fld y 32 16, space := ms })) ∧
    (sbad s b = false → streamSpace (fld y 48 3) = some ms → fld y 51 13 = 0 → x.toNat % 4 ≠ 0 → Traps (.aset n a b) s 12 0) ∧
    (sbad s b = false → (streamSpace (fld y 48 3) = none ∨ fld y 51 13 ≠ 0) → Traps (.aset n a b) s 14 0) ∧
    (∀ st, tabFind s.g.lane.a n = some st →
      Completes (.astep n a) s (put { st with base := st.base + 4 * st.step.signExtend 64 * x })) ∧
    (tabFind s.g.lane.a n = none → Traps (.astep n a) s 14 0)) ∧
  (∀ (s t : State) (q n a : Nat) (k : BitVec 13) (e : List QLane),
    let joins (t : State) : State := t.updG (fun x => { x with lane := { x.lane with q := tabPut x.lane.q q (tabGet [] x.lane.q q ++ [e]) } })
    (∀ st, tabFind s.g.lane.a n = some st → (tabGet [] s.g.lane.q q).length < 4 →
      Gives ((List.range 32).mapM (fun l => portLoad st.space l (st.base + BitVec.ofNat 64 (4 * st.pitch * l)))) s e t →
      Completes (.aload q n) s ((joins t).updG (fun x =>
        { x with lane := { x.lane with a := tabPut x.lane.a n { st with base := st.base + 4 * st.step.signExtend 64 } } }))) ∧
    (tabFind s.g.lane.a n = none → Traps (.aload q n) s 14 0) ∧
    (∀ st, tabFind s.g.lane.a n = some st → 4 ≤ (tabGet [] s.g.lane.q q).length → exec (.aload q n) s = .next s.flush) ∧
    (let ea := sreg s a + k.signExtend 64
     (sbad s a = true → Traps (.ldq q a k) s 3 0) ∧
     (sbad s a = false → (2 ^ 56 ≤ ea.toNat → Traps (.ldq q a k) s 14 0) ∧ (ea.toNat < 2 ^ 56 → ea.toNat % 4 ≠ 0 → Traps (.ldq q a k) s 12 0) ∧
      (ea.toNat < 2 ^ 56 → ea.toNat % 4 = 0 →
        (4 ≤ (tabGet [] s.g.lane.q q).length → exec (.ldq q a k) s = .next s.flush) ∧
        ((tabGet [] s.g.lane.q q).length < 4 → Gives ((List.range 32).mapM (fun l => portLoad .gl l (ea + BitVec.ofNat 64 (4 * l)))) s e t →
          Completes (.ldq q a k) s (joins t))))))

/-- R122, R140: crd reads a register at a level that may read it, and gives the privilege trap below it; the registers that lane blocks write are read once those blocks
have ended, and the sticky flags once the group's matrix operations have too (R330); before, the stream waits in place. The cycle counter, the group's own registers and a
counter of its die are among what it reads. R122, R140: cwr writes a register at a level that may write it; the privilege trap below it and for a register that no level
writes, trap 3 on a poisoned value, trap 14 on a value that is out of range. R12, R122, R123, R140, R291, R329, R330, R400, R403, R405, R406: what a write of a control
register leaves. The register reads as the value with its reserved bits ignored: c.tctl takes bit 0 alone, c.fpen bits 5 to 0, a flag mask loses the bits written as ones,
c.hcause takes bit 16 alone, c.fqcap bits 16 to 0 and c.trlim bits 31 to 0; a port register takes a command and reads as its state. No other control register, no s
register and no byte of memory changes, but the bytes of the owner's record where the register is one of the owner's. What level S may reach is the model's reading (log
entry 7). -/
def Obligations.ControlRegisters : Prop :=
  (∀ (s : State) (d n : Nat),
    (ctlRead n ≤ s.g.level → ctlReady s n = true → Completes (.crd d n) s (setReg s d (s.readCtl n) false)) ∧
    (ctlRead n ≤ s.g.level → ctlReady s n = false → exec (.crd d n) s = .next s.flush) ∧
    (s.g.level < ctlRead n → Traps (.crd d n) s 2 0) ∧
    (s.readCtl 0x000 = BitVec.ofNat 64 (s.ownerOf s.cur) ∧ s.readCtl 0x005 = BitVec.ofNat 64 s.g.idx ∧ s.readCtl 0x007 = s.cycle ∧ s.readCtl 0x011 = s.g.tr.tcause ∧
      s.readCtl 0x108 = s.g.fmask.zeroExtend 64 ∧ s.readCtl 0x10B = s.g.hcause) ∧
    (∀ k, k < 6 → s.readCtl (0x019 + k) = (tabGet 0 s.g.sticky k).zeroExtend 64) ∧
    (∀ k, 0 < k → k < 32 → k ≠ 15 → s.readCtl (0x300 + k) = tabGet 0 (s.die (s.dieOf s.cur)).cnt k)) ∧
  (∀ (s : State) (n a : Nat),
    (ctlWrite n = none → Traps (.cwr n a) s 2 0) ∧
    (∀ l, ctlWrite n = some l → s.g.level < l → Traps (.cwr n a) s 2 0) ∧
    (∀ l, ctlWrite n = some l → l ≤ s.g.level → sbad s a = true → Traps (.cwr n a) s 3 0) ∧
    (∀ l, ctlWrite n = some l → l ≤ s.g.level → sbad s a = false → ctlReady s n = false → exec (.cwr n a) s = .next s.flush) ∧
    (∀ l, ctlWrite n = some l → l ≤ s.g.level → sbad s a = false → ctlReady s n = true →
      (∀ t, s.writeCtl n (sreg s a) = some t → Completes (.cwr n a) s t) ∧ (s.writeCtl n (sreg s a) = none → Traps (.cwr n a) s 14 0))) ∧
  (∀ (s t : State) (n : Nat) (v : DWord), (ctlWrite n).isSome = true → s.writeCtl n v = some t →
    let old := s.readCtl n
    let d := s.dieOf s.cur
    let o := s.ownerOf s.cur
    let own : Prop := n < 0x100 ∨ n = 0x10B ∨ 0x200 ≤ n
    let left : DWord :=
      if n = 0x016 then (old &&& 2) ||| (v &&& 1) else if n = 0x018 then v &&& 0x3F
      else if 0x019 ≤ n ∧ n ≤ 0x01E then old &&& ~~~(v &&& 0xFFFFFFFF)
      else if n = 0x10B then (old &&& ~~~0x10000) ||| (v &&& 0x10000)
      else if n = 0x111 then v &&& 0x1FFFF else if n = 0x218 then v &&& 0xFFFFFFFF else v
    (n < 0x220 ∨ n = 0x241 → t.readCtl n = left) ∧
    (n < 0x210 → 0x200 ≤ n → ∀ k ∈ diesOf (s.die d).pcfg, (t.die k).read n = v) ∧
    (∀ k, k < 16 → n = 0x220 + k →
      let p := tabGet Port.down (s.die d).ports k
      let to_ : Nat := if fld v 8 4 = 1 ∧ (p.st = 0 ∨ p.st = 3 ∨ p.st = 4) then 1 else if fld v 8 4 = 2 then 0 else p.st
      t.readCtl n = Port.reg { p with st := to_ }) ∧
    (own ∨ s.waits = [] → (∀ m, WF.creg m = true → m ≠ n → t.readCtl m = s.readCtl m) ∧ t.g.sr = s.g.sr) ∧
    (own → ∀ a, devByte t a = devByte s a ∧ hostByte t a = hostByte s a) ∧
    (s.waits = [] → ∀ a, ((∀ i, i < 0x70 → s.reserveLoc o (reserveBase + i) ≠ .dev a) → devByte t a = devByte s a) ∧
      ((∀ i c, i < 0x70 → s.reserveLoc o (reserveBase + i) ≠ .host a c) → hostByte t a = hostByte s a)))

/-- R123, R127, R128, R141, R405, R430: trap k takes the trap of cause 6 with argument k: at level U the user trap handler where c.utrap is set and no handler runs, else
an entry of kind 34; at levels H and H2 the owner stops with reason 5; at level S the pc goes to c.svec. R123, R127: what the delivery to a user trap handler leaves: the
trap registers, level U at c.utrap, the queues, streams and paths of the handler empty, and the interrupted ones set aside. What a trap does at level S is the model's
reading (log entry 7). -/
def Obligations.UserTraps : Prop :=
  (∀ (s : State) (k : Nat),
    let ti := scalarTrap s.g.pc (encodeWord (.trap k)) (wordBytes (.trap k)) 6 k
    Traps (.trap k) s 6 k ∧
    (s.g.level = 0 → s.g.utrap ≠ 0 → s.g.tr.tctl.getLsbD 1 = false → s.takeTrap s.cur ti = s.userTrap s.cur ti) ∧
    (s.g.level = 0 → (s.g.utrap = 0 ∨ s.g.tr.tctl.getLsbD 1 = true) → s.takeTrap s.cur ti = s.escalate s.cur ti) ∧
    (s.g.level = 1 ∨ s.g.level = 2 → s.takeTrap s.cur ti = (s.updGroup s.cur (fun x => x.keepMark none)).stopOwner (s.ownerOf s.cur) 5 6 0 (some s.cur)) ∧
    (s.g.level = 3 → (s.takeTrap s.cur ti).g.pc = (s.die (s.dieOf s.cur)).svec ∧ (s.takeTrap s.cur ti).g.tr.tcause = BitVec.ofNat 64 (k * 65536 + 6) ∧
      (s.takeTrap s.cur ti).g.tr.tpc = s.g.pc)) ∧
  (∀ (s : State) (ti : TrapInfo), s.g.level = 0 → s.g.utrap ≠ 0 → s.g.tr.tctl.getLsbD 1 = false → s.matrix = [] →
    let x := (s.takeTrap s.cur ti).g
    x.level = 0 ∧ x.pc = s.g.utrap ∧ x.sr = s.g.sr ∧ x.m = s.g.m ∧ x.utrap = s.g.utrap ∧
    x.tr.tcause = BitVec.ofNat 64 (ti.arg * 65536 + ti.lane.toNat * 128 + ti.cause) ∧ x.tr.tpc = (if ti.lane then ti.pc ||| 1 else ti.pc) ∧
    x.tr.tmask = ti.mask.zeroExtend 64 ∧ x.tr.tinfo = ti.info ∧ x.tr.tctl = 2 ∧
    x.tr.tspc = (if ti.lane then s.g.pc else if ti.cause = 6 then ti.pc + 4 else ti.pc) ∧
    x.lane = LaneCtx.empty ∧ (∀ k l, x.lr.getLatch k l = none) ∧ (∀ n l, x.lr.get n l = s.g.lr.get n l) ∧ (∀ k, x.lr.pred k = s.g.lr.pred k) ∧
    (x.uAside.map (fun a => a.lane)) = some s.g.lane)

/-- R129, R130, R131, R173: an entry to level H from level U: kind and cause in c.hcause with the level it came from, the masks, the record, the save frame, the handler's
address, and the handler's lane stream empty. R128, R129, R131, R430: a trap at level U with no user trap handler, or inside one, enters level H with kind 34: the trap's
cause in the field orig of c.hcause, the trapping lanes and the lanes that have completed the word in the masks, no record, the handler's address; c.tcause, c.tpc,
c.tmask and c.tinfo tell the trap, and c.tspc and c.tctl stay. Frame A's entry block holds the address at which the scalar stream resumes, that of the instruction after
it for trap k, and the return's skip goes past the instruction, or past the lane word. R137, R282, R287 to R290, R404: a translation fault that is taken at once. At level
U or H it takes the lowest free park slot of its die and joins the owner's fault-record queue, and the group enters the next level with kind 32, the record's address and
the masks; the record names the fault. Without a slot the fault waits in place. A full queue stops the owner with reason 4, a fault at level H2 with reason 2, and one
beyond the reserve with reason 3 at level H and 2 at level H2. R287, R288, R369, R429: where the place of a scalar load, store, atomic or raw access, a lane's address, or
a word that is fetched takes a translation fault, the fault is taken, with the instruction not done: for a scalar access and a fetch with no masks and lane 0 of the
record; for a lane word after its other lanes have completed, with the faulting lanes and those that have completed in the masks. Which park slot a fault takes is the
model's choice (log entry 50). What c.dmask and the record hold of the faulting word is the model's reading (log entries 33 and 45). -/
def Obligations.EntryToLevelH : Prop :=
  (∀ (s : State) (kind orig : Nat) (fmask dmask : Mask) (frec : Nat) (pc : DWord) (mark : Option WordMark) (size : Nat),
    s.g.level = 0 → s.g.wait = none → s.g.pendingFault = none → s.matrix = [] → s.cur < serviceGroup 0 →
    let x := (s.enter s.cur kind orig fmask dmask frec pc mark size).g
    let o := s.owner (s.ownerOf s.cur)
    x.level = 1 ∧ x.hcause = BitVec.ofNat 64 (kind + orig * 256) ∧ x.fmask = fmask ∧ x.dmask = dmask ∧ x.frec = BitVec.ofNat 64 frec ∧
    x.sframe = BitVec.ofNat 64 (s.frameVa s.cur 0) ∧ x.sr = s.g.sr ∧ x.lane = LaneCtx.empty ∧ (∀ k l, x.lr.getLatch k l = none) ∧
    x.pc = (if kind = 33 ∨ kind = 35 then o.pvec else if kind = 36 then o.rvec else o.hvec) ∧ (x.hAside.map (fun a => a.lane)) = some s.g.lane) ∧
  (∀ (s : State) (ti : TrapInfo), s.g.level = 0 → (s.g.utrap = 0 ∨ s.g.tr.tctl.getLsbD 1 = true) → s.g.wait = none → s.g.pendingFault = none → s.matrix = [] →
    s.cur < serviceGroup 0 →
    let t := s.takeTrap s.cur ti
    let x := t.g
    let o := s.ownerOf s.cur
    let va := s.frameVa s.cur 0
    let pc : DWord := if ti.lane then s.g.pc else if ti.cause = 6 then ti.pc + 4 else ti.pc
    x.level = 1 ∧ x.hcause = BitVec.ofNat 64 (34 + ti.cause * 256) ∧ x.fmask = ti.mask ∧ x.dmask = ti.done ∧ x.frec = 0 ∧ x.sframe = BitVec.ofNat 64 va ∧
    x.pc = (s.owner o).hvec ∧ x.sr = s.g.sr ∧ x.lane = LaneCtx.empty ∧
    x.tr.tcause = BitVec.ofNat 64 (ti.arg * 65536 + ti.lane.toNat * 128 + ti.cause) ∧ x.tr.tpc = (if ti.lane then ti.pc ||| 1 else ti.pc) ∧
    x.tr.tmask = ti.mask.zeroExtend 64 ∧ x.tr.tinfo = ti.info ∧ x.tr.tspc = s.g.tr.tspc ∧ x.tr.tctl = s.g.tr.tctl ∧
    x.hAside.map (fun a => (a.lane, a.size, a.word, a.level)) = some (s.g.lane, if ti.lane ∨ ti.cause = 6 then 0 else ti.size, ti.mark, 0) ∧
    (s.waits = [] → (∀ n, (tabGet [] s.g.lane.q n).length ≤ 4 ∧ (∀ e ∈ tabGet [] s.g.lane.q n, e.length = 32) ∧ (tabGet [] s.g.lane.y n).length ≤ 4) →
      ∀ ma, s.reserveLoc o (va + 8) = .dev ma → t.getReserve64 o (va + 8) = pc)) ∧
  (∀ (s : State) (f : FaultInfo) (p : Nat),
    let o := s.ownerOf s.cur
    let d := s.dieOf s.cur
    let w := s.owner o
    let t := s.takeFault s.cur f
    let x := t.g
    let kept (t : State) : State := t.updG (fun x => x.keepMark f.mark)
    (s.g.level = 2 → t = (kept (s.count d o 26 1)).stopOwner o 2 f.kind f.va (some s.cur)) ∧
    (s.g.level ≠ 2 → s.freePark d o = none → t = s.updG (fun x => { x with pendingFault := some { f with since := some (f.since.getD s.cycle) } })) ∧
    (s.g.level ≠ 2 → s.freePark d o = some p →
      d * 4096 ≤ p ∧ p < (d + 1) * 4096 ∧ tabFind s.parks p = none ∧ (∀ q, d * 4096 ≤ q → q < p → tabFind s.parks q ≠ none) ∧
      (s.parks.filter (fun e => e.1 / 4096 == d && e.2.owner == o)).length < 1024) ∧
    (s.g.level = 0 → s.freePark d o = some p → w.fqtail - w.fqhead ≠ w.fqcap → s.g.wait = none → s.matrix = [] → s.cur < serviceGroup 0 →
      let rec_ := w.fqbase.toNat + 512 * (w.fqtail.toNat % w.fqcap.toNat)
      x.level = 1 ∧ x.hcause = 32 ∧ x.fmask = f.fmask ∧ x.dmask = f.dmask ∧ x.frec = BitVec.ofNat 64 rec_ ∧ x.sframe = BitVec.ofNat 64 (s.frameVa s.cur 0) ∧
      x.pc = w.hvec ∧ x.sr = s.g.sr ∧ x.slotsHeld = (0, p) :: s.g.slotsHeld ∧ x.pendingFault = none ∧ x.lane = LaneCtx.empty ∧
      x.hAside.map (fun a => (a.lane, a.size, a.word, a.level)) = some (s.g.lane, f.size, f.mark, 0) ∧
      (s.waits = [] → (t.owner o).fqtail = w.fqtail + 1 ∧ (t.owner o).records = w.records + 1 ∧ tabFind t.parks p = some { owner := o, pages := f.pages 0 })) ∧
    (s.g.level = 0 ∨ s.g.level = 1 → s.waits = [] → w.fqbase.toNat % 512 = 0 → (∀ i, i < 512 → ∃ ma, s.reserveLoc o (w.fqbase.toNat + 512 * (w.fqtail.toNat % w.fqcap.toNat) + i) = .dev ma) →
      let u := s.putFaultRecord s.cur f p
      let word (i : Nat) : DWord := u.2.getReserve64 o (u.1 + 8 * i)
      u.1 = w.fqbase.toNat + 512 * (w.fqtail.toNat % w.fqcap.toNat) ∧ word 0 = BitVec.ofNat 64 (w.records + 1) ∧
      (f.level ≤ s.g.level → word 1 =
        BitVec.ofNat 64 (f.source + f.kind * 2 ^ 8 + f.access * 2 ^ 16 + s.g.level * 2 ^ 24 + f.code % 2 ^ 32 * 2 ^ 32)) ∧
      word 2 = f.dmask ++ f.fmask ∧ word 3 = f.instr ∧ word 5 = f.since.getD s.cycle ∧ word 6 = BitVec.ofNat 64 (p % 4096 + f.width * 2 ^ 16) ∧
      ∀ l k va, l < 32 → f.lanes.find? (fun e => e.1 == l) = some (l, k, va) → word (32 + l) = va) ∧
    (s.g.level = 0 ∨ s.g.level = 1 → s.freePark d o = some p → w.fqtail - w.fqhead = w.fqcap →
      let c : State := (s.count d o 27 (s.cycle - f.since.getD s.cycle).toNat)
      t = (kept (({ c with parks := tabPut s.parks p { owner := o, pages := f.pages s.g.level } }.updG
        (fun x => { x with pendingFault := none, slotsHeld := (x.level, p) :: x.slotsHeld })).count d o 26 1)).stopOwner o 4 f.kind f.va (some s.cur)) ∧
    (s.g.level = 1 → s.takeReserve s.cur f = (kept (s.count d o 26 1)).stopOwner o 3 7 f.va (some s.cur)) ∧
    (s.g.level = 2 → s.takeReserve s.cur f = (kept (s.count d o 26 1)).stopOwner o 2 7 f.va (some s.cur))) ∧
  (∀ (s t : State) (wd : MWidth) (o : MOrder) (sc : MScope) (ms : Space) (op : AOp) (d a b c : Nat) (k : BitVec 13) (e : Word) (z : BitVec 20) (f : FaultInfo),
    let faults (i : Instr) (ms : Space) (ea : DWord) (kind : Nat) (wd : MWidth) (types : Nat → Bool) : Prop :=
      (place ms ea kind (widthBytes wd) types s = .error (.tfault f) t → exec i s = .next (t.takeFault t.cur { f with size := wordBytes i }).flush) ∧
      (place ms ea kind (widthBytes wd) types s = .error (.reserve f) t → exec i s = .next (t.takeReserve t.cur f).flush)
    (sbad s a = false →
      faults (.ldB d a k) .gl (sreg s a + k.signExtend 64) 0 .b (typesOf .b) ∧ faults (.ldH d a k) .gl (sreg s a + k.signExtend 64) 0 .h (typesOf .h) ∧
      faults (.ldW d a k) .gl (sreg s a + k.signExtend 64) 0 .w (typesOf .w) ∧ faults (.ldD d a k) .gl (sreg s a + k.signExtend 64) 0 .d (typesOf .d) ∧
      faults (.stB d a k) .gl (sreg s a + k.signExtend 64) 1 .b (typesOf .b) ∧ faults (.stH d a k) .gl (sreg s a + k.signExtend 64) 1 .h (typesOf .h) ∧
      faults (.stW d a k) .gl (sreg s a + k.signExtend 64) 1 .w (typesOf .w) ∧ faults (.stD d a k) .gl (sreg s a + k.signExtend 64) 1 .d (typesOf .d) ∧
      faults (.ldX wd o sc ms d a e) ms (sreg s a + e.signExtend 64) 0 wd (typesOf wd) ∧
      faults (.stX wd o sc ms d a e) ms (sreg s a + e.signExtend 64) 1 wd (typesOf wd) ∧
      faults (.amo op wd o sc ms d a b c z) ms (sreg s a + z.signExtend 64) 2 wd typesAtomic ∧
      (s.g.level = 1 ∨ s.g.level = 2 → (sreg s a + k.signExtend 64).toNat % 4 = 0 →
        faults (.ldk d a k) .gl (sreg s a + k.signExtend 64) 0 .w typesDevice ∧ faults (.stk d a k) .gl (sreg s a + k.signExtend 64) 1 .w typesDevice)) ∧
    (∀ kind width types n code, (s.reach s.cur 0 ms (sreg s a).toNat kind width types) = (.fault n code, t) →
      place ms (sreg s a) kind width types s = .error (.tfault
        { level := 0, source := 1, kind := n, access := kind, code := code, fmask := 0, dmask := 0,
          instr := s.g.pc, width := width, lanes := [(0, n, sreg s a)], mark := none, size := 0, since := none }) t) ∧
    (∀ (bits : Nat) (w : LaneWord) (qs : List Nat) (dst : LaneDst) (source access width : Nat) (res : List (Nat × LRes)), (∀ r ∈ res, enabled s.g.fpen dst r.2 = r.2) → w.redo = none →
      res.any (fun r => r.2.isFault) = true →
      let done := (w.active &&& ~~~w.run) ||| lanesWith res LRes.isDone
      let kept : State := ({ s with freeIdx := s.freeIdx + 1 }).updG (fun x => (x.takeResults dst (res.filter (fun r => r.2.isDone))).endReads w.slot)
      let lanes := res.filterMap (fun r => match r.2 with | .fault n _ va => some (r.1, n, va) | .beyond va => some (r.1, 7, va) | .done _ _ => none | .trap _ _ => none | .hold => none)
      ∃ g : FaultInfo, g.level = 0 ∧ g.fmask = lanesWith res LRes.isFault ∧ g.dmask = done ∧ g.lanes = lanes ∧ g.instr = w.path.pc ||| 1 ∧ g.source = source ∧ g.access = access ∧ g.width = width ∧
        (∀ l n va rest, lanes = (l, n, va) :: rest → g.kind = n) ∧ g.size = 0 ∧
        g.mark = some { path := w.path.mask, active := w.active, done := done, push := pushValue (Config.freeWord s.freeIdx) none res } ∧
        s.laneEnd bits w qs dst source access width res = if lanes.any (fun e => e.2.1 == 7) then kept.takeReserve s.cur g else kept.takeFault s.cur g) ∧
    (∀ n code, s.mayIssue s.cur = true →
      let u := s.issueFrom s.cur scalarStream
      u.reach s.cur 0 .gl s.g.pc.toNat 3 4 typesNarrow = (.fault n code, t) →
      let g : FaultInfo :=
        { level := 0, source := 3, kind := n, access := 3, code := code, fmask := 0, dmask := 0, instr := s.g.pc, width := 4,
          lanes := [(0, n, s.g.pc)], mark := none, size := 4, since := none }
      issueScalar s s.cur = u.missed (.next (t.takeFault t.cur g).flush)) ∧
    (∀ n code y path t0, s.mayIssueLane s.cur y = true → tabFind s.g.lane.slots y = some (path, t0) → path.redo = none →
      let u := s.issueFrom s.cur y
      u.reach s.cur 0 .gl path.pc.toNat 3 4 typesNarrow = (.fault n code, t) →
      let g : FaultInfo :=
        { level := 0, source := 4, kind := n, access := 3, code := code, fmask := 0, dmask := 0, instr := path.pc ||| 1, width := 12,
          lanes := [(0, n, path.pc)], mark := some { path := path.mask, active := path.mask, done := 0, push := none, unread := true }, size := 0, since := none }
      issueLane s s.cur y = u.missed (.next (t.takeFault t.cur g).flush)))

/-- R142: tret where c.tctl[1] is set, once its lane blocks have ended, restores what was set aside, goes on at c.tspc and clears c.tctl; the lane word that trapped is
executed again for the lanes that have not completed it, or skipped. Where c.tctl[1] is clear it takes trap 15. R75, R143, R144, R145: the returns of levels H and H2.
hret restores the level below. pdone ends a pre-empt handler: the team's stores commit, frame A's entry block has kind 3, and the group is cooperatively SAVED. ostop
stops the owner with reason 1 and its argument. At level U each takes the privilege trap. R131, R143: what hret leaves. The scalar stream goes on at the address in the
entry block, past the instruction whose size the entry recorded where c.hcause[16] is set in an entry of kind 32 or 34; the scalar registers with their poison, the flags,
masks, predicates, trap registers, c.fpen and the flag masks return from the block; the vector registers stay, and the latches are lost. The lane word that the entry
interrupted is executed again for the lanes that have not completed it, or skipped. That hret from the pre-empt handler enters it again while its budget runs, and what a
returned-to operation of the matrix engine does, are the model's readings (log entries 22 and 44), as are the traps of level S and a tret with nothing set aside (log
entry 7). -/
def Obligations.TrapReturns : Prop :=
  (∀ (s : State),
    let a := s.g.uAside.getD (s.g.aside none 0 0)
    let x := s.g.returnUser a
    (s.g.tr.tctl.getLsbD 1 = true → s.g.lanesIdle = true → exec .tret s = .next ((s.retag s.cur s.g.tok a.tok).updG (fun x => x.returnUser a)).flush) ∧
    (s.g.tr.tctl.getLsbD 1 = true → s.g.lanesIdle = false → exec .tret s = .next s.flush) ∧
    (s.g.tr.tctl.getLsbD 1 = false → Traps .tret s 15 0) ∧
    (x.pc = s.g.tr.tspc ∧ x.tr.tctl = 0 ∧ x.tr.tcause = s.g.tr.tcause ∧ x.sr = s.g.sr ∧ x.level = s.g.level ∧ x.arrival = a.arrival ∧ x.k = a.k ∧ x.pending = a.pending ∧
      x.uAside = none ∧ (∀ k l, x.lr.getLatch k l = none) ∧ (∀ n l, x.lr.get n l = s.g.lr.get n l) ∧ (a.word = none → x.lane = a.lane)) ∧
    (∀ m z y k, a.word = some m → tabFind a.lane.slots z = some (y, k) →
      tabFind x.lane.slots z = some (if y.mask = m.path then
        { y with redo := some { active := m.active, lanes := m.active &&& ~~~m.done, skip := !(s.g.tr.tmask != 0 && s.g.tr.tctl.getLsbD 0), done := m.push, unread := m.unread } }
        else y, k)) ∧
    x.lane.blocks = a.lane.blocks ∧ x.lane.running = a.lane.running ∧ x.lane.q = a.lane.q ∧ x.lane.y = a.lane.y ∧ x.lane.a = a.lane.a ∧
    ((∀ e ∈ a.lane.spill, e.2.park = none) → x.lane.spill = a.lane.spill)) ∧
  (∀ (s : State) (a : Nat),
    let o := s.ownerOf s.cur
    let va := s.frameVa s.cur 0
    let u := (released s .dev).endPreempt s.cur
    (s.g.level = 0 → Traps .hret s 2 0 ∧ Traps .pdone s 2 0 ∧ Traps (.ostop a) s 2 0) ∧
    (s.g.level = 1 ∨ s.g.level = 2 → s.g.lanesIdle = true → exec .hret s = .next (s.returnLevel s.cur).flush) ∧
    (s.g.level = 1 ∨ s.g.level = 2 → s.g.lanesIdle = false → exec .hret s = .next s.flush) ∧
    (∀ b, s.g.preempt = none → (s.g.level = 1 ∧ s.g.hAside = some b ∨ s.g.level = 2 ∧ s.g.h2Aside = some b) →
      (s.returnLevel s.cur).g.level = b.level ∧ (s.returnLevel s.cur).g.hcause = b.hcause ∧ (s.returnLevel s.cur).g.frec = b.frec ∧
      (s.returnLevel s.cur).g.sframe = b.sframe) ∧
    (s.g.level = 1 → (fld s.g.hcause 0 6 = 33 ∨ fld s.g.hcause 0 6 = 35) → s.g.lanesIdle = true → releaseOk s .dev = true →
      exec .pdone s = .next (u.afterSave (released s .dev).g.team).flush ∧ (u.group s.cur).gstate = .saved ∧ (u.group s.cur).coop = true ∧
      (s.waits = [] → ((released s .dev).team (released s .dev).g.team).held = [] ∧ ∀ ma, (released s .dev).reserveLoc o va = .dev ma → u.getReserve64 o va = 3)) ∧
    (s.g.level = 1 ∨ s.g.level = 2 → ¬(s.g.level = 1 ∧ (fld s.g.hcause 0 6 = 33 ∨ fld s.g.hcause 0 6 = 35)) → Traps .pdone s 15 0) ∧
    (s.g.level = 1 ∨ s.g.level = 2 → sbad s a = true → Traps (.ostop a) s 3 0) ∧
    (s.g.level = 1 ∨ s.g.level = 2 → sbad s a = false →
      exec (.ostop a) s =
        .next ((s.updG (fun x => x.advance 4)).stopOwner o 1 ((sreg s a).toNat % 2 ^ 32) 0 (some s.cur)).flush)) ∧
  (∀ (s : State) (b : Aside), s.g.preempt = none → s.g.replies = [] → (s.g.level = 1 ∧ s.g.hAside = some b ∨ s.g.level = 2 ∧ s.g.h2Aside = some b) →
    let place_ (off : Nat) : Loc := s.reserveLoc (s.ownerOf s.cur) (s.g.sframe.toNat + off)
    let word (off : Nat) : Word := (s.viewLoc s.g.team (place_ off)).1
    let hurt (off : Nat) : Bool := !codeOk (word off) (s.viewLoc s.g.team (place_ off)).2 (place_ off).off
    let dword (off : Nat) : DWord := word (off + 4) ++ word off
    let skip : Bool := s.g.hcause.getLsbD 16 && (fld s.g.hcause 0 6 == 32 || fld s.g.hcause 0 6 == 34)
    let x := (s.returnLevel s.cur).g
    x.pc = dword 0x08 + (if skip then BitVec.ofNat 64 b.size else 0) ∧
    (∀ n, 0 < n → n < 64 → x.sr.get n = dword (0x200 + 8 * n) ∧
      x.sr.bad n = ((dword 0x400).getLsbD n || hurt (0x200 + 8 * n) || hurt (0x204 + 8 * n))) ∧
    (∀ n, n < 8 → x.sr.flag n = (dword 0x408).getLsbD (8 * n)) ∧
    (∀ n, 0 < n → n < 8 → x.mask n = word (0x410 + 4 * n) ∧ x.lr.pred n = word (0x430 + 4 * n)) ∧
    x.tr.tcause = dword 0x40 &&& 0xFFFF00BF ∧ x.tr.tpc = dword 0x48 ∧ x.tr.tinfo = dword 0x50 ∧ x.tr.tspc = dword 0x58 ∧
    x.tr.tmask = dword 0x60 &&& 0xFFFFFFFF ∧ x.tr.tctl = dword 0x68 &&& 3 ∧
    x.fpen = dword 0x1740 &&& 0x3F ∧ (∀ n, n < 6 → tabGet 0 x.sticky n = word (0x1748 + 8 * n)) ∧
    (∀ n l, x.lr.get n l = s.g.lr.get n l) ∧ (∀ n l, x.lr.getLatch n l = none) ∧
    (∀ m z y k, b.word = some m → tabFind x.lane.slots z = some (y, k) → y.mask = m.path →
      y.redo = some { active := m.active, lanes := m.active &&& ~~~m.done, skip := skip, done := m.push, unread := m.unread }))

/-- R238, R269, R369, R373, R375, R381: a scalar access at an address that is not a multiple of its width takes trap 12, in the global space before it is translated; a
global address of 2^56 or more takes trap 14, and so does an address outside the range of its space, before its alignment is looked at. R75, R292, R300, R301, R411, R414:
the instructions of the handlers take the privilege trap at level U, those of the paging chapter outside levels H and H2, and those of level S below level S. R113, R114,
R116, R237, R239, R271, R278 to R280, R284, R285, R369, R370, R409: what a translation gives. A region with no routine faults with kind 4, a walk error with kind 3 and
its subcode, a result with valid clear with kind 1 and its code, one that breaks the layout with kind 3 and subcode 5; an access that its permission bits do not allow
faults with kind 2, and one to a frame that is ABSENT or at or above Frames with kind 6; any other reaches its place, by the type of its frame and, where the frame is
moving, by its line, and its result joins the caches. Level U faults with kind 5 in the reserve window, and the other levels reach the frames of the reserve. Below level
S an access takes trap 14 on an address of 2^56 or more, then trap 12 where it is misaligned, then the privilege trap where it would write the records of reserve frame 0,
and trap 13 on a type of memory that it does not reach. That level S takes trap 2 for the instructions of levels H and H2, and that its addresses are machine addresses,
are the model's readings (log entry 7); the host's kinds of access, which R279 does not name, pass no permission check by its reading (log entry 12), and what a place
outside a partition's boundary gives is its reading and choice (log entry 52). -/
def Obligations.RefusedAccesses : Prop :=
  (∀ (s : State) (d a b c : Nat) (k : BitVec 13) (e : Word) (z : BitVec 20) (op : AOp) (wd : MWidth) (o : MOrder) (sc : MScope) (ms : Space), sbad s a = false → s.g.level ≠ 3 →
    let off (i : Instr) (ms : Space) (wd : MWidth) (ea : DWord) : Prop :=
      (ms = .gl → (ea.toNat < 2 ^ 56 → ea.toNat % widthBytes wd ≠ 0 → Traps i s 12 0) ∧ (2 ^ 56 ≤ ea.toNat → Traps i s 14 0)) ∧
      (ms ≠ .gl → (∀ l, s.spacePlace s.cur 0 ms ea.toNat = some l → ea.toNat % widthBytes wd ≠ 0 → Traps i s 12 0) ∧
        (s.spacePlace s.cur 0 ms ea.toNat = none → Traps i s 14 0))
    off (.ldB d a k) .gl .b (sreg s a + k.signExtend 64) ∧ off (.ldH d a k) .gl .h (sreg s a + k.signExtend 64) ∧
    off (.ldW d a k) .gl .w (sreg s a + k.signExtend 64) ∧ off (.ldD d a k) .gl .d (sreg s a + k.signExtend 64) ∧
    off (.stB d a k) .gl .b (sreg s a + k.signExtend 64) ∧ off (.stH d a k) .gl .h (sreg s a + k.signExtend 64) ∧
    off (.stW d a k) .gl .w (sreg s a + k.signExtend 64) ∧ off (.stD d a k) .gl .d (sreg s a + k.signExtend 64) ∧
    off (.ldX wd o sc ms d a e) ms wd (sreg s a + e.signExtend 64) ∧ off (.stX wd o sc ms d a e) ms wd (sreg s a + e.signExtend 64) ∧
    off (.amo op wd o sc ms d a b c z) ms wd (sreg s a + z.signExtend 64)) ∧
  (∀ (s : State) (d a b : Nat) (k : BitVec 13),
    (s.g.level = 0 → Traps .hret s 2 0 ∧ Traps .pdone s 2 0 ∧ Traps (.ostop a) s 2 0) ∧
    (s.g.level ≠ 1 → s.g.level ≠ 2 → ∀ i ∈ [Instr.tinv a b, .replay, .fgrow a b, .frel a b, .ckinj a b, .ldk d a k, .stk d a k], Traps i s 2 0) ∧
    (s.g.level ≠ 3 → Traps (.pset a b) s 2 0 ∧ Traps (.fxfer a b) s 2 0)) ∧
  (∀ (s s' : State) (us : List Nat) (o va kind lvl ofi off ty code align : Nat) (res : DWord) (l : Loc) (types : Nat → Bool) (mv : Move),
    let n := fld res 56 5
    let frame := fld res 16 26 + va / 65536 % 2 ^ n
    let may : Bool := (match kind with | 0 => res.getLsbD 0 | 1 => res.getLsbD 1 | 2 => res.getLsbD 0 && res.getLsbD 1 | _ => res.getLsbD 3) && (lvl != 0 || res.getLsbD 2)
    let laid : Prop := fld res 61 2 = 0 ∧ fld res 42 14 = 0 ∧ fld res 4 12 = 0 ∧ n ≤ 14 ∧ fld res 16 26 % 2 ^ n = 0 ∧ fld res 16 26 + 2 ^ n ≤ (s.owner o).frames
    let given : XRes := if may = false then .fault 2 0 else match s.ownerLoc o frame (va % 65536) with
      | none => .fault 6 0
      | some (l, ty) => .ok l ty frame (va % 65536)
    let ends (e : WalkEnd) : XRes × State := s.endWalk us o va kind lvl e
    (ends (.error 0) = (.fault 4 0, s) ∧ (code ≠ 0 → ends (.error code) = (.fault 3 code, s)) ∧
      (res.getLsbD 63 = false → ends (.result res) = (.fault 1 (fld res 0 32), s)) ∧
      (res.getLsbD 63 = true → ¬laid → ends (.result res) = (.fault 3 5, s)) ∧
      (res.getLsbD 63 = true → laid → kind < 4 → (ends (.result res)).1 = given ∧
        (∀ l ty, given = .ok l ty frame (va % 65536) → ∀ u ∈ us, ((ends (.result res)).2.tlbFind [u] o (va / 65536)).map (fun e => e.res) = some res)) ∧
      ((s.owner o).region[va / 2 ^ 48]? = none → s.runWalk o va kind lvl = (.error 0, 0, s))) ∧
    (s.direct o va lvl = none → ∀ e, s.tlbFind us o (va / 65536) = some e → e.res = res → kind < 4 → s.xlate us o va kind lvl = (given, s)) ∧
    (lvl ≠ 3 → va < 2 ^ 56 → inReserve va = false → s.direct o va lvl = none) ∧
    (lvl ≠ 3 → va < 2 ^ 56 → inReserve va = true →
      let i := (va - reserveBase) / 65536
      (lvl = 0 → s.xlate us o va kind lvl = (.fault 5 0, s)) ∧
      (lvl ≠ 0 → (s.owner o).reserve ≤ i → s.xlate us o va kind lvl = (.beyond, s)) ∧
      (lvl ≠ 0 → i < (s.owner o).reserve → s.xlate us o va kind lvl =
        (match s.ownerLoc o i (va % 65536) with | none => .fault 6 0 | some (l, ty) => .ok l ty i (va % 65536), s))) ∧
    (lvl = 3 → s.xlate us o va kind lvl = (if va < 2 ^ 48 then .ok (s.machinePlace (s.dieOf s.cur) va) 0 0 (va % 65536) else .range, s)) ∧
    (let e := tabGet FEntry.absent (s.owner o).fmap ofi
     let dev (ma : Nat) : Loc := if 2 ^ 40 ≤ ma ∨ (s.die (homeDie ma)).nbnd.testBit ((diesOf (s.owner o).dies).headD 0) = true then .dev ma else .closed ma false
     ((s.owner o).frames ≤ ofi ∨ e.st = 0 → s.ownerLoc o ofi off = none) ∧
     (ofi < (s.owner o).frames → e.st = 1 →
       (e.ty ≤ 1 → s.ownerLoc o ofi off = some (dev (e.frame * 65536 + off), e.ty)) ∧
       (e.ty = 2 → s.ownerLoc o ofi off = some (.host (e.frame * 65536 + off) true, 2)) ∧ (e.ty = 3 → s.ownerLoc o ofi off = some (.host (e.frame * 65536 + off) false, 3)) ∧
       (e.ty = 4 → s.ownerLoc o ofi off = some (.window e.frame off, 4)) ∧ (e.ty = 5 → s.ownerLoc o ofi off = some (.regs e.frame off, 5))) ∧
     (ofi < (s.owner o).frames → e.st = 2 → e.ty ≤ 1 → tabFind s.moves e.move = some mv →
       s.ownerLoc o ofi off = some (dev ((if off / 512 ∈ mv.moved then mv.target else mv.source) * 65536 + off), e.ty))) ∧
    (let g := s.cur
     let reach := s.reachGlobal g va kind align types
     let x := s.xlate (s.caches g) (s.ownerOf g) va kind s.g.level
     let stores : Prop := kind = 1 ∨ kind = 2
     s.g.level ≠ 3 →
      (2 ^ 56 ≤ va → reach = (.trap 14, s)) ∧ (va < 2 ^ 56 → va % align ≠ 0 → reach = (.trap 12, s)) ∧
      (va < 2 ^ 56 → va % align = 0 →
        (stores → reserveBase ≤ va → va < reserveBase + 0x1200 → reach = (.trap 2, s)) ∧
        ((stores → va < reserveBase ∨ reserveBase + 0x1200 ≤ va) →
          (∀ k c, x = (.fault k c, s') → reach = (.fault k c, s')) ∧ (x = (.beyond, s') → reach = (.beyond, s')) ∧
          (x = (.ok l ty ofi off, s') → stores → ofi = 0 → off < 0x1200 → reach = (.trap 2, s')) ∧
          (x = (.ok l ty ofi off, s') → ¬(stores ∧ ofi = 0 ∧ off < 0x1200) → types ty = false → reach = (.trap 13, s')) ∧
          (x = (.ok l ty ofi off, s') → ¬(stores ∧ ofi = 0 ∧ off < 0x1200) → types ty = true → (s'.owner (s.ownerOf g)).memLeft ≠ 0 →
            reach = (.ok l ty, s'.noteHost (s.dieOf g) l kind))))) ∧
    (ty ≤ 5 → (typesOf .w ty = true ↔ ty ≠ 4) ∧ (typesOf .d ty = true ↔ ty ≠ 4) ∧ (typesOf .b ty = true ↔ ty ≤ 3) ∧ (typesOf .h ty = true ↔ ty ≤ 3) ∧ (typesLane ty = true ↔ ty ≤ 3) ∧
      (typesAtomic ty = true ↔ ty ≤ 2) ∧ (typesNarrow ty = true ↔ ty ≤ 3)))

/-- R269, R369, R374: a scalar load whose place is reached and whose order waits for nothing sets its destination to the value and poison bit loaded. A poisoned base
takes trap 3. R372, R374 and R10: the value a load takes from a place whose words are intact: the bytes of its width from the lowest address up, zero extended, not
poisoned. The byte offset that keys a code in each space, and the zeros of register space, are the model's readings (log entries 9 and 13); memory that nothing has
written reads as the model's choice (log entry 3). -/
def Obligations.ScalarLoads : Prop :=
  (∀ (s s1 s2 s3 : State) (wd : MWidth) (o : MOrder) (sc : MScope) (ms : Space) (d a : Nat) (k : BitVec 13) (e : Word) (l : Loc) (ty : Nat) (v : DWord)
    (p : Bool),
    let load (i : Instr) (wd : MWidth) (o : MOrder) (sc : MScope) (ms : Space) (k : DWord) : Prop :=
      (sbad s a = true → Traps i s 3 0) ∧
      (sbad s a = false → Gives (place ms (sreg s a + k) 0 (widthBytes wd) (typesOf wd)) s (l, ty) s1 →
        (ordAcq o = true → acquireOk s1 sc = true) → Gives (if scRmt sc then promote l else pure ()) s1 () s2 →
        Gives (loadAt 1 l wd) s2 (v, p) s3 → Completes i s (setReg (if ordAcq o then s3.acquiredFrom sc false [l] else s3) d v p))
    load (.ldB d a k) .b .rlx .none .gl (k.signExtend 64) ∧ load (.ldH d a k) .h .rlx .none .gl (k.signExtend 64) ∧
    load (.ldW d a k) .w .rlx .none .gl (k.signExtend 64) ∧ load (.ldD d a k) .d .rlx .none .gl (k.signExtend 64) ∧
    load (.ldX wd o sc ms d a e) wd o sc ms (e.signExtend 64)) ∧
  (∀ (s : State) (src : Nat) (l : Loc),
    let word (l : Loc) : Word := (s.firstRead s.cur l.word).1
    let ok (l : Loc) : Bool := codeOk (word l) (s.firstRead s.cur l.word).2 l.word.off
    ok l = true →
      loadAt src l .b s = .ok (((word l >>> (8 * l.byte)).truncate 8 : BitVec 8).zeroExtend 64, false) s ∧
      (l.byte % 2 = 0 → loadAt src l .h s = .ok (((word l >>> (8 * l.byte)).truncate 16 : BitVec 16).zeroExtend 64, false) s) ∧
      loadAt src l .w s = .ok ((word l).zeroExtend 64, false) s ∧
      (ok (l.plus 4) = true → loadAt src l .d s = .ok (word (l.plus 4) ++ word l, false) s))

/-- R260, R269, R369, R375: a scalar store whose place is reached and whose order waits for nothing stores its register, with the register's poison, at the place; a
release from .clus up commits the team first and stores at the home, a narrower one is recorded on its line. A poisoned base takes trap 3. When a die takes a copy is the
model's choice (log entry 5), and the keys of codes are its reading (log entry 9). -/
def Obligations.ScalarStores : Prop :=
  ∀ (s s1 s3 : State) (wd : MWidth) (o : MOrder) (sc : MScope) (ms : Space) (d a : Nat) (k : BitVec 13) (e : Word) (l : Loc) (ty : Nat),
    let store (i : Instr) (wd : MWidth) (o : MOrder) (sc : MScope) (ms : Space) (k : DWord) : Prop :=
      (sbad s a = true → Traps i s 3 0) ∧
      (sbad s a = false → Gives (place ms (sreg s a + k) 1 (widthBytes wd) (typesOf wd)) s (l, ty) s1 → (ordRel o = true → releaseOk s1 sc = true) →
        Gives (storeAt 1 (ordRel o && scWide sc) l wd (sreg s1 d) (sbad s1 d)) (if ordRel o then released s1 sc else s1) () s3 →
        Completes i s (if ordRel o && !scWide sc then s3.noteRelease l else s3))
    store (.stB d a k) .b .rlx .none .gl (k.signExtend 64) ∧ store (.stH d a k) .h .rlx .none .gl (k.signExtend 64) ∧
    store (.stW d a k) .w .rlx .none .gl (k.signExtend 64) ∧ store (.stD d a k) .d .rlx .none .gl (k.signExtend 64) ∧
    store (.stX wd o sc ms d a e) wd o sc ms (e.signExtend 64)

/-- The frame of loads (R374, R378): reaching a place and loading from it leaves every stored word, every held word, every group's registers and host memory as they were.
The frame of held stores (R210, R375, R379): storing words at distinct places in device memory, where the team's buffer has room, changes for the team exactly those
words; committed memory and every group are as before, and no other team sees a change. R210, R375: the frame of st.w to device memory below level S, where the team's
buffer has room: the four bytes at the place read as the register's low word for the storing team, every other byte reads as before for it, and the committed memory, the
registers and every other group are as before. The bytes are read through the model's own memory, with its choices (log entries 3 and 5). -/
def Obligations.MemoryFrames : Prop :=
  (∀ (s s1 s2 : State) (ms : Space) (ea : DWord) (n kind width src : Nat) (types : Nat → Bool) (l : Loc) (ty : Nat) (wd : MWidth) (v : DWord) (p : Bool),
    (Gives (place ms ea kind width types) s (l, ty) s1 ∨ (∃ a k, Gives (lanePlace ms a n k kind width types) s (.ok l) s1)) →
    Gives (loadAt src l wd) s1 (v, p) s2 →
    s2.mem = s.mem ∧ s2.hostMem = s.hostMem ∧ s2.teams = s.teams ∧ s2.groups = s.groups ∧ s2.badCopies = s.badCopies ∧ s2.remote = s.remote ∧
      (∀ t a, viewByte s2 t a = viewByte s t a)) ∧
  (∀ (s : State) (b : List (Nat × Word × Byte)), s.g.level ≠ 3 → (b.map Prod.fst).Nodup → (∀ e ∈ b, e.1 % 4 = 0) →
    (sectorsOf (s.team s.g.team).held).length + b.length ≤ 2048 →
    let t := s.putWords false (b.map (fun e => (.dev e.1, e.2)))
    (∀ e ∈ b, t.viewLoc s.g.team (.dev e.1) = e.2) ∧
    (∀ a, (∀ e ∈ b, a / 4 ≠ e.1 / 4) → t.viewLoc s.g.team (.dev a) = s.viewLoc s.g.team (.dev a)) ∧
    (∀ u a, u ≠ s.g.team → t.viewLoc u (.dev a) = s.viewLoc u (.dev a)) ∧ t = { s with teams := t.teams }) ∧
  (∀ (s s1 : State) (d a : Nat) (k : BitVec 13) (ma ty : Nat),
    sbad s a = false → Gives (place .gl (sreg s a + k.signExtend 64) 1 4 (typesOf .w)) s (.dev ma, ty) s1 → ma % 4 = 0 → s1.evs = [] →
    s1.g.level ≠ 3 → (sectorsOf (s1.team s1.g.team).held).length < 2048 →
    ∃ t, exec (.stW d a k) s = .next t ∧
      (∀ i, i < 4 → viewByte t s1.g.team (ma + i) = ((sreg s1 d >>> (8 * i)).truncate 8 : Byte)) ∧
      (∀ b, (b < ma ∨ ma + 4 ≤ b) → viewByte t s1.g.team b = viewByte s1 s1.g.team b) ∧
      (∀ b, devByte t b = devByte s1 b ∧ hostByte t b = hostByte s1 b) ∧
      t.g.sr = s1.g.sr ∧ (∀ g, g ≠ s1.cur → t.group g = s1.group g) ∧ (∀ u, u ≠ s1.g.team → t.team u = s1.team u) ∧
      t = { s1 with groups := t.groups, teams := t.teams })

/-- R211, R259, R269, R382, R383: a scalar atomic whose place is reached and whose order waits for nothing performs its operation and gives the old value; from .clus up
it is performed at the home. A poisoned base takes trap 3. R382: what an atomic operation makes of the old value v, the operand b and, for cas, the expected value c, at
64 and at 32 bits, and the code of each operation. -/
def Obligations.ScalarAtomics : Prop :=
  (∀ (s s1 s2 s3 : State) (op : AOp) (wd : MWidth) (o : MOrder) (sc : MScope) (ms : Space) (d a b c : Nat) (k : BitVec 20) (l : Loc) (ty : Nat)
    (v : DWord) (p : Bool),
    (sbad s a = true → Traps (.amo op wd o sc ms d a b c k) s 3 0) ∧
    (sbad s a = false → Gives (place ms (sreg s a + k.signExtend 64) 2 (widthBytes wd) typesAtomic) s (l, ty) s1 →
      Gives (atomicBefore o sc l) s1 () s2 →
      Gives (atomicAt 1 (scWide sc) l op wd (sreg s1 b) (sreg s1 c) (sbad s1 b) (sbad s1 c)) s2 (v, p) s3 →
      Completes (.amo op wd o sc ms d a b c k) s (setReg (if ordRel o && !scWide sc then s3.noteRelease l else s3) d v p))) ∧
  (∀ (v b c : DWord) (x y z : Word),
    let op64 (op : AOp) : DWord := atomicVal64 op .d v b c
    let op32 (op : AOp) : Word := (atomicVal64 op .w (x.zeroExtend 64) (y.zeroExtend 64) (z.zeroExtend 64)).truncate 32
    op64 .add = v + b ∧ op64 .min = (if v.toInt ≤ b.toInt then v else b) ∧ op64 .max = (if v.toInt ≤ b.toInt then b else v) ∧
    op64 .and = v &&& b ∧ op64 .or = v ||| b ∧ op64 .xor = v ^^^ b ∧ op64 .exch = b ∧ op64 .cas = (if v = c then b else v) ∧
    op32 .add = x + y ∧ op32 .min = (if x.toInt ≤ y.toInt then x else y) ∧ op32 .max = (if x.toInt ≤ y.toInt then y else x) ∧
    op32 .and = x &&& y ∧ op32 .or = x ||| y ∧ op32 .xor = x ^^^ y ∧ op32 .exch = y ∧ op32 .cas = (if x = z then y else x) ∧
    (∀ op, (atomicVal64 op .w v b c).toNat < 2 ^ 32 ∧
      atomicVal64 op .w v b c = atomicVal64 op .w (v &&& 0xFFFFFFFF) (b &&& 0xFFFFFFFF) (c &&& 0xFFFFFFFF)) ∧
    (∀ e ∈ [(0, AOp.add), (1, .min), (2, .max), (3, .and), (4, .or), (5, .xor), (6, .exch), (7, .cas)],
      decodeTableWord 64 (0x140000004018CD10 + e.1) = some (.amo e.2 .w .acq .dev .gl 3 6 5 0 0)))

/-- R292, R300, R301: raw words at levels H and H2. ldk gives the word and its stored code unchecked, stk stores a word with the code given, ckinj commits the team and
changes the stored code. A poisoned register takes trap 3, a misaligned address trap 12, and a pattern outside 1 to 255 trap 14. The byte offset that keys a code in each
space is the model's reading (log entry 9). -/
def Obligations.RawWords : Prop :=
  ∀ (s s1 : State) (d a b : Nat) (k : BitVec 13) (l : Loc), s.g.level = 1 ∨ s.g.level = 2 →
    (sbad s a = true → Traps (.ldk d a k) s 3 0 ∧ Traps (.stk d a k) s 3 0 ∧ Traps (.ckinj a b) s 3 0) ∧ (sbad s a = false →
    ((sreg s a + k.signExtend 64).toNat % 4 ≠ 0 → Traps (.ldk d a k) s 12 0 ∧ Traps (.stk d a k) s 12 0) ∧
    (sbad s b = true → Traps (.ckinj a b) s 3 0) ∧
    (sbad s b = false → (sreg s a).toNat % 4 ≠ 0 → Traps (.ckinj a b) s 12 0) ∧
    (sbad s b = false → (sreg s a).toNat % 4 = 0 → (sreg s b = 0 ∨ 256 ≤ (sreg s b).toNat) → Traps (.ckinj a b) s 14 0) ∧
    (Gives (rawPlace (sreg s a + k.signExtend 64) 0) s l s1 →
      Completes (.ldk d a k) s
        (setReg s1 d (((s1.firstRead s1.cur l).2 ++ (s1.firstRead s1.cur l).1 : BitVec 40).zeroExtend 64) false)) ∧
    (Gives (rawPlace (sreg s a + k.signExtend 64) 1) s l s1 →
      Completes (.stk d a k) s
        (s1.putWords false [(l, (sreg s1 d).truncate 32, (sreg s1 d >>> 32).truncate 8)])) ∧
    (sbad s b = false → (sreg s a).toNat % 4 = 0 → sreg s b ≠ 0 → (sreg s b).toNat < 256 → Gives (rawPlace (sreg s a) 1) s l s1 →
      Completes (.ckinj a b) s
        (s1.commitMine.putLoc l (s1.commitMine.readLoc l).1 ((s1.commitMine.readLoc l).2 ^^^ (sreg s b).truncate 8))))

/-- R58, R99, R328: the integer lane instructions. Each active lane's result is poisoned when one of its sources is. -/
def Obligations.LaneIntegers : Prop :=
  ∀ (s : State) (d : LDest) (a b c : LSrc) (p : LPred) (imm : Word),
    let two (i : Instr) (f : Word → Word → Word) : Prop :=
      LaneCompletes i s p imm [a, b] (.dst d) (fun _ as => .done [(f (argVal as 0) (argVal as 1), anyBad as)] 0)
    let one (i : Instr) (f : Word → Word) : Prop :=
      LaneCompletes i s p imm [a] (.dst d) (fun _ as => .done [(f (argVal as 0), anyBad as)] 0)
    two (.vadd d a b p imm) (fun x y => x + y) ∧ two (.vsub d a b p imm) (fun x y => x - y) ∧ two (.vmul d a b p imm) (fun x y => x * y) ∧
    two (.vmulh false d a b p imm) (fun x y => (x.signExtend 64 * y.signExtend 64).extractLsb' 32 32) ∧
    two (.vmulh true d a b p imm) (fun x y => (x.zeroExtend 64 * y.zeroExtend 64).extractLsb' 32 32) ∧
    LaneCompletes (.vmad d a b c p imm) s p imm [a, b, c] (.dst d)
      (fun _ as => .done [(argVal as 0 * argVal as 1 + argVal as 2, anyBad as)] 0) ∧
    two (.vmin false d a b p imm) (fun x y => if x.toInt ≤ y.toInt then x else y) ∧
    two (.vmin true d a b p imm) (fun x y => if x.toNat ≤ y.toNat then x else y) ∧
    two (.vmax false d a b p imm) (fun x y => if x.toInt ≤ y.toInt then y else x) ∧
    two (.vmax true d a b p imm) (fun x y => if x.toNat ≤ y.toNat then y else x) ∧
    two (.vand d a b p imm) (fun x y => x &&& y) ∧ two (.vor d a b p imm) (fun x y => x ||| y) ∧ two (.vxor d a b p imm) (fun x y => x ^^^ y) ∧
    one (.vnot d a p imm) (fun x => x ^^^ -1) ∧ one (.vmov d a p imm) (fun x => x) ∧
    two (.vshl d a b p imm) (fun x y => if 32 ≤ y.toNat % 256 then 0 else x <<< (y.toNat % 256)) ∧
    two (.vshr d a b p imm) (fun x y => if 32 ≤ y.toNat % 256 then 0 else x >>> (y.toNat % 256)) ∧
    two (.vsar d a b p imm) (fun x y => x.sshiftRight (min (y.toNat % 256) 31)) ∧
    one (.vpopc d a p imm) (fun x => BitVec.ofNat 32 ((List.range 32).filter (fun i => x.getLsbD i)).length) ∧
    one (.vclz d a p imm) (fun x => BitVec.ofNat 32 ((List.range 32).takeWhile (fun i => !x.getLsbD (31 - i))).length)

/-- R63, R100, R328, R336, R346: the lane instructions about predicates and poison. vsel takes the selected source's poison bit alone; vptest reads a poison bit without a
trap. A lane that compares a poisoned source takes trap 3 and the others set their bits; where no lane does, the word completes. -/
def Obligations.LanePredicates : Prop :=
  ∀ (s : State) (cc : Cond) (fc : FCond) (neg : Bool) (k n : Nat) (d : LDest) (a b : LSrc) (p : LPred) (imm : Word),
    let bit (x : Bool) (fl : Nat) : LRes := .done [(if x then 1 else 0, false)] fl
    let holds (x y : Word) : Bool := match cc with
      | .eq => decide (x = y) | .ne => decide (x ≠ y) | .lt => decide (x.toInt < y.toInt) | .ge => decide (y.toInt ≤ x.toInt)
      | .le => decide (x.toInt ≤ y.toInt) | .gt => decide (y.toInt < x.toInt) | .ltu => decide (x.toNat < y.toNat)
      | .geu => decide (y.toNat ≤ x.toNat)
    LaneEnds (.vcmp cc n a b p imm) s p imm [a, b] (.pred n)
      (fun _ as => if anyBad as then .trap 3 0 else bit (holds (argVal as 0) (argVal as 1)) 0) ∧
    LaneEnds (.vfcmp fc n a b p imm) s p imm [a, b] (.pred n)
      (fun _ as => if anyBad as then .trap 3 0 else
        let r := Num.fcmp fc (argVal as 0) (argVal as 1)
        bit r.1 r.2) ∧
    LaneCompletes (.vsel neg k d a b p imm) s p imm [a, b] (.dst d)
      (fun l as => .done [if (s.g.lr.pred k).getLsbD l != neg then (argVal as 0, argBad as 0) else (argVal as 1, argBad as 1)] 0) ∧
    LaneCompletes (.vptest n a p imm) s p imm [a] (.pred n) (fun _ as => bit (argBad as 0) 0) ∧
    LaneCompletes (.vpoison d a p imm) s p imm [a] (.dst d) (fun _ as => .done [(argVal as 0, true)] 0)

/-- R99, R331, R333 to R341, R348: the F32 lane instructions, the conversions and the packed dot products deliver the value and raise the flags of their operation; a lane
that reads a poisoned source raises none and its result is poisoned. R81, R331, R333 to R337: the special results of F32. A NaN source gives the default NaN, with invalid
only for a signalling one or another invalid case; opposite infinities and 0 times infinity are invalid; the table of vfrcp, vfrsq and vfsqrt; -0 below +0 in vfmin and
vfmax, which ignore one NaN; comparisons with a NaN. R77, R81, R82, R89 to R95, R331, R334, R339 to R341, R348: finite results are exact values rounded once. vfadd,
vfsub, vfmul and vffma of finite values deliver the exact sum, difference, product or product and sum rounded in the mode, with overflow, underflow and inexact as R331
gives them; an exact zero raises no flag. The conversions of 32-bit integers into F32 round, and those of the narrower formats are exact; a conversion from F32 rounds to
the nearest code that the mode names and clamps to the largest magnitude or to the range, which raises saturation. A packed dot product of a floating format is the exact
sum of its products and the accumulator, rounded to nearest; one of an integer format is clamped to 32 bits. The neighbour that vfex2, vflg2, vfsin and vfcos return is
the model's choice (log entry 10), and the exceptions of a vcvt into a packed register and the sign of an exact zero sum are its readings (log entries 15 and 40). -/
def Obligations.LaneFloats : Prop :=
  (∀ (s : State) (r : Rnd) (tf frm f : Fmt) (e : Nat) (d : LDest) (a b c : LSrc) (p : LPred) (imm : Word),
    let res (x : Num.Res) (bad : Bool) : LRes := .done [(x.1, bad)] (if bad then 0 else x.2)
    let two (i : Instr) (g : Word → Word → Num.Res) : Prop :=
      LaneCompletes i s p imm [a, b] (.dst d) (fun _ as => res (g (argVal as 0) (argVal as 1)) (anyBad as))
    let one (i : Instr) (g : Word → Num.Res) : Prop :=
      LaneCompletes i s p imm [a] (.dst d) (fun _ as => res (g (argVal as 0)) (anyBad as))
    let three (i : Instr) (g : Word → Word → Word → Num.Res) : Prop :=
      LaneCompletes i s p imm [a, b, c] (.dst d) (fun _ as => res (g (argVal as 0) (argVal as 1) (argVal as 2)) (anyBad as))
    two (.vfadd r d a b p imm) (Num.fadd r) ∧ two (.vfsub r d a b p imm) (Num.fsub r) ∧ two (.vfmul r d a b p imm) (Num.fmul r) ∧
    three (.vffma r d a b c p imm) (Num.ffma r) ∧ two (.vfmin d a b p imm) (Num.fminmax false) ∧
    two (.vfmax d a b p imm) (Num.fminmax true) ∧ one (.vfrcp d a p imm) Num.frcp ∧ one (.vfrsq d a p imm) Num.frsq ∧
    one (.vfsqrt r d a p imm) (Num.fsqrt r) ∧ one (.vfex2 d a p imm) Num.fex2 ∧ one (.vflg2 d a p imm) Num.flg2 ∧
    one (.vfsin d a p imm) (Num.fsincos false) ∧ one (.vfcos d a p imm) (Num.fsincos true) ∧
    three (.vdot4 f d a b c p imm) (dotRes f 4) ∧ three (.vdot8 f d a b c p imm) (dotRes f 8) ∧
    LaneCompletes (.vcvt tf frm r d a e p) s p (BitVec.ofNat 32 e) [a] (.dst d)
      (fun l as => cvtLane tf frm r e (match d with | .v n _ => s.g.lr.get n l | .latch _ => (0, false) | .y _ _ => (0, false)) (argVal as 0, argBad as 0))) ∧
  (∀ (r : Rnd) (x y z : Word),
    let nan (w : Word) : Bool := decide (0x7F800000 < w.toNat % 2 ^ 31)
    let sig (w : Word) : Bool := nan w && !w.getLsbD 22
    let inv (b : Bool) : Nat := if b then 1 else 0
    (nan x = true ∨ nan y = true →
      Num.fadd r x y = (0x7FC00000, inv (sig x || sig y)) ∧ Num.fsub r x y = (0x7FC00000, inv (sig x || sig y)) ∧
      Num.fmul r x y = (0x7FC00000, inv (sig x || sig y))) ∧
    Num.fadd r 0x7F800000 0xFF800000 = (0x7FC00000, 1) ∧ Num.fsub r 0x7F800000 0x7F800000 = (0x7FC00000, 1) ∧
    Num.fmul r 0 0x7F800000 = (0x7FC00000, 1) ∧ Num.ffma r 0 0x7F800000 z = (0x7FC00000, 1) ∧
    Num.fadd r 0 0x80000000 = (if r = .rdn then 0x80000000 else 0, 0) ∧ Num.fadd r 0x80000000 0x80000000 = (0x80000000, 0) ∧
    (nan x = true → nan y = false → Num.fminmax false x y = (y, inv (sig x)) ∧ Num.fminmax true x y = (y, inv (sig x)) ∧
      Num.fminmax false y x = (y, inv (sig x)) ∧ Num.fminmax true y x = (y, inv (sig x))) ∧
    (nan x = true → nan y = true → Num.fminmax false x y = (0x7FC00000, inv (sig x || sig y))) ∧
    Num.fminmax false 0 0x80000000 = (0x80000000, 0) ∧ Num.fminmax true 0x80000000 0 = (0, 0) ∧
    Num.frcp 0 = (0x7F800000, 2) ∧ Num.frcp 0x80000000 = (0xFF800000, 2) ∧ Num.frcp 0x7F800000 = (0, 0) ∧ Num.frcp 0xFF800000 = (0x80000000, 0) ∧
    Num.frsq 0 = (0x7F800000, 2) ∧ Num.frsq 0x80000000 = (0xFF800000, 2) ∧ Num.frsq 0x7F800000 = (0, 0) ∧
    Num.fsqrt r 0 = (0, 0) ∧ Num.fsqrt r 0x80000000 = (0x80000000, 0) ∧ Num.fsqrt r 0x7F800000 = (0x7F800000, 0) ∧
    (x.getLsbD 31 = true → x ≠ 0x80000000 → nan x = false → Num.frsq x = (0x7FC00000, 1) ∧ Num.fsqrt r x = (0x7FC00000, 1)) ∧
    (nan x = true → Num.frcp x = (0x7FC00000, inv (sig x)) ∧ Num.frsq x = (0x7FC00000, inv (sig x)) ∧ Num.fsqrt r x = (0x7FC00000, inv (sig x))) ∧
    (nan x = true ∨ nan y = true → ∀ cc,
      Num.fcmp cc x y = (decide (cc = .ne ∨ cc = .un), inv (sig x || sig y || decide (cc = .lt ∨ cc = .le ∨ cc = .gt ∨ cc = .ge)))) ∧
    (∀ cc, nan x = false → nan y = false → (Num.fcmp cc x y).2 = 0) ∧
    Num.fcmp .eq 0 0x80000000 = (true, 0)) ∧
  (∀ (r : Rnd) (x y z : Word) (f : Fmt) (n : Nat),
    let ok (w : Word) : Prop := w.toNat / 2 ^ 23 % 256 ≠ 255
    let u : Word → Int := f32Units
    let gives (r : Rnd) (v : Int) (k : Nat) (res : Word × Nat) : Prop :=
      (v ≠ 0 → RoundedF32 r v k res) ∧ (v = 0 → res.2 = 0 ∧ (res.1 = 0 ∨ res.1 = 0x80000000))
    let el (bits j : Nat) (w : Word) : Nat := w.toNat / 2 ^ (bits * j) % 2 ^ bits
    let signed (bits c : Nat) : Int := if 2 ^ (bits - 1) ≤ c then (c : Int) - 2 ^ bits else c
    let sum (n : Nat) (g : Nat → Int) : Int := ((List.range n).map g).sum
    (ok x → ok y →
      gives r (u x + u y) 1 (Num.fadd r x y) ∧ gives r (u x - u y) 1 (Num.fsub r x y) ∧ gives r (u x * u y) (2 ^ 149) (Num.fmul r x y) ∧
      (u x * u y = 0 → Num.fmul r x y = (if x.msb == y.msb then 0 else 0x80000000, 0)) ∧
      (ok z → gives r (u x * u y + 2 ^ 149 * u z) (2 ^ 149) (Num.ffma r x y z))) ∧
    gives r (x.toInt * 2 ^ 149) 1 (Num.fromNarrow .i32 r x.toNat) ∧ gives r ((x.toNat : Int) * 2 ^ 149) 1 (Num.fromNarrow .n32 r x.toNat) ∧
    (let exact (c : Nat) (v : Int) : Prop := ok (Num.fromNarrow f r c).1 ∧ u (Num.fromNarrow f r c).1 = v ∧ (Num.fromNarrow f r c).2 = 0
     (∀ eb mb bias, (f, eb, mb, bias) ∈ [(Fmt.e4m3, 4, 3, 7), (.e5m2, 5, 2, 15), (.e2m1, 2, 1, 1)] → n < 2 ^ (eb + mb) →
       exact n (codeUnits mb n * 2 ^ (150 - bias - mb)) ∧ exact (2 ^ (eb + mb) + n) (-(codeUnits mb n * 2 ^ (150 - bias - mb) : Nat))) ∧
     (f = .i8 → n < 256 → exact n (signed 8 n * 2 ^ 149)) ∧ (f = .n8 → n < 256 → exact n (n * 2 ^ 149)) ∧ (f = .i4 → n < 16 → exact n (signed 4 n * 2 ^ 149)) ∧
     (f = .e8s → n < 255 → exact n (2 ^ (n + 22)))) ∧
    (ok x →
      let to_ (n : Nat) (unit : Nat → Nat) : Prop := RoundsTo r x.msb unit (u x).natAbs 1 n
      (∀ eb mb bias, (f, eb, mb, bias) ∈ [(Fmt.e4m3, 4, 3, 7), (.e5m2, 5, 2, 15), (.e2m1, 2, 1, 1)] → to_ n (fun j => codeUnits mb j * 2 ^ (150 - bias - mb)) →
        Num.toNarrow f r x =
          { code := (if x.msb then 2 ^ (eb + mb) else 0) + min n (2 ^ (eb + mb) - 1), bad := false,
            flags := (if codeUnits mb n * 2 ^ (150 - bias - mb) = (u x).natAbs ∧ n < 2 ^ (eb + mb) then 0 else 16) + (if n < 2 ^ (eb + mb) then 0 else 32) }) ∧
      (∀ bits lo hi, (f, bits, lo, hi) ∈ [(Fmt.i32, 32, -(2 ^ 31 : Int), (2 ^ 31 - 1 : Int)), (.n32, 32, 0, 2 ^ 32 - 1), (.i8, 8, -128, 127), (.n8, 8, 0, 255), (.i4, 4, -8, 7)] →
        to_ n (fun j => j * 2 ^ 149) →
        let v : Int := if x.msb then -(n : Int) else n
        let w : Int := if v < lo then lo else if hi < v then hi else v
        Num.toNarrow f r x =
          { code := (w % 2 ^ bits).toNat, bad := false, flags := (if n * 2 ^ 149 = (u x).natAbs ∧ w = v then 0 else 16) + (if w = v then 0 else 32) }) ∧
      (2 ^ 22 ≤ u x → to_ n (fun j => 2 ^ (j + 22)) →
        Num.toNarrow .e8s r x = { code := n, bad := false, flags := if 2 ^ (n + 22) = u x then 0 else 16 }) ∧
      (u x < 2 ^ 22 → Num.toNarrow .e8s r x = { code := 0, bad := false, flags := 48 })) ∧
    (∀ eb mb bias, (f, eb, mb, bias) ∈ [(Fmt.e4m3, 4, 3, 7), (.e5m2, 5, 2, 15), (.e2m1, 2, 1, 1)] → n * (eb + mb + 1) = 32 → ok z →
      let v (w : Word) (j : Nat) : Int :=
        let c := el (eb + mb + 1) j w
        if 2 ^ (eb + mb) ≤ c then -(codeUnits mb (c - 2 ^ (eb + mb)) : Int) else codeUnits mb c
      gives .rne (u z + 2 ^ (151 - 2 * (bias + mb)) * sum n (fun j => v x j * v y j)) 1 (dotRes f n x y z)) ∧
    (∀ bits, (f, bits) ∈ [(Fmt.i8, 8), (.n8, 8), (.i4, 4)] → n * bits = 32 →
      let v (w : Word) (j : Nat) : Int := if f = .n8 then el bits j w else signed bits (el bits j w)
      let t : Int := z.toInt + sum n (fun j => v x j * v y j)
      dotRes f n x y z = if t < -(2 ^ 31) then (0x80000000, 32) else if 2 ^ 31 - 1 < t then (0x7FFFFFFF, 32) else (BitVec.ofInt 32 t, 0)))

/-- R342 to R345, R350: the cross-lane instructions over the active lanes' values, read before any write. A read of an inactive or absent lane leaves the reader as it is;
a poisoned lane number of vshfl, and a poisoned source of a vote, take trap 3 (R100), and an enabled exception of a reduction or of vscacc traps (R332). R344: a
reduction's result and exceptions are the same whatever the order of its values; and what the integer reductions are. The rerun of a cross-lane word is the model's choice
(log entry 16), and the sign of an exact zero sum is its reading (log entry 40). -/
def Obligations.CrossLaneWords : Prop :=
  (∀ (s : State) (md : ShflMode) (op : RedOp) (d : LDest) (n : Nat) (a b c : LSrc) (abyte bbyte blane : Nat) (p : LPred) (imm : Word),
    let act := running s p
    let val (l : Nat) : Word := (laneVal s imm a l).1
    let bad (l : Nat) : Bool := (laneVal s imm a l).2
    let anyb : Bool := act.any bad
    let from_ (l n : Nat) : Option Nat := match md with
      | .idx => some (n % 32)
      | .up => if n ≤ l then some (l - n) else none
      | .down => if l + n < 32 then some (l + n) else none
      | .xor => some (l ^^^ (n % 32))
    LaneEnds (.vshfl md d a b p imm) s p imm [a, b] (.dst d) (fun l as =>
      if argBad as 1 then .trap 3 0
      else match from_ l (argVal as 1).toNat with
        | none => .done [] 0
        | some j => if act.contains j then .done [(val j, bad j)] 0 else .done [] 0) ∧
    LaneEnds (.vvote .any (.v n none) a p imm) s p imm [a] (.pred n)
      (fun _ _ => if anyb then .trap 3 0 else .done [(if act.any (fun l => val l != 0) then 1 else 0, false)] 0) ∧
    LaneEnds (.vvote .all (.v n none) a p imm) s p imm [a] (.pred n)
      (fun _ _ => if anyb then .trap 3 0 else .done [(if act.all (fun l => val l != 0) then 1 else 0, false)] 0) ∧
    LaneEnds (.vvote .ballot d a p imm) s p imm [a] (.dst d)
      (fun _ _ => .done [(maskOf (fun l => act.contains l && val l != 0), anyb)] 0) ∧
    LaneEnds (.vred op d a p imm) s p imm [a] (.dst d)
      (fun _ _ => .done [((reduce op (act.map val)).1, anyb)] (if anyb then 0 else (reduce op (act.map val)).2)) ∧
    LaneEnds (.vscan d a p imm) s p imm [a] (.dst d) (fun l _ =>
      let js := act.filter (fun j => decide (j ≤ l))
      .done [(BitVec.ofNat 32 (js.map (fun j => (val j).toNat)).sum, js.any bad)] 0) ∧
    LaneEnds (.vscacc d a b c abyte bbyte blane p) s p 0 [a, b, c] (.dst d) (fun _ as =>
      if act.contains blane then
        let y := laneVal s 0 b blane
        let q := anyBad as || y.2
        let r := scaleRes (argVal as 0) (argVal as 2) ((argVal as 1).toNat / 2 ^ (8 * abyte) % 256) (y.1.toNat / 2 ^ (8 * bbyte) % 256)
        .done [(r.1, q)] (if q then 0 else r.2)
      else .done [] 0)) ∧
  (∀ (ws ws' : List Word) (w : Word),
    (ws.Perm ws' → ∀ op, reduce op ws = reduce op ws') ∧
    reduce .add ws = (BitVec.ofNat 32 (ws.map BitVec.toNat).sum, 0) ∧
    (w ∈ ws → (reduce .min ws).1 ∈ ws ∧ (reduce .min ws).1.toInt ≤ w.toInt ∧ (reduce .max ws).1 ∈ ws ∧ w.toInt ≤ (reduce .max ws).1.toInt ∧
      (reduce .minu ws).1 ∈ ws ∧ (reduce .minu ws).1.toNat ≤ w.toNat) ∧
    (ws ≠ [] → ∀ k, k < 32 → (reduce .and ws).1.getLsbD k = ws.all (fun x => x.getLsbD k) ∧
      (reduce .or ws).1.getLsbD k = ws.any (fun x => x.getLsbD k) ∧ (reduce .xor ws).1.getLsbD k = decide ((ws.filter (fun x => x.getLsbD k)).length % 2 = 1)))

/-- The frame of a lane word that completes (R14, R54 to R57, R156): only the acting group and what its queues report differ; its scalar registers, masks and pc are as
before; a lane register keeps its value and poison in a lane that does not execute the word, and where the word does not write that register; a predicate, a latch or a
queue that is not the destination's is as before. R56, R57, R60, R330: what a lane word that completes writes in an active lane: its register with value and poison, its
latch, its predicate bit; and the sticky flags it raises. -/
def Obligations.LaneWordEffect : Prop :=
  (∀ (s : State) (w : LaneWord) (srcs : List LSrc) (d : LaneDst) (res : List (Nat × LRes)), (res.map Prod.fst).Nodup → (∀ e ∈ res, e.1 < 32) →
    let t := laneDone s w srcs d res
    let x := s.g
    let y := t.g
    t = { s with groups := t.groups, evs := t.evs, freeIdx := s.freeIdx + 1 } ∧ (∀ g, g ≠ s.cur → t.group g = s.group g) ∧
    y.sr = x.sr ∧ y.m = x.m ∧ y.pc = x.pc ∧ y.level = x.level ∧ y.tr = x.tr ∧ y.fpen = x.fpen ∧
    (∀ n l, n < 192 → l < 32 → (∀ e ∈ res, e.1 = l → writesV d n e.2 = false) → y.lr.get n l = x.lr.get n l) ∧
    (∀ k, (∀ n, d = .pred n → n ≠ k) → y.lr.pred k = x.lr.pred k) ∧
    (∀ k l, (∀ e ∈ res, e.1 ≠ l) → y.lr.getLatch k l = x.lr.getLatch k l) ∧
    (∀ k, (∀ n, d ≠ .dst (.latch k) ∧ d ≠ .dst (.v n (some k)) ∧ d ≠ .dst (.y n (some k))) → ∀ l, y.lr.getLatch k l = x.lr.getLatch k l) ∧
    (∀ k, some k ≠ d.queue → tabGet [] y.lane.y k = tabGet [] x.lane.y k) ∧
    (∀ q, q ∉ queuesOf srcs → tabGet [] y.lane.q q = tabGet [] x.lane.q q)) ∧
  (∀ (s : State) (w : LaneWord) (srcs : List LSrc) (d : LaneDst) (res : List (Nat × LRes)) (l : Nat) (v : Word) (bad : Bool) (fl : Nat),
    (res.map Prod.fst).Nodup → (∀ e ∈ res, e.1 < 32) → (l, .done [(v, bad)] fl) ∈ res → fl < 64 →
    let y := (laneDone s w srcs d res).g
    (∀ n k, d = .dst (.v n k) → n < 192 → y.lr.get n l = (v, bad)) ∧
    (∀ n k, d = .dst (.v n (some k)) ∨ d = .dst (.latch k) ∨ d = .dst (.y n (some k)) → k < 8 → y.lr.getLatch k l = some (v, bad)) ∧
    (∀ n, d = .pred n → 0 < n → n < 8 → (y.lr.pred n).getLsbD l = decide (v ≠ 0)) ∧
    (∀ k, k < 6 → (tabGet 0 y.sticky k).getLsbD l = ((tabGet 0 s.g.sticky k).getLsbD l || decide (fl / 2 ^ k % 2 = 1))))

/-- R56, R100, R127, R329, R330, R332, R334 to R341, R348: a lane whose result raises an enabled exception traps (cause 4, or 5 for saturation alone); the trap reports
every lane that traps, with the first cause in the order 7, 3, 14, 12, 13, 4, 5; trapping lanes keep their destination and raise their flags, the other active lanes
complete, and no queue pops. For every lane word of one operation in each lane that may trap. What c.dmask holds at a second fault of one word is the model's reading (log
entry 33), and so are the exceptions and flags of a vcvt into a packed register (log entry 15). -/
def Obligations.LaneExceptions : Prop :=
  ∀ (s : State) (r : Rnd) (tf frm f : Fmt) (e : Nat) (d : LDest) (a b c : LSrc) (p : LPred) (imm : Word) (cc : Cond) (fc : FCond) (n : Nat),
    let res (x : Num.Res) (bad : Bool) : LRes := .done [(x.1, bad)] (if bad then 0 else x.2)
    let bit (x : Bool) (fl : Nat) : LRes := .done [(if x then 1 else 0, false)] fl
    let two (i : Instr) (g : Word → Word → Num.Res) : Prop :=
      LaneTraps i s p imm [a, b] (.dst d) (fun _ as => res (g (argVal as 0) (argVal as 1)) (anyBad as))
    let one (i : Instr) (g : Word → Num.Res) : Prop := LaneTraps i s p imm [a] (.dst d) (fun _ as => res (g (argVal as 0)) (anyBad as))
    let three (i : Instr) (g : Word → Word → Word → Num.Res) : Prop :=
      LaneTraps i s p imm [a, b, c] (.dst d) (fun _ as => res (g (argVal as 0) (argVal as 1) (argVal as 2)) (anyBad as))
    two (.vfadd r d a b p imm) (Num.fadd r) ∧ two (.vfsub r d a b p imm) (Num.fsub r) ∧ two (.vfmul r d a b p imm) (Num.fmul r) ∧
    three (.vffma r d a b c p imm) (Num.ffma r) ∧ two (.vfmin d a b p imm) (Num.fminmax false) ∧
    two (.vfmax d a b p imm) (Num.fminmax true) ∧ one (.vfrcp d a p imm) Num.frcp ∧ one (.vfrsq d a p imm) Num.frsq ∧
    one (.vfsqrt r d a p imm) (Num.fsqrt r) ∧ one (.vfex2 d a p imm) Num.fex2 ∧ one (.vflg2 d a p imm) Num.flg2 ∧
    one (.vfsin d a p imm) (Num.fsincos false) ∧ one (.vfcos d a p imm) (Num.fsincos true) ∧
    three (.vdot4 f d a b c p imm) (dotRes f 4) ∧ three (.vdot8 f d a b c p imm) (dotRes f 8) ∧
    LaneTraps (.vcvt tf frm r d a e p) s p (BitVec.ofNat 32 e) [a] (.dst d)
      (fun l as => cvtLane tf frm r e (match d with | .v n _ => s.g.lr.get n l | .latch _ => (0, false) | .y _ _ => (0, false)) (argVal as 0, argBad as 0)) ∧
    LaneTraps (.vcmp cc n a b p imm) s p imm [a, b] (.pred n)
      (fun _ as => if anyBad as then .trap 3 0 else bit (condHolds cc (argVal as 0) (argVal as 1)) 0) ∧
    LaneTraps (.vfcmp fc n a b p imm) s p imm [a, b] (.pred n)
      (fun _ as => if anyBad as then .trap 3 0 else bit (Num.fcmp fc (argVal as 0) (argVal as 1)).1 (Num.fcmp fc (argVal as 0) (argVal as 1)).2) ∧
    (∀ (en : DWord) (ws : List (Word × Bool)) (fl : Nat), fl < 64 → enabled en (.dst d) (.done ws fl) =
      (if ∃ k : Fin 5, fl / 2 ^ k.val % 2 = 1 ∧ en.getLsbD k = true then LRes.trap 4 fl
       else if fl / 32 = 1 ∧ en.getLsbD 5 = true then LRes.trap 5 fl else LRes.done ws fl)) ∧
    (∀ (res : List (Nat × LRes)) (c l fl : Nat) (before after : List Nat), [7, 3, 14, 12, 13, 4, 5] = before ++ c :: after → (l, LRes.trap c fl) ∈ res →
      (∀ k ∈ before, ∀ m g, (m, LRes.trap k g) ∉ res) → firstCause res = c) ∧
    (∀ (x : Group) (l c fl : Nat), (x.takeResults (.dst d) [(l, .trap c fl)]).lr = x.lr ∧ ∀ k, k < 6 → l < 32 →
      (tabGet 0 (x.takeResults (.dst d) [(l, .trap c fl)]).sticky k).getLsbD l = ((tabGet 0 x.sticky k).getLsbD l || decide (fl / 2 ^ k % 2 = 1)))

/-- R60, R164, R166: the lane branches and vend. A word whose lanes all go one way moves its path; one whose lanes part makes two paths and a join record, or takes trap
14 with argument 1 in every lane where no record is free; vend ends the path. R163 to R166, R168: how paths part, arrive and meet. The lanes that branch take the slot of
their path and the others the other slot, with the lowest free record; a path at its join empties its slot while the other is out; the last arrival goes on at the join
with every lane that arrived; the block ends with its last path. Without a free record nothing parts. -/
def Obligations.LaneControlWords : Prop :=
  (∀ (s : State) (p : LPred) (target join : BitVec 16) (q : Path) (t0 : Nat),
    q.redo = none → tabFind s.g.lane.slots s.slot = some (q, t0) →
    let c := s.g.lane
    let now := s.clock s.cur
    let pr : Mask := if p.neg then ~~~(s.g.lr.pred p.p) else s.g.lr.pred p.p
    let t : Mask := q.mask &&& pr
    let goes (i : Instr) (c' : LaneCtx) : Prop := exec i s = .next (s.updG (fun x => (x.endReads s.slot).withLane c')).flush
    let branch (i : Instr) (to_ join : DWord) : Prop :=
      (p.p = 0 ∨ t = q.mask → goes i (c.movePath now s.slot to_)) ∧
      (p.p ≠ 0 → t ≠ q.mask → t = 0 → goes i (c.movePath now s.slot (q.pc + 12))) ∧
      (p.p ≠ 0 → t ≠ q.mask → t ≠ 0 →
        (∀ c', c.diverge now s.slot t to_ (q.pc + 12) join = some c' → goes i c') ∧
        (c.diverge now s.slot t to_ (q.pc + 12) join = none →
          exec i s = .next (s.takeTrap s.cur
            { cause := 14, arg := 1, pc := q.pc, lane := true, mask := q.mask, done := 0, info := laneInfo (encodeWord i), size := 0,
              mark := some { path := q.mask, active := q.mask, done := 0, push := none } }).flush))
    branch (.vbr p target join) (q.pc + 12 * target.signExtend 64) (q.pc + 12 * join.signExtend 64) ∧
    branch (.vjoin p target) (q.pc + 12 * target.signExtend 64) (q.pc + 12) ∧
    goes .vend (c.endPath now s.slot)) ∧
  (∀ (c : LaneCtx) (now z k : Nat) (q : Path) (t0 : Nat) (m : Mask) (a b j : DWord) (r : JoinRec),
    z < 2 → tabFind c.slots z = some (q, t0) → (∀ e ∈ c.spill, e.2.park = none) → (∀ e ∈ c.slots, e.1 < 2) →
    (k < 16 → tabFind c.slots (1 - z) = none → tabFind c.spill k = none → (∀ i, i < k → tabFind c.spill i ≠ none) → a ≠ j → b ≠ j →
      ∃ c', c.diverge now z m a b j = some c' ∧ tabFind c'.slots z = some ({ pc := a, mask := m, inner := some k }, now) ∧
        tabFind c'.slots (1 - z) = some ({ pc := b, mask := q.mask &&& ~~~m, inner := some k }, now) ∧
        tabFind c'.spill k = some { join := j, arrived := 0, outer := q.inner, park := none }) ∧
    ((∀ i, i < 16 → tabFind c.spill i ≠ none) → c.diverge now z m a b j = none) ∧
    (q.inner = some k → tabFind c.spill k = some r → (∃ p1 t1, tabFind c.slots (1 - z) = some (p1, t1) ∧ p1.inner = some k) →
      tabFind (c.movePath now z r.join).slots z = none ∧ tabFind (c.movePath now z r.join).slots (1 - z) = tabFind c.slots (1 - z) ∧
      tabFind (c.movePath now z r.join).spill k = some { r with arrived := r.arrived ||| q.mask }) ∧
    (q.inner = some k → tabFind c.spill k = some r → r.outer = none → tabFind c.slots (1 - z) = none → (∀ e ∈ c.spill, e.2.outer ≠ some k) →
      r.arrived ||| q.mask ≠ 0 →
      tabFind (c.movePath now z r.join).slots z = some ({ pc := r.join, mask := r.arrived ||| q.mask, inner := none }, now) ∧
      tabFind (c.movePath now z r.join).spill k = none) ∧
    (c.slots = [(z, (q, t0))] → q.inner = none →
      (c.endPath now z).running = false ∧ (c.endPath now z).slots = [] ∧ (c.endPath now z).spill = [] ∧ (c.endPath now z).blocks = c.blocks))

/-- R368: the address of a lane: a register pair and a displacement in .gl, one register elsewhere. R109, R379, R380: where two lanes of a vst name bytes of one word the
higher lane's bytes stand; a whole-word lane writes its word. Two lanes of a narrow store in one word replace their bytes of the old word, which is read once, with its
poison and theirs; in host memory the old word has none. R265, R382, R385: the lanes of a vamo at one word act in ascending order on a running value: without poison the
result of each is the value before it, and the word is the value after the last. The order in which the distinct addresses of one vamo are performed is the model's choice
(log entry 1). -/
def Obligations.LaneMemoryOrder : Prop :=
  (∀ (x : Group) (ms : Space) (a l : Nat) (k : Word),
    (ms = .gl → (x.lr.get a l).2 = false → (x.lr.get (a + 1) l).2 = false →
      x.laneEa ms a l k = some (((x.lr.get (a + 1) l).1 ++ (x.lr.get a l).1) + k.signExtend 64)) ∧
    (ms = .gl → (x.lr.get a l).2 = true ∨ (x.lr.get (a + 1) l).2 = true → x.laneEa ms a l k = none) ∧
    (ms ≠ .gl → (x.lr.get a l).2 = false → x.laneEa ms a l k = some ((x.lr.get a l).1.zeroExtend 64 + k.signExtend 64)) ∧
    (ms ≠ .gl → (x.lr.get a l).2 = true → x.laneEa ms a l k = none)) ∧
  (∀ (s t u : State) (wd : MWidth) (x y : Nat × Loc × Word × Bool) (b : Built) (old : Word) (bad : Bool),
    let arg (e : Nat × Loc × Word × Bool) : Nat × LPlace × List (Word × Bool) := (e.1, .ok e.2.1, [e.2.2])
    let n := widthBytes wd
    let byte (w : Word) (i : Nat) : Nat := w.toNat / 256 ^ i % 256
    (wd = .w ∨ wd = .d → Gives (buildAll wd [] [arg x, arg y]) s b s →
      (x.2.1 = y.2.1 → builtAt b x.2.1 = some (y.2.2.1, y.2.2.2 || x.2.2.2)) ∧
      (x.2.1 ≠ y.2.1 → builtAt b x.2.1 = some x.2.2 ∧ builtAt b y.2.1 = some y.2.2)) ∧
    (wd = .b ∨ wd = .h → x.2.1.word = y.2.1.word → x.2.1.byte % n = 0 → y.2.1.byte % n = 0 → Gives (buildAll wd [] [arg x, arg y]) s b u →
      (x.2.1.isHost = false → Gives (consumeAt 0 x.2.1) s (old, bad) t) → (x.2.1.isHost = true → old = (s.readLoc x.2.1.word).1 ∧ bad = false ∧ t = s) →
      u = t ∧ ∃ w, b = [(x.2.1.word, w, bad || x.2.2.2 || y.2.2.2)] ∧ ∀ i, i < 4 → byte w i =
        if y.2.1.byte ≤ i ∧ i < y.2.1.byte + n then byte y.2.2.1 (i - y.2.1.byte)
        else if x.2.1.byte ≤ i ∧ i < x.2.1.byte + n then byte x.2.2.1 (i - x.2.1.byte) else byte old i)) ∧
  (∀ (op : AOp) (v : Word) (ls : List (Nat × Word × Word)),
    let run (v : Word) (ls : List (Nat × Word × Word)) : Word := ls.foldl (fun v e => atomicVal op v e.2.1 e.2.2) v
    let r := aggregate op v false (ls.map (fun e => (e.1, [(e.2.1, false), (e.2.2, false)])))
    r.2 = (run v ls, false) ∧ r.1.length = ls.length ∧
    ∀ i (h : i < ls.length), r.1[i]? = some (ls[i].1, run v (ls.take i), false, false))

/-- R265, R269, R369, R378, R379, R385: vld, vst and vamo when every active lane reaches its place: each lane takes the value loaded, extended as the width says; a store
builds its words and stores them after what its release waits for; an atomic is one operation at each address, and each lane takes its old value. The order of the
addresses of one vamo, and when a die takes a copy of a line, are the model's choices (log entries 1 and 5). -/
def Obligations.LaneMemoryWords : Prop :=
  ∀ (s : State) (wd : MWidth) (sx : Bool) (op : AOp) (o : MOrder) (sc : MScope) (ms : Space) (d : LDest) (a : Nat) (b c : LSrc) (p : LPred) (k : Word),
    let places (kind width : Nat) (types : Nat → Bool) (srcs : List LSrc) : M (List (Nat × LPlace × List (Word × Bool))) :=
      (running s p).mapM (fun l => do
        let q ← lanePlace ms a l k kind width types
        pure (l, q, laneIn s k srcs l))
    LaneBodyCompletes (.vld wd sx o sc ms d a p k) s p k [] (.dst d) (do
      if ordAcq o then acquireWait sc else pure ()
      let ps ← places 0 (widthBytes wd) typesLane []
      let rs ← ps.mapM (fun e => match e.2.1 with
        | .no r => pure (e.1, r)
        | .ok l => do
          if scRmt sc then promote l else pure ()
          let (v, bad) ← loadAt 0 l wd
          let n := min 32 (8 * widthBytes wd)
          let w : Word := BitVec.ofNat 32 (v.toNat % 2 ^ n + (if sx && v.getLsbD (n - 1) then 2 ^ 32 - 2 ^ n else 0))
          pure (e.1, LRes.done [(w, bad)] 0))
      if ordAcq o then upd (fun t => t.acquiredFrom sc false (ps.filterMap (fun e => match e.2.1 with | .ok l => some l.word | .no _ => none))) else pure ()
      pure rs) ∧
    LaneBodyCompletes (.vst wd o sc ms a b p k) s p k [b] .none (do
      let ps ← places 1 (widthBytes wd) typesLane [b]
      let ws ← buildAll wd [] ps
      if ordRel o then release sc else pure ()
      storeBuilt (ordRel o && scWide sc) ws
      if ordRel o && !scWide sc then ws.forM (fun e => upd (fun t => t.noteRelease e.1)) else pure ()
      pure (ps.map (fun e => (e.1, match e.2.1 with | .ok _ => .done [] 0 | .no r => r)))) ∧
    LaneBodyCompletes (.vamo op o sc ms d a b c p k) s p k [b, c] (.dst d) (do
      let ps ← places 2 4 typesAtomic [b, c]
      let at_ := (ps.filterMap (fun e => match e.2.1 with | .ok l => some l | .no _ => none)).eraseDups
      if ordAcq o then
        acquireWait sc
        upd (fun t => t.acquiredFrom sc true at_)
      else pure ()
      if at_.isEmpty then pure () else if ordRel o then release sc else if scWide sc then upd State.commitMine else pure ()
      if scRmt sc then at_.forM promote else pure ()
      let olds ← vamoAll op (scWide sc) ps at_
      if ordRel o && !scWide sc then at_.forM (fun l => upd (fun t => t.noteRelease l)) else pure ()
      pure (ps.map (fun e => (e.1, match e.2.1 with
        | .no r => r
        | .ok _ => ((olds.find? (fun f => f.1 == e.1)).map (fun f => f.2)).getD (.done [] 0)))))

/-- R85, R88, R97, R362 to R366: the course instructions: vldc reads its course planes, or one more and rounds; vstc stores its registers' planes; vcupd adds four deltas
to four values at the line's home. The team's buffer has room for all the words of a store first, so that no commit parts them (R266). R84, R88, R97: course values. The
k-course prefix of an element has its courses most significant first; a rounding read rounds to nearest, ties to even, and never past the largest magnitude; words put
together from an element's courses give its courses back; an update by zero changes nothing. -/
def Obligations.CourseWords : Prop :=
  (∀ (s : State) (fam : Fam) (n : Nat) (rn : Bool) (ms : Space) (d : LDest) (a b : Nat) (p : LPred) (k : Word),
    let places (kind m : Nat) : M (List (Nat × LPlace)) := (running s p).mapM (fun l => do
      let q ← coursePlace ms a l k kind ((m - 1) * 128 + 4 * l)
      pure (l, q))
    LaneBodyCompletes (.vldc fam n rn ms d a p k) s p k [] (courseDst n d) (do
      let m := if rn then n + 1 else n
      let ps ← places 0 m
      ps.mapM (fun e => match e.2 with
        | .no r => pure (e.1, r)
        | .ok l => do
          let ws ← (List.range m).mapM (fun c => consumeAt 0 (l.plus (c * 128 + 4 * e.1)))
          pure (e.1, courseLane n rn ws))) ∧
    LaneBodyCompletes (.vstc fam n ms a b p k) s p k [] .none (do
      let ps ← places 1 n
      let t ← get
      let ws := (ps.map (fun e => match e.2 with
        | .no _ => []
        | .ok l => (List.range n).map (fun c => (l.plus (c * 128 + 4 * e.1), (t.g.lr.get (b + c) e.1).1, (t.g.lr.get (b + c) e.1).2)))).flatten
      upd (fun t => t.makeRoom t.g.team (ws.map (fun e => e.1)))
      storeBuilt false ws
      pure (ps.map (fun e => (e.1, match e.2 with | .ok _ => .done [] 0 | .no r => r)))) ∧
    LaneBodyCompletes (.vcupd fam ms a b p k) s p k [] .none (do
      let ps ← places 2 4
      upd (fun t => t.makeRoom t.g.team ((ps.map (fun e => match e.2 with
        | .no _ => []
        | .ok l => (List.range 4).map (fun c => l.plus (c * 128 + 4 * e.1)))).flatten))
      ps.mapM (fun e => match e.2 with
        | .no r => pure (e.1, r)
        | .ok l => do
          settleAtomics l
          let ws ← (List.range 4).mapM (fun c => atomicRead (l.plus (c * 128 + 4 * e.1)))
          let t ← get
          let (vs, fl) := updateLane fam ws ((List.range 4).map (fun j => t.g.lr.get (b + j) e.1))
          storeBuilt false (vs.zipIdx.map (fun v => (l.plus (v.2 * 128 + 4 * e.1), v.1.1, v.1.2)))
          upd (fun t => t.noteAtomic false l)
          pure (e.1, .done [] fl)))) ∧
  (∀ (fam : Fam) (ws : List Word) (w : Word) (xs : List Nat) (j k c x nxt : Nat),
    courseElem (ws ++ [w]) j = courseElem ws j * 256 + w.toNat / 256 ^ j % 256 ∧
    (xs.length = 4 → j < 4 → c < k → (courseWord xs k c).toNat / 256 ^ j % 256 = xs.getD j 0 / 256 ^ (k - 1 - c) % 256) ∧
    (0 < k → k ≤ 3 → x < 256 ^ k → nxt < 256 →
      (x % 2 ^ (8 * k - 1) ≠ 2 ^ (8 * k - 1) - 1 →
        courseRound k x nxt = (if nxt < 128 ∨ (nxt = 128 ∧ x % 2 = 0) then x else x + 1, false)) ∧
      (x % 2 ^ (8 * k - 1) = 2 ^ (8 * k - 1) - 1 → (courseRound k x nxt).1 = x)) ∧
    (x < 2 ^ 32 → x ≠ 2 ^ 31 → courseUpdate fam x 0 = some (x, 0)))

/-- R353, R354, R357, R360: the matrix words hand an operation to the engine and their path goes on; the engine takes a group's operations in order, one at a time, fixes
their results when it starts them, and writes them when they complete; of the groups of a core it takes the one whose last issue on it is oldest (R175). A vmmap waits for
its partner's, with which it starts where each came within 4,096 cycles of the other. R94, R95, R99, R351, R353: each element of C that a matrix operation writes is its
old value plus the exact sum of the products of a row of A and a column of B, rounded or clamped once; it is poisoned when one of its words is. That a vmmap without an
active lane needs its partner, and the sign of an exact zero sum, are the model's readings (log entries 36 and 40). -/
def Obligations.MatrixWords : Prop :=
  (∀ (s : State) (fa fb : Fmt) (d a b sA sDA sB sDB : Nat) (p : LPred) (id : Nat) (m : MatrixOp),
    let w := s.laneWord p
    let op (kind : Nat) (a b : Nat) (staged : Option (Image × Image × List Nat × List Nat)) (t : State) : State :=
      { t with
        nextId := t.nextId + 1,
        matrix := tabPut t.matrix t.nextId
          { group := t.cur, tok := t.g.tok, path := w.path.mask, t0 := t.cycle.toNat, kind := kind, fa := fa, fb := fb, d := d,
            a := a, b := b, mask := w.run, seq := t.g.seq, staged := staged, started := false, out := [], flags := [] } }
    let ends (t : State) : State := laneDone t w [] .none ((running s p).map (fun l => (l, .done [] 0)))
    (laneReady s p 0 [] .none = true → w.run ≠ 0 →
      exec (.vmma fa fb d a b p) s = .next (ends (op 0 a b none s)).flush ∧
      (s.g.sr.bad sA = true ∨ s.g.sr.bad sDA = true ∨ s.g.sr.bad sB = true ∨ s.g.sr.bad sDB = true →
        exec (.vmmas fa fb d sA sDA sB sDB p) s = .next (s.laneTrap w (encodeWord (.vmmas fa fb d sA sDA sB sDB p)) 3 0 w.run (w.active &&& ~~~w.run)
          { path := w.path.mask, active := w.active, done := w.active &&& ~~~w.run, push := none }).flush) ∧
      (∀ ta tb x y s1 s2 wa sa wb sb, (s.g.sr.bad sA || s.g.sr.bad sDA || s.g.sr.bad sB || s.g.sr.bad sDB) = false →
        s.teamAt s.g.team ((s.g.sr.get sA).toNat / 2 ^ 19) = some ta → s.teamAt s.g.team ((s.g.sr.get sB).toNat / 2 ^ 19) = some tb →
        (s.g.sr.get sA).toNat < 2 ^ 22 → (s.g.sr.get sB).toNat < 2 ^ 22 → (s.g.sr.get sA).toNat % 4 = 0 → (s.g.sr.get sB).toNat % 4 = 0 →
        tileDesc fa (s.g.sr.get sDA) = some x → tileDesc fb (s.g.sr.get sDB) = some y →
        (∀ o ∈ x.offs fa, (s.g.sr.get sA).toNat % 2 ^ 19 + o + 4 ≤ (s.descOf ta).scratch) →
        (∀ o ∈ y.offs fb, (s.g.sr.get sB).toNat % 2 ^ 19 + o + 4 ≤ (s.descOf tb).scratch) →
        s.stagingHeld s.g.team + 4096 ≤ s.stageBytes s.g.team →
        Gives (tileRows x fa ta ((s.team ta).sramAt + (s.g.sr.get sA).toNat % 2 ^ 19)) s (wa, sa) s1 →
        Gives (tileRows y fb tb ((s1.team tb).sramAt + (s.g.sr.get sB).toNat % 2 ^ 19)) s1 (wb, sb) s2 →
        exec (.vmmas fa fb d sA sDA sB sDB p) s = .next (ends (op 1 0 0 (some (wa, wb, sa, sb)) s2)).flush) ∧
      (s.g.pairLost = true →
        exec (.vmmap fa fb d a b p) s = .next ((s.updG (fun x => { x with pairLost := false })).laneTrap w (encodeWord (.vmmap fa fb d a b p)) 10 0 w.run
          (w.active &&& ~~~w.run) { path := w.path.mask, active := w.active, done := w.active &&& ~~~w.run, push := none }).flush) ∧
      (s.g.pairLost = false → s.g.partner = none →
        exec (.vmmap fa fb d a b p) s = .next (s.laneTrap w (encodeWord (.vmmap fa fb d a b p)) 14 0 w.run (w.active &&& ~~~w.run)
          { path := w.path.mask, active := w.active, done := w.active &&& ~~~w.run, push := none }).flush) ∧
      (∀ h, s.g.pairLost = false → s.g.partner = some h → 2048 ≤ s.stageBytes s.g.team → s.waitingVmmap h = none → s.waitingVmmap s.cur = none →
        exec (.vmmap fa fb d a b p) s = .next ({ op 2 a b none s with evs := s.evs }).flush)) ∧
    (tabFind s.matrix id = some m → s.nextMatrix m.group = some (id, m) → (s.group m.group).gstate = .active → s.engineFree (s.engineOf m) = true → m.kind ≠ 2 →
      (∀ e ∈ s.engineQueue (s.engineOf m), (s.group m.group).issuedMx < (s.group e.2.group).issuedMx ∨
        ((s.group m.group).issuedMx = (s.group e.2.group).issuedMx ∧ (s.group m.group).ctx ≤ (s.group e.2.group).ctx)) →
      exec (.matrixStart id) s = .next (s.startMatrix id m (m.images (s.group m.group).lr).2.1)) ∧
    (∀ h jd n, tabFind s.matrix id = some m → s.nextMatrix m.group = some (id, m) → (s.group m.group).gstate = .active → s.engineFree (s.engineOf m) = true →
      m.kind = 2 → (s.group m.group).partner = some h → s.nextMatrix h = some (jd, n) → n.kind = 2 → n.seq = m.seq → n.t0 < m.t0 + 4096 → m.t0 < n.t0 + 4096 → n.fa = m.fa → n.fb = m.fb →
      (s.group h).gstate = .active → s.engineFree (s.engineOf n) = true →
      s.stagingHeld (s.group m.group).team + 2048 ≤ s.stageBytes (s.group m.group).team →
      s.stagingHeld (s.group h).team + 2048 ≤ s.stageBytes (s.group h).team →
      let even := if s.lcoreOf (s.group m.group).team % 2 = 0 then m else n
      let b : Nat → Image := fun i => (s.group even.group).lr.image even.b i
      exec (.matrixStart id) s = .next ((((s.startMatrix id m b).startMatrix jd n b).passVmmap m).passVmmap n)) ∧
    (tabFind s.matrix id = some m → m.started = true → exec (.matrixComplete id) s = .next ({ s with matrix := tabDel s.matrix id }.matrixWrite m)) ∧
    (tabFind s.matrix id = none → exec (.matrixComplete id) s = .fault .notEnabled ∧ exec (.matrixStart id) s = .fault .notEnabled)) ∧
  (∀ (x : LRegs) (fa fb : Fmt) (d : Nat) (mask : Mask) (a b : Nat → Image) (i j : Nat), i < 32 → j < 32 → mask.getLsbD i = true →
    let c := x.get (d + j) i
    let ps := ((imageVals fa (a i)).zip (imageVals fb (b j))).map (fun e => prodVal e.1 e.2)
    let v := if isInt fa && isInt fb then accInt c.1 ps else accFloat c.1 ps
    let bad := c.2 || (a i).any (fun e => e.2) || (b j).any (fun e => e.2)
    ((d + j) * 32 + i, v.1, bad) ∈ (matrixOut x fa fb d mask a b [] []).1 ∧
    (∀ l e, mask.getLsbD l = false → l < 32 → e ∈ (matrixOut x fa fb d mask a b [] []).1 → e.1 % 32 ≠ l))

/-- R75, R285, R292 to R296, R298, R425: tinv, replay, fgrow and frel at levels H and H2: what each does where its operands are in range, and its traps. A frel waits in
place while an entry moves. tinv leaves no cached translation of a page that it names; it and frel complete once the owner's accesses to those pages and frames through
fabric windows have been answered. Level S's policy stands in the operands of the steps that answer (log entry 11). -/
def Obligations.PagingInstructions : Prop :=
  ∀ (s s1 : State) (a b : Nat) (r : Loc × Nat), s.g.level = 1 ∨ s.g.level = 2 →
    (sbad s a = true ∨ sbad s b = true → ∀ i ∈ [Instr.tinv a b, .fgrow a b, .frel a b], Traps i s 3 0) ∧
    (sbad s a = false → sbad s b = false →
    let v := sreg s a
    let n := sreg s b
    let o (t : State) : Nat := t.ownerOf t.cur
    (v.toNat % 65536 = 0 → n.toNat % 65536 = 0 → v.toNat < 2 ^ 56 → v.toNat + n.toNat ≤ 2 ^ 56 → releaseOk s .dev = true →
      let t := released s .dev
      (t.inFlight (o t) v.toNat n.toNat = false → Completes (.tinv a b) s (((t.dropPages (o t) v.toNat n.toNat).commitOwner (o t)).acquired .dev)) ∧
      ∀ e ∈ (t.dropPages (o t) v.toNat n.toNat).tlb, e.owner = o t →
        n ≠ 0 ∧ (v.toNat + n.toNat ≤ e.page * 65536 ∨ (e.page + 2 ^ (fld e.res 56 5)) * 65536 ≤ v.toNat)) ∧
    (v.toNat % 65536 ≠ 0 ∨ n.toNat % 65536 ≠ 0 ∨ 2 ^ 56 ≤ v.toNat ∨ 2 ^ 56 < v.toNat + n.toNat → Traps (.tinv a b) s 14 0) ∧
    (releaseOk s .dev = true →
      let t := released s .dev
      Completes .replay s { t with walks := t.walks ++ (t.parkedWalks (o t)).filter (fun w => !t.walks.contains w) }) ∧
    (fld v 33 31 = 0 → 1 ≤ fld v 0 32 → fld v 0 32 ≤ 65536 → n.toNat % 8 = 0 → Gives (place .gl n 1 8 typesDevice) s r s1 →
      (s1.owner (o s1)).fgrows.length < 8 → releaseOk s1 .dev = true →
      let t := released s1 .dev
      Completes (.fgrow a b) s (t.updOwner (o t) (fun x =>
        { x with fgrows := x.fgrows ++ [{ tier := fld v 32 1, count := fld v 0 32, word := n, level := t.g.level }] }))) ∧
    (let x := s.owner (o s)
     1 ≤ n.toNat → n.toNat ≤ 65536 → x.reserve ≤ v.toNat → v.toNat + n.toNat ≤ x.frames →
     (∀ j, j < n.toNat → (x.entry (v.toNat + j)).st = 1) → s.windowBusy (o s) v.toNat n.toNat = false →
      let t := (s.dropFrames (o s) v.toNat n.toNat).commitOwner (o s)
      Completes (.frel a b) s ((t.setFrames .scrub ((t.owner (o s)).machineFrames v.toNat n.toNat)).updOwner (o s)
        (fun y => y.dropEntries v.toNat n.toNat))) ∧
    (let x := s.owner (o s)
     (n.toNat = 0 ∨ 65536 < n.toNat ∨ v.toNat < x.reserve ∨ x.frames < v.toNat + n.toNat → Traps (.frel a b) s 14 0) ∧
     (1 ≤ n.toNat → n.toNat ≤ 65536 → x.reserve ≤ v.toNat → v.toNat + n.toNat ≤ x.frames →
      ((∃ j, j < n.toNat ∧ (x.entry (v.toNat + j)).st = 0) → Traps (.frel a b) s 14 0) ∧
      ((∀ j, j < n.toNat → (x.entry (v.toNat + j)).st ≠ 0) → (∃ j, j < n.toNat ∧ (x.entry (v.toNat + j)).st = 2) → exec (.frel a b) s = .next s.flush))))

/-- R285, R286, R296, R297: the steps of frames: level S's answer to the oldest frame request, or to none, which is discarded, the start of a move, a line moved, a frame
scrubbed. A moved line reads as it did, at its new place; with the last line the entry names the target, and the source is FREE, scrubbed, or RETIRED. Which frames level
S grants is an operand of the step, which the model lets the agenda choose (log entry 11); the first index of a grant and the growth of Frames are its readings (log entry
25), as are the scrub of a moved frame's source (log entry 43) and that these steps need a service pair that leads (log entry 57). -/
def Obligations.FrameSteps : Prop :=
  ∀ (s : State) (o ofi target line id f : Nat) (retire : Bool) (fs : List Nat) (reason : Nat) (r : Fgrow) (rest : List Fgrow) (m : Move),
    (s.led = false → NotNow (.fgrowAnswer o (.deny reason)) s ∧ NotNow (.fgrowAnswer o (.grant fs)) s) ∧
    ((s.owner o).fgrows = [] → s.led = true → exec (.fgrowAnswer o (.deny reason)) s = .next s ∧ exec (.fgrowAnswer o (.grant fs)) s = .next s) ∧
    ((s.owner o).fgrows = r :: rest → s.led = true →
      let x := { s.owner o with fgrows := rest }
      (1 ≤ reason → reason ≤ 4 → Happens (.fgrowAnswer o (.deny reason)) s
        ((s.setOwner o x).completionWrite o r.level r.word.toNat (BitVec.ofNat 64 (reason * 256 + 2)))) ∧
      (fs.length = r.count → (∀ f ∈ fs, s.frameState f = .free ∧ frameFits r.tier (s.mintOf o) f = true) → fs.Nodup → x.frames + r.count ≤ 2 ^ 26 →
        Happens (.fgrowAnswer o (.grant fs)) s (((s.setFrames .owned fs).setOwnerRec o (x.grant r.tier fs)).completionWrite o r.level r.word.toNat
          (BitVec.ofNat 64 (r.count * 2 ^ 42 + x.frames * 2 ^ 16 + 1))))) ∧
    (let e := (s.owner o).entry ofi
     e.st = 1 → (e.ty = 0 ∨ (e.ty = 1 ∧ retire = true)) → (e.pinned = true → retire = true) → (retire = true → s.led = true) → s.frameState e.frame = .owned →
     s.frameState target = .free → frameFits e.ty (s.mintOf o) target = true → tabFind s.moves id = none → (∀ n, n < id → tabFind s.moves n ≠ none) → id < 4096 →
      let mv : Move := { owner := o, ofi := ofi, source := e.frame, target := target, moved := [], retire := retire }
      exec (.frameMoveStart o ofi target retire) s =
        .next ({ ((s.setFrames .source [e.frame]).setFrames .owned [target]).dropFrames o ofi 1 with moves := tabPut s.moves id mv }.updOwner o
          (fun x => { x with fmap := tabPut x.fmap ofi { e with st := 2, move := id } }))) ∧
    (tabFind s.moves id = some m → line < 128 → line ∉ m.moved → m.moved.length < 127 →
      exec (.lineCopyComplete id line) s =
        .next { s.moveLine (m.source * 128 + line) (m.target * 128 + line) with moves := tabPut s.moves id { m with moved := m.moved ++ [line] } }) ∧
    (tabFind s.moves id = some m → line < 128 → line ∉ m.moved → m.moved.length = 127 →
      let u := s.moveLine (m.source * 128 + line) (m.target * 128 + line)
      let v := if m.retire then u.setFrames .retired [m.source] else (u.scrubFrame m.source).setFrames .free [m.source]
      let w := (({ v with moves := tabDel v.moves id }).dropFrames m.owner m.ofi 1).updOwner m.owner
        (fun x => { x with fmap := tabPut x.fmap m.ofi { x.entry m.ofi with st := 1, move := 0, frame := m.target } })
      Happens (.lineCopyComplete id line) s ((w.transfers.map (fun t => t.1)).foldl State.tryTransfer w) ∧
      ((w.owner m.owner).entry m.ofi).st = 1 ∧ ((w.owner m.owner).entry m.ofi).frame = m.target ∧
      w.frameState m.source = (if m.retire then .retired else .free) ∧ tabFind w.moves id = none) ∧
    (m.source ≠ m.target → ∀ i, i < 512 →
      devByte (s.moveLine (m.source * 128 + line) (m.target * 128 + line)) ((m.target * 128 + line) * 512 + i) = devByte s ((m.source * 128 + line) * 512 + i)) ∧
    (s.frameState f = .scrub → Happens (.scrubComplete f) s (((s.scrubFrame f).landFrame f).settleTeardown f)) ∧
    (s.frameState f ≠ .scrub → NotNow (.scrubComplete f) s) ∧
    (∀ i, i < 65536 → devByte (s.scrubFrame f) (f * 65536 + i) = 0) ∧
    (∀ a, a < f * 65536 ∨ (f + 1) * 65536 ≤ a → devByte (s.scrubFrame f) a = devByte s a)

/-- R305, R306, R309, R310, R312 to R314: rld, rst and ramo whose window and order are reached: a reply slot is held and the request leaves, or waits at its port while
the fabric budget is zero or no port is open; the group goes on with its register pending, and rst and ramo leave their team no longer clean (R212). An access that leaves
takes its pair's route, pays the flits it and its answer have, and numbers those that it sends itself. That an access waits at its port while the budget is zero, and
which port a pair follows, are the model's readings and its choice (log entries 32 and 41). -/
def Obligations.RemoteAccesses : Prop :=
  ∀ (s s1 : State) (op : AOp) (wd : MWidth) (d a b c : Nat) (k : Word) (k' : BitVec 20) (f off ty z : Nat), s.g.level ≠ 3 → sbad s a = false →
    let ea : DWord := sreg s a + k.signExtend 64
    let ea' : DWord := sreg s a + k'.signExtend 64
    let pending (t : State) (r : OutReq) : State :=
      (t.updG (fun x => { x with replies := x.replies ++ [{ slot := z, reg := d, width := wd, tok := t.g.tok, req := t.nextId, got := none }] })).send r
    (ea.toNat % widthBytes wd = 0 → Gives (place .gl ea 0 (widthBytes wd) typesWindow) s (.window f off, ty) s1 → s1.g.freeReply = some z →
      Completes (.rld wd d a k) s (pending s1 (s1.groupReq 0 ea.toNat f off wd z))) ∧
    (ea.toNat % widthBytes wd = 0 → Gives (place .gl ea 1 (widthBytes wd) typesWindow) s (.window f off, ty) s1 →
      let p := sbad s1 d
      let lo : Word := (sreg s1 d).truncate 32
      let hi : Word := (sreg s1 d >>> 32).truncate 32
      let words : List (Word × Byte) := match wd with
        | .d => [(lo, codeFor lo p off), (hi, codeFor hi p (off + 4))]
        | .w => [(lo, codeFor lo p off)]
        | .h => [(BitVec.ofNat 32 (lo.toNat % 65536), 0)]
        | .b => [(BitVec.ofNat 32 (lo.toNat % 256), 0)]
      Completes (.rst wd d a k) s
        (((s1.updG (fun x => { x with acks := x.acks + 1 })).soil s1.g.team).send { s1.groupReq 1 ea.toNat f off wd 0 with words := words, poison := p })) ∧
    (ea'.toNat % widthBytes wd = 0 → Gives (place .gl ea' 2 (widthBytes wd) typesWindow) s (.window f off, ty) s1 → s1.g.freeReply = some z →
      Completes (.ramo op wd d a b c k') s (pending (s1.soil s1.g.team)
        { s1.groupReq 2 ea'.toNat f off wd z with
          aop := op, b := sreg s1 b, c := sreg s1 c, poison := sbad s1 b || (decide (op = .cas) && sbad s1 c) })) ∧
    (ea.toNat % widthBytes wd ≠ 0 → Traps (.rld wd d a k) s 12 0 ∧ Traps (.rst wd d a k) s 12 0) ∧
    (∀ r : OutReq, let q : State := { s with fabricOut := tabPut s.fabricOut s.nextId r, nextId := s.nextId + 1 }
      ((s.owner r.owner).fabLeft = 0 ∨ (∀ n, s.portOpen n = false) → s.send r = q) ∧
      (∀ n, (s.owner r.owner).fabLeft ≠ 0 → r.port = none → r.msg = none → s.route r.pair = some n → (∀ e ∈ s.fabricOut, e.2.pair ≠ r.pair) →
        s.send r = (({ q with
          fabricOut := tabPut q.fabricOut s.nextId { r with port := some n }
          routes := (r.pair, n) :: s.routes.filter (fun e => e.1 != r.pair) }).payFabric (unitDie r.unit) r.owner r.flits).sendFlits n r.sends)) ∧
    (∀ kind va, let r := s.groupReq kind va f off wd z
      r.flits = (if kind = 2 then 4 else 3) ∧ r.sends = (if kind = 0 then 1 else 2) ∧ r.port = none ∧ r.msg = none ∧ r.kind = kind ∧ r.frame = f ∧ r.off = off)

/-- R305, R307, R309, R311, R314: what comes over an open port. A request is refused with the status of the first check it fails, or performed and answered; a reply
reaches its register, an acknowledgement is counted, and what waited for the answer leaves; a word with a wrong code is asked for once more; a header with reserved bits
is discarded. The words of a write land one after the other in the export's frame. R307: an export entry admits an access where it is valid and names the asking device
and owner (status 1), then where it permits the operation (status 3), then where the exporter's frame is over device memory (status 2). The owner that an incoming
request's events name, and what becomes of a reply for registers set aside, are the model's readings (log entries 37 and 38). -/
def Obligations.FabricMessages : Prop :=
  (∀ (s : State) (m : FabricMsg) (id : Nat) (r : OutReq) (o st : Nat) (l : Loc), s.portOpen m.port = true →
    let all : List Instr := [.fabricRead m, .fabricWrite m, .fabricAtomic m, .readReply m, .writeAcknowledgement m, .atomicReply m]
    let answer (st : Nat) (ws : List (Word × Byte)) : FabricMsg := { m with status := st, words := ws, opB := 0, opC := 0, poisonBC := false }
    let sends (t : State) (x : FabricMsg) : State := { t with outbox := t.outbox ++ [x] }.sendFlits x.port (1 + (x.words.length + 5) / 6)
    (m.reserved ≠ 0 → ∀ i ∈ all, Happens i s (s.discard m.port)) ∧
    (m.reserved = 0 →
      (s.exported m 0 = .error st → exec (.fabricRead m) s = .next (sends s (answer st []))) ∧
      (s.exported m 1 = .error st → exec (.fabricWrite m) s = .next (sends s (answer st []))) ∧
      (s.exported m 2 = .error st → exec (.fabricAtomic m) s = .next (sends s (answer st []))) ∧
      (s.exported m 0 = .ok (o, l) → m.width = .d → Happens (.fabricRead m) s (sends s (answer 0 [s.readLoc l.word, s.readLoc (l.word.plus 4)]))) ∧
      (s.exported m 0 = .ok (o, l) → m.width ≠ .d → Happens (.fabricRead m) s (sends s (answer 0 [s.readLoc l.word]))) ∧
      (s.exported m 1 = .ok (o, l) → m.width = .w ∨ m.width = .d → Happens (.fabricWrite m) s (sends (s.landWrite m 0 m.words) (answer 0 []))) ∧
      (∀ k w c ws, let last (t : State) : State := t.landWrite m (k + 1) ws
        s.landWrite m k [] = s ∧
        (s.exported { m with offset := m.offset + 4 * k } 1 = .ok (o, l) → m.offset + 4 * k < 65536 → k < 132 → s.landWrite m k ((w, c) :: ws) = last (s.homeWrite l w c)) ∧
        (65536 ≤ m.offset + 4 * k → s.landWrite m k ((w, c) :: ws) = last s)) ∧
      (∀ w c old bad t, s.exported m 1 = .ok (o, l) → widthBytes m.width < 4 → m.words = [(w, c)] → s.homeRead o l.word = ((old, bad), t) →
        let x := mergeBytes old l.byte (widthBytes m.width) w.toNat
        Happens (.fabricWrite m) s (sends (t.homeWrite l.word x (codeFor x (bad || m.poisonBC) l.word.off)) (answer 0 []))) ∧
      (∀ ws t, s.exported m 2 = .ok (o, l) → s.outerAtomic o l m.aop m.width m.opB m.opC m.poisonBC = (ws, t) →
        Happens (.fabricAtomic m) s (sends t (answer 0 ws))) ∧
      (let left : State := { s with fabricOut := tabDel s.fabricOut id }.departs
       let told (es : List Nat) : State := es.foldl (fun t e => t.replyEvent r e) left
       (s.request m 0 = some (id, r) → r.copy = none → m.status ≠ 0 → Happens (.readReply m) s ((left.replyEvent r 7).deliverReply r.group id 0 true)) ∧
       (∀ v p es, s.request m 0 = some (id, r) → r.copy = none → m.status = 0 →
         checkWords (if r.retry then some r.words else none) (r.off / 4 * 4) m.words = some (v, p, es) →
         Happens (.readReply m) s ((told es).deliverReply r.group id (widthValue r.width r.off v) p)) ∧
       (s.request m 0 = some (id, r) → r.copy = none → m.status = 0 → checkWords (if r.retry then some r.words else none) (r.off / 4 * 4) m.words = none →
         Happens (.readReply m) s ({ s with fabricOut := tabPut s.fabricOut id { r with retry := true, words := m.words, port := none } }.depart id)) ∧
       (∀ w c e k, s.request m 0 = some (id, r) → r.copy = some (e, k) → m.words = [(w, c)] →
         Happens (.readReply m) s (left.copyAnswer e k m.status (some (w, c)))) ∧
       (∀ e k, s.request m 1 = some (id, r) → r.copy = some (e, k) → Happens (.writeAcknowledgement m) s (left.copyAnswer e k m.status none)) ∧
       (s.request m 1 = some (id, r) → r.copy = none → m.status = 0 → (left.group r.group).gstate ≠ .free →
         Happens (.writeAcknowledgement m) s ((left.updGroup r.group (fun x => { x with acks := x.acks - 1 })).settleOf r.team)) ∧
       (∀ v p es, s.request m 2 = some (id, r) → m.status = 0 → checkWords (some m.words) (r.off / 4 * 4) m.words = some (v, p, es) →
         Happens (.atomicReply m) s ((told es).deliverReply r.group id (widthValue r.width r.off v) p))))) ∧
  (∀ (s : State) (m : FabricMsg) (l : Loc) (ty : Nat),
    let e : DWord := tabGet 0 s.exports m.index
    (e.getLsbD 63 = false ∨ fld e 52 8 ≠ m.owner ∨ fld e 42 10 ≠ m.source → ∀ k, s.exported m k = .error 1) ∧
    (e.getLsbD 63 = true → fld e 52 8 = m.owner → fld e 42 10 = m.source →
      (e.getLsbD 62 = false → s.exported m 0 = .error 3) ∧ (e.getLsbD 61 = false → s.exported m 1 = .error 3) ∧
      ((e.getLsbD 60 && e.getLsbD 61 && e.getLsbD 62) = false → s.exported m 2 = .error 3) ∧
      ((e.getLsbD 60 && e.getLsbD 61 && e.getLsbD 62) = true →
        (s.ownerLoc (fld e 34 8) (fld e 0 26) m.offset = none → ∀ k, k < 3 → s.exported m k = .error 2) ∧
        (s.ownerLoc (fld e 34 8) (fld e 0 26) m.offset = some (l, ty) → ∀ k, k < 3 →
          s.exported m k = if ty ≤ 1 then .ok (fld e 34 8, l) else .error 2))))

/-- R178, R179, R202, R209, R213, R214: the instructions of a kernel at level U outside a handler; elsewhere each takes trap 15. spawn gives the new group the eight
registers, -1 where the team has no place. Trap 15 at level S (log entry 7), the waiters that an ended group leaves (log entry 42) and the state that an exited team keeps
(log entry 50) are the model's readings, and so is the place of lane-private memory (log entry 9). -/
def Obligations.TeamInstructions : Prop :=
  ∀ (s : State) (d a b : Nat), let t := s.g.team
    (s.g.level = 0 → s.g.tr.tctl.getLsbD 1 = false → s.g.lanesIdle = true →
      Completes .commit s (s.commit t) ∧
      (s.liveChild t = false → acquireOk s .sys = true → Completes .cwait s (s.acquired .sys)) ∧
      (s.liveChild t = true → exec .cwait s = .next s.flush) ∧
      (1 < (s.groupsOf t).length → Happens .gexit s (s.freeGroup s.cur)) ∧
      ((s.groupsOf t).length ≤ 1 → s.pushes = [] → Happens .gexit s (s.exitTeam t)) ∧
      ((∀ g ∈ s.groupsOf t, g = s.cur ∨ (s.group g).level = 0) → s.pushes = [] → Happens .texit s (s.exitTeam t)) ∧
      (sbad s a = false → (sreg s a).toNat % 4 ≠ 0 → Traps (.spawn d a b) s 12 0) ∧
      (sbad s a = false → (sreg s a).toNat % 4 = 0 →
        let live := (s.groupsOf t).map (fun g => (s.group g).idx)
        ((s.descOf t).max ≤ live.length → Completes (.spawn d a b) s (setReg s d (-1) false)) ∧
        (∀ n, live.length < (s.descOf t).max → n < (s.descOf t).max → n ∉ live → (∀ k, k < n → k ∈ live) →
          let r : SRegs := (List.range 8).foldl (fun r i => r.put (i + 1) (sreg s (b + i)) (sbad s (b + i))) SRegs.zero
          let g : Group := { Group.init with
            team := t, idx := n, ctx := s.freeCtx (s.team t).core, gstate := .ready, sr := r, pc := sreg s a, utrap := s.g.utrap, fpen := s.g.fpen,
            tok := s.nextId + 1, wake := s.steps, privAt := s.privAt t n, cls := s.g.cls }
          Completes (.spawn d a b) s
            ({ s with groups := tabPut s.groups s.nextId g, nextId := s.nextId + 2 }.setSr (s.g.sr.put d (BitVec.ofNat 64 n) false))))) ∧
    (s.g.level ≠ 0 ∨ s.g.tr.tctl.getLsbD 1 = true → ∀ i ∈ [Instr.commit, .cwait, .gexit, .texit, .spawn d a b, .launch a], Traps i s 15 0)

/-- R187, R209, R213, R215: launch by group 0 of a team reads its record and either captures it as a live child or writes its refusal with the condition that failed. The
position that the word carries is a value nothing constrains (log entry 2). That free value, and the placement of a child, are the model's choices (log entries 2 and 11).
-/
def Obligations.LaunchInstruction : Prop :=
  ∀ (s s1 s2 t3 : State) (a : Nat) (l : Loc) (ty : Nat) (ws : List Word) (dep : Deps),
    s.g.level = 0 → s.g.tr.tctl.getLsbD 1 = false →
    (s.g.idx ≠ 0 → Traps (.launch a) s 14 0) ∧ (s.g.idx = 0 → 10 ≤ (s.kernelOf s.g.team).depth → Traps (.launch a) s 9 0) ∧
    (s.g.idx = 0 → (s.kernelOf s.g.team).depth < 10 → sbad s a = true → Traps (.launch a) s 3 0) ∧
    (s.g.idx = 0 → (s.kernelOf s.g.team).depth < 10 → sbad s a = false → (sreg s a).toNat % 64 ≠ 0 → Traps (.launch a) s 12 0) ∧
    (s.g.idx = 0 → (s.kernelOf s.g.team).depth < 10 → sbad s a = false → (sreg s a).toNat % 64 = 0 → Gives (place .gl (sreg s a) 0 64 typesDevice) s (l, ty) s1 → s1.g.lanesIdle = true →
      Gives (descWords 1 l 16) s1 ws s2 → releaseOk s2 .dev = true →
      let t := released s2 .dev
      let o := t.ownerOf t.cur
      let r := parseLaunch ((List.range 8).map (dwordAt ws))
      let t2 : State := { t with freeIdx := t.freeIdx + 2 }
      let pos := ((Config.freeWord t.freeIdx).toNat + 2 ^ 32 * (Config.freeWord (t.freeIdx + 1)).toNat) % 2 ^ 48
      t.waiting o (t.dieOf t.cur) < 64 → r.completion.toNat % 8 = 0 →
        (r.fails ≠ 0 → releaseOk t2 .sys = true → Completes (.launch a) s ((released t2 .sys).recordWord o r.completion pos 3 r.fails).2) ∧
        (r.fails = 0 → t2.readDeps o r.used = (dep, t3) → dep.detail ≠ 0 → releaseOk t3 .sys = true →
          Completes (.launch a) s ((released t3 .sys).recordWord o r.completion pos 3 dep.detail).2) ∧
        (r.fails = 0 → t2.readDeps o r.used = (dep, t3) → dep.detail = 0 → Completes (.launch a) s (t3.addKernel
          { owner := o, kstate := .captured, lrec := r, pos := pos, queue := none, parent := some t3.g.team, depth := (t3.kernelOf t3.g.team).depth + 1,
            cls := (t3.kernelOf t3.g.team).cls, die := t.dieOf t.cur, desc := none })))

/-- R180, R181, R191: qpost: -2 where no queue of the owner has that header, -1 where its ring is full; else the record is written to the slot of the position taken, with
the sequence word last, and claim and tail move on. The atomics that other teams hold on the header's line come first (R259). -/
def Obligations.QueuePost : Prop :=
  ∀ (s s1 s2 s3 u s5 s6 s7 : State) (d a b : Nat) (l r : Loc) (x y : Nat) (ws : List Word) (n : Nat) (q : Queue) (p tl h : DWord) (z : Loc × Nat),
    s.g.level ≠ 3 → sbad s a = false → sbad s b = false → (sreg s a).toNat % 64 = 0 → (sreg s b).toNat % 64 = 0 →
    Gives (place .gl (sreg s a) 2 64 typesDevice) s (l, x) s1 → Gives (place .gl (sreg s b) 0 64 typesWide) s1 (r, y) s2 →
    Gives (descWords 1 r 16) s2 ws s3 → releaseOk s3 .dev = true →
    let s4 := released s3 .dev
    (s4.queueAt (s4.ownerOf s4.cur) (sreg s a) = none → Completes (.qpost d a b) s (setReg s4 d (-2) false)) ∧
    (s4.queueAt (s4.ownerOf s4.cur) (sreg s a) = some (n, q) → Gives (settleAtomics l) s4 () u → Gives (homeDword (l.plus 0x10)) u p s5 → Gives (homeDword (l.plus 0x18)) s5 tl s6 →
      Gives (homeDword (l.plus 0x20)) s6 h s7 →
      (h.toNat + 2 ^ q.logCap ≤ p.toNat → Completes (.qpost d a b) s (setReg s7 d (-1) false)) ∧
      (∀ s8, p.toNat < h.toNat + 2 ^ q.logCap →
        Gives (place .gl (BitVec.ofNat 64 (q.ring.toNat + 64 * (p.toNat % 2 ^ q.logCap))) 1 64 typesWide) s7 z s8 →
        Completes (.qpost d a b) s (setReg (((s8.putHome z.1 ((List.range 7).map (dwordAt ws) ++ [p + 1])).agentWrite64 (l.plus 0x10) (p + 1)).agentWrite64
          (l.plus 0x18) (tl + 1)) d p false)))

/-- R171, R229, R232 to R236: vwait gives 0 for a wake that came while it was interrupted, 1 where the word differs, 2 where the table is full, and parks the group as a
waiter of the word otherwise, once its lane stream has no block that can issue (log entry 17); vwake wakes the oldest waiters of its key and gives their number. The wake
counts of the interrupted ones are written at their homes and wake what is armed on them (R235). That the waiters of an ended group leave the table is the model's reading
(log entry 42). -/
def Obligations.WaitAndWake : Prop :=
  ∀ (s s1 : State) (d a b : Nat) (ea v : DWord) (ma : Nat), Gives (waitWord a b) s (ea, v, ma) s1 →
    let o := s1.ownerOf s1.cur
    let va := s1.wakeCountVa s1.cur s1.g.level
    let done (t : State) (st : DWord) : Prop := Completes (.vwait d a b) s (setReg ((switched t).acquired .dev) d st false)
    (s1.getReserve64 o va ≠ 0 → done (s1.putReserve64 o va 0) 0) ∧
    (∀ w s2, s1.getReserve64 o va = 0 → Gives (homeDword (.dev ma)) (s1.leaveWaits s1.cur s1.g.level) w s2 →
      (w ≠ v → done s2 1) ∧ (w = v → s2.joinWaits o ea ma = none → done s2 2) ∧
      (∀ s3, w = v → s2.joinWaits o ea ma = some s3 → s3.lanesStuck = true →
        exec (.vwait d a b) s = .next (parked s3 (.word d)).flush)) ∧
    (releaseOk s1 .dev = true →
      let t := released s1 .dev
      let ow := t.ownerOf t.cur
      let hit := ((t.waits.find? (fun e => e.owner == ow && e.va == ea)).map (fun e => e.waiters)).getD []
      let n := min v.toNat hit.length
      let t' : State := { t with waits := t.waits.filterMap (fun e => if e.owner = ow && e.va = ea then dropWaiters e n else some e) }
      let woken : State := (hit.take n).foldl State.wakeWaiter t'
      Completes (.vwake d a b) s (setReg (t.wakeOldest ow ea n) d (BitVec.ofNat 64 n) false) ∧
      ((∀ x ∈ hit.take n, x.interrupted = false) → t.wakeOldest ow ea n = woken) ∧
      t.wakeOldest ow ea n = woken.wakeWords ((hit.take n).filterMap t.countWord) (n + (t.waits.map (fun e => e.waiters.length)).sum + 1))

/-- R216, R218, R220 to R224: the barrier instructions on a well-formed word of the set's scratchpads: barinit writes it, an arrival counts and the last one flips the
phase and wakes every group that waits, a count that is not the phase's takes trap 8, a malformed word trap 14; bwait and arrivew go on once the phase has flipped and
park before, where no block of the group's lane stream can issue. R216 to R218: an arrival. The first one of a phase sets its count, arrivals of that count are counted,
the last flips the phase and leaves the word ready for the next; another count is none. The fields of a word are those of the table. That a running block whose paths all
stall on their queues keeps no group from parking is the model's reading (log entry 17). -/
def Obligations.BarrierInstructions : Prop :=
  (∀ (s : State) (a b t o : Nat) (v : DWord),
    s.g.level ≠ 3 → sbad s a = false → sbad s b = false → (sreg s a).toNat % 8 = 0 → s.spacePlace s.cur 0 .cl (sreg s a).toNat = some (.sram t o) →
    Gives (homeDword (.sram t o)) s v s →
    let n := (sreg s b).toNat
    let w := BarWord.ofWord v
    let sc : MScope := if t = s.g.team then .team else .clus
    let put (s : State) (w : BarWord) (pending flip : Bool) : State :=
      let s := (s.putShared t o w.toWord).updG (fun x => { x with arrival := { addr := sreg s a, phase := (BarWord.ofWord v).phase, set := true, pending := pending } })
      if flip then s.wakeBarrier t o else s
    let cleared (s : State) : State := s.updG (fun x => { x with arrival := { x.arrival with pending := false } })
    (n ≤ 65535 → Completes (.barinit a b) s ((s.putShared t o (BarWord.init n).toWord).wakeBarrier t o)) ∧
    (65535 < n → Traps (.barinit a b) s 14 0 ∧ Traps (.arrive a b) s 14 0 ∧ Traps (.arrivew a b) s 14 0) ∧
    (n = 0 → Traps (.arrive a b) s 14 0 ∧ Traps (.arrivew a b) s 14 0) ∧
    (w.wf = false → 1 ≤ n → n ≤ 65535 → Traps (.arrive a b) s 14 0 ∧ Traps (.arrivew a b) s 14 0) ∧ (w.wf = false → Traps (.bwait a) s 14 0) ∧
    (w.wf = true → 1 ≤ n → n ≤ 65535 →
      (w.arrive n = none → Traps (.arrive a b) s 8 0 ∧
        ((s.g.arrival.set && s.g.arrival.pending && s.g.arrival.addr == sreg s a) = false → Traps (.arrivew a b) s 8 0)) ∧
      (∀ w' flip, w.arrive n = some (w', flip) → releaseOk s sc = true → Completes (.arrive a b) s (put (released s sc) w' false flip)) ∧
      (s.g.arrival.set = true → s.g.arrival.pending = true → s.g.arrival.addr = sreg s a → w.phase ≠ s.g.arrival.phase →
        Completes (.arrivew a b) s (cleared (switched s))) ∧
      (∀ w' flip, (s.g.arrival.set && s.g.arrival.pending && s.g.arrival.addr == sreg s a) = false → w.arrive n = some (w', flip) → releaseOk s sc = true →
        (flip = true → Completes (.arrivew a b) s (cleared (switched (put (released s sc) w' true true)))) ∧
        (flip = false → (put (released s sc) w' true false).lanesStuck = true → exec (.arrivew a b) s = .next (parked (put (released s sc) w' true false) (.barrier t o w.phase)).flush))) ∧
    (w.wf = true → (s.g.arrival.set = false ∨ s.g.arrival.addr ≠ sreg s a) → Traps (.bwait a) s 14 0) ∧
    (w.wf = true → s.g.arrival.set = true → s.g.arrival.addr = sreg s a →
      (w.phase ≠ s.g.arrival.phase → Completes (.bwait a) s (cleared (switched s))) ∧
      (w.phase = s.g.arrival.phase → s.lanesStuck = true → exec (.bwait a) s = .next (parked s (.barrier t o s.g.arrival.phase)).flush))) ∧
  (∀ (n k : Nat) (p : Bool) (w : BarWord),
    let unset (p : Bool) (c : Nat) : BarWord := { count := c, arrivals := 0, phase := p, fixed := false, reserved := 0 }
    let with_ (k : Nat) : BarWord := { count := n, arrivals := k, phase := p, fixed := true, reserved := 0 }
    (∀ c, (unset p c).arrive 1 = some (unset (!p) c, true) ∧ (2 ≤ n → (unset p c).arrive n = some (with_ 1, false))) ∧
    (k + 1 < n → (with_ k).arrive n = some (with_ (k + 1), false)) ∧ (k + 1 = n → (with_ k).arrive n = some (unset (!p) n, true)) ∧
    (∀ m, m ≠ n → (with_ k).arrive m = none) ∧
    (w.count < 65536 → w.arrivals < 65536 → w.reserved < 2 ^ 30 → BarWord.ofWord w.toWord = w) ∧
    (n < 65536 → BarWord.wf (BarWord.init n) = true) ∧
    (∀ m w' f, w.wf = true → w.count < 65536 → 1 ≤ m → m < 65536 → w.arrive m = some (w', f) → w'.wf = true ∧ (f = true ↔ w'.phase ≠ w.phase)))

/-- R225 to R227, R425: bmin lowers a bound word and sends its value to every core of the set where it is below, and MIRROR_PUSH lets one arrive, before 64 cycles have
passed; bread reads the core's mirror, all ones where the slot is not the set's. -/
def Obligations.BoundWords : Prop :=
  ∀ (s : State) (d k a b t o j : Nat) (w : DWord) (p : Push), s.g.level ≠ 3 →
    (sbad s a = false → sbad s b = false → (sreg s a).toNat % 8 = 0 → s.spacePlace s.cur 0 .cl (sreg s a).toNat = some (.sram t o) →
      Gives (homeDword (.sram t o)) s w s →
      let s' := s.soil s.g.team
      let s1 := s'.putShared t o (sreg s b)
      ((sreg s b).toNat < w.toNat → Completes (.bmin k a b) s { s1 with
        pushes := s1.pushes ++ (s1.setCores s.g.team).map (fun c =>
          { core := c, slot := k, tag := s1.mirrorTag s.g.team, value := sreg s b, groups := [s1.cur], since := s1.cycle.toNat }) }) ∧
      (w.toNat ≤ (sreg s b).toNat → Completes (.bmin k a b) s { s' with pushes := s'.pushes.map (fun p =>
        if p.slot = k && p.tag = s'.mirrorTag s.g.team && !p.groups.contains s'.cur then { p with groups := p.groups ++ [s'.cur] } else p) })) ∧
    (∀ p ∈ s.landDue.pushes, s.cycle.toNat < p.since + 64) ∧
    (let m := tabGet { tag := none, value := 0 } s.mirrors ((s.team s.g.team).core * 8 + k)
     Completes (.bread d k) s (setReg s d (if m.tag = some (s.mirrorTag s.g.team) then m.value else -1) false)) ∧
    (s.pushes[j]? = some p →
      let i := p.core * 8 + p.slot
      exec (.mirrorPush j) s = .next { s with
        pushes := s.pushes.eraseIdx j, mirrors := tabPut s.mirrors i ((tabGet { tag := none, value := 0 } s.mirrors i).meet p.tag p.value) }) ∧
    (∀ (m : Mirror) (tag : Nat × Nat × Nat) (v : DWord), (m.meet tag v).tag = some tag ∧ (m.meet tag v).value.toNat ≤ v.toNat ∧
      (m.tag = some tag → (m.meet tag v).value.toNat = min v.toNat m.value.toNat)) ∧
    (s.pushes[j]? = none → NotNow (.mirrorPush j) s)

/-- R192, R195 to R197: the deque instructions on a header that passes its checks. dqpush writes entry bottom and sets its flag, or clears it where the deque is full;
dqpop takes the entry below bottom, dqsteal the one at top; an empty deque gives zeros and a clear flag. The byte offset that keys the stored codes, of cluster-shared
deques too, is the model's reading of R103 (log entry 9). -/
def Obligations.DequeInstructions : Prop :=
  ∀ (s s1 s2 s3 s4 s5 : State) (d f a b : Nat) (h : Deque) (l : Loc) (v0 v1 : DWord) (p0 p1 : Bool), Gives (dqOpen a) s h s1 →
    let flag (t : State) (x : Bool) : State := t.setSr (t.g.sr.putFlag f x)
    let field (t : State) (off : Nat) (v : DWord) : State := t.agentWrite64 (h.loc.plus off) v
    let word (t : State) (l : Loc) (v : DWord) (p : Bool) : State :=
      (t.agentWrite l (v.truncate 32) (codeFor (v.truncate 32) p l.off)).agentWrite (l.plus 4) ((v >>> 32).truncate 32)
        (codeFor ((v >>> 32).truncate 32) p (l.plus 4).off)
    let empty : State := setReg (setReg (flag s1 false) d 0 false) (d + 1) 0 false
    let takes (t : State) : State := flag (setReg (setReg t d v0 p0) (d + 1) v1 p1) true
    (h.top.toNat + h.cap ≤ h.bottom.toNat → Completes (.dqpush f a b) s (flag s1 false)) ∧
    (h.bottom.toNat < h.top.toNat + h.cap → Gives (h.entry h.bottom 1) s1 l s2 → releaseOk s2 h.scope = true →
      let t := released s2 h.scope
      Completes (.dqpush f a b) s
        (flag (field (word (word t l (sreg t b) (sbad t b)) (l.plus 8) (sreg t (b + 1)) (sbad t (b + 1))) 0x18 (h.bottom + 1)) true)) ∧
    (h.bottom = h.top → Completes (.dqpop d a f) s empty ∧ Completes (.dqsteal d a f) s (field empty 0x28 (h.empties + 1))) ∧
    (h.bottom ≠ h.top → Gives (h.entry (h.bottom - 1) 0) s1 l s2 → Gives (homeDwordP l) (field s2 0x18 (h.bottom - 1)) (v0, p0) s3 →
      Gives (homeDwordP (l.plus 8)) s3 (v1, p1) s4 → Completes (.dqpop d a f) s ((takes s4).acquired h.scope)) ∧
    (h.bottom ≠ h.top → Gives (h.entry h.top 0) s1 l s2 →
      Gives (homeDwordP l) (field (field s2 0x10 (h.top + 1)) 0x20 (h.steals + 1)) (v0, p0) s3 → Gives (homeDwordP (l.plus 8)) s3 (v1, p1) s5 →
      Completes (.dqsteal d a f) s ((takes s5).acquired h.scope))

/-- R171, R316, R317, R386 to R389, R394 to R398: a copy whose operands are in range is issued while the group and the engine have room, and waits in place before; bclose
closes the batch of pending operations; waitb and waitk go on once the batches or that many copies are complete, with the acquire of their join (R264), and park before;
coll issues a collective whose descriptor is well formed. R316, R317: coll with a descriptor that the table admits and whose addresses are device memory issues the
collective and gives its number. Whether a switch context is free is a value nothing constrains (log entry 2). A descriptor outside device memory takes trap 14 by the
model's reading (log entry 18), and that a running block whose paths all stall on their queues keeps no group from parking is its reading (log entry 17). -/
def Obligations.CopyInstructions : Prop :=
  (∀ (s s1 s2 s3 : State) (d a b : Nat) (l : Loc) (ty : Nat) (ws : List Word) (c : Copy) (q : Loc × Nat), s.g.level ≠ 3 →
    let dst := sreg s d
    let src := sreg s a
    let n := sreg s b
    (sbad s d = false → sbad s a = false → sbad s b = false →
      (dst.toNat % 4 = 0 → src.toNat % 4 = 0 → n.toNat % 4 = 0 → n.toNat ≤ 2 ^ 36 → dst.toNat < 2 ^ 56 → src.toNat < 2 ^ 56 →
        dst.toNat + n.toNat ≤ 2 ^ 56 → src.toNat + n.toNat ≤ 2 ^ 56 →
        let c := s.newCopy dst src n.toNat 1 1 (n.toNat / 4)
        (copyRoom s c = true → Completes (.cpy d a b) s (issued s c)) ∧ (copyRoom s c = false → exec (.cpy d a b) s = .next s.flush)) ∧
      (dst.toNat % 4 ≠ 0 ∨ src.toNat % 4 ≠ 0 ∨ n.toNat % 4 ≠ 0 → Traps (.cpy d a b) s 12 0) ∧
      (n.toNat % 64 = 0 → dst.toNat % 4 = 0 → src.toNat % 4 = 0 → Gives (place .gl n 0 64 (fun _ => true)) s (l, ty) s1 → ty ≤ 1 →
        Gives (descWords 1 l 16) s1 ws s2 →
        let goes (three : Bool) (i : Instr) : Prop := parseCopy three (s2.newCopy dst src 0 1 1 0) ws = some c →
          s2.copyRange c c.dspace c.dstAt = true → s2.copyRange c c.sspace c.srcAt = true →
          (c.completion = 0 → copyRoom s2 c = true → Completes i s (issued s2 c)) ∧
          (c.completion ≠ 0 → Gives (place .gl c.completion 1 8 (fun _ => true)) s2 q s3 → q.2 ≤ 1 → copyRoom s3 c = true → Completes i s (issued s3 c))
        goes false (.cpy2 d a b) ∧ goes true (.cpy3 d a b)) ∧
      (n.toNat % 64 = 0 → dst.toNat % 4 = 0 → src.toNat % 4 = 0 → Gives (place .gl n 0 64 (fun _ => true)) s (l, ty) s1 → 2 ≤ ty → ∀ i ∈ [Instr.cpy2 d a b, .cpy3 d a b],
        exec i s = .next (s1.takeTrap s1.cur (scalarTrap s1.g.pc (encodeWord i) (wordBytes i) 14 0)).flush)) ∧
    Completes (.bclose d) s (s.updG (fun x =>
      { x with n := x.n + 1, batches := tabPut x.batches (x.n + 1) x.pending, pending := [], sr := x.sr.put d (BitVec.ofNat 64 (x.n + 1)) false })) ∧
    (sbad s a = false → src.toNat ≤ s.g.n →
      (s.batchesDone s.cur src.toNat = true → Completes (.waitb a) s ((switched s).dropCopies (s.dieOf s.cur))) ∧
      (s.batchesDone s.cur src.toNat = false → s.lanesStuck = true → exec (.waitb a) s = .next (parked s (.batch src.toNat)).flush)) ∧
    (sbad s a = false → s.g.n < src.toNat → Traps (.waitb a) s 14 0) ∧
    (sbad s a = false → src.toNat ≤ s.g.k → Completes (.waitk a) s (((switched s).dropCopies (s.dieOf s.cur)).updG (fun x => { x with k := x.k - src.toNat }))) ∧
    (sbad s a = false → s.g.k < src.toNat → src.toNat ≤ s.g.k + (s.copies.filter (fun c => c.2.group == s.cur && c.2.tok == s.g.tok)).length →
      s.lanesStuck = true → exec (.waitk a) s = .next (parked s (.copies src.toNat)).flush) ∧
    (sbad s a = false → s.g.k + (s.copies.filter (fun c => c.2.group == s.cur && c.2.tok == s.g.tok)).length < src.toNat → Traps (.waitk a) s 14 0)) ∧
  (∀ (s s1 s2 s3 s4 s5 : State) (d a : Nat) (l : Loc) (ty : Nat) (ws : List Word) (c : Coll) (m : Comm),
    s.g.level ≠ 3 → sbad s a = false → ((sreg s a).toNat % 64 ≠ 0 → Traps (.coll d a) s 12 0) ∧
    ((sreg s a).toNat % 64 = 0 → Gives (place .gl (sreg s a) 0 64 (fun _ => true)) s (l, ty) s1 → ty ≤ 1 → Gives (descWords 1 l 16) s1 ws s2 →
    (s2.parseColl ws (Config.freeBit s2.freeIdx) = some (c, m) → Gives (collAddress c.src 0 4) s2 () s3 → Gives (collAddress c.dst 1 4) s3 () s4 →
      Gives (collAddress c.completion 1 8) s4 () s5 → releaseOk s5 .dev = true →
      let t := released s5 .dev
      let c' : Coll := { c with switched := c.switched && m.contexts != 0 }
      Completes (.coll d a) s (({ t with colls := tabPut t.colls t.nextId c', nextId := t.nextId + 1, freeIdx := t.freeIdx + 1 }.soil c.team).setSr
        (t.g.sr.put d (BitVec.ofNat 64 (c.comm * 2 ^ 56 + c.seq)) false))) ∧
    (s2.parseColl ws (Config.freeBit s2.freeIdx) = none →
      exec (.coll d a) s = .next (s2.takeTrap s2.cur (scalarTrap s2.g.pc (encodeWord (.coll d a)) (wordBytes (.coll d a)) 14 0)).flush)))

/-- R359, R361, R410, R411, R414: pair makes its group ready, finds its partner where that is ready within its 4,096 cycles, and both go on at least 8 cycles after the
later of the two was ready; it waits in place before, and takes trap 10 where the pairing was lost meanwhile. At level S pset writes a partition register of every die it
covers, with trap 14 on a value outside the table, and fxfer begins a frame transfer. What the service pair may reach, and its traps, are the model's readings (log entry
7); how a frame transfer ends is its choice (log entry 25). -/
def Obligations.PairAndServiceInstructions : Prop :=
  ∀ (s s1 s2 : State) (a b h r : Nat) (l : Loc) (ty : Nat) (ws : List Word),
    let now := s.cycle.toNat
    (s.g.level ≠ 3 → s.g.lanesIdle = true → (s.lcoreOf s.g.team) ^^^ 1 < (s.setTeams s.g.team).length →
      (s.g.pairReady = none →
        let t := (s.losePair s.cur).updG (fun x => { x with pairReady := some now })
        (t.partnerOf t.cur = some h → t.awaitsPair h now = true →
          Happens .pair s ((t.updGroup h (fun x => x.matchWith t.cur now)).updG (fun x => x.matchWith h now))) ∧
        ((∀ h, t.partnerOf t.cur = some h → t.awaitsPair h now = false) → Happens .pair s t)) ∧
      (∀ m, s.g.pairReady = some r → s.g.pairLost = false → s.matched s.cur = some (h, m) → m + 8 ≤ now → Happens .pair s (s.completePair s.cur h)) ∧
      (s.g.pairReady = some r → s.g.pairLost = false → (∀ h m, s.matched s.cur = some (h, m) → now < m + 8) → exec .pair s = .next s.flush) ∧
      (s.g.pairReady = some r → s.g.pairLost = true →
        let t := s.updG (fun x => { x with pairLost := false, pairReady := none })
        Happens .pair s (t.takeTrap t.cur (scalarTrap t.g.pc (encodeWord .pair) (wordBytes .pair) 10 0)))) ∧
    (∀ (x : Group) (n m : Nat), let y := x.paired h
      y.pc = x.pc + 4 ∧ y.pairReady = none ∧ y.partner = some h ∧ y.seq = 0 ∧ y.pairMatch = none ∧ (x.matchWith h m).pairMatch = some (h, m) ∧
      (s.awaitsPair n m = true ↔ s.matched n = none ∧ ∃ t0, (s.group n).pairReady = some t0 ∧ m < t0 + 4096)) ∧
    (∀ g, g ≠ h → ((s.completePair g h).group g).partner = some h ∧ ((s.completePair g h).group h).partner = some g) ∧
    (∀ g m, s.matched g = some (h, m) ↔ (s.group g).pairMatch = some (h, m) ∧ (s.group h).pairMatch = some (g, m)) ∧
    (s.g.level = 3 → Traps .pair s 15 0) ∧
    (s.g.level = 3 → sbad s a = false → sbad s b = false →
      (∀ t, s.psetPut (s.dieOf s.cur) (sreg s a).toNat (sreg s b) = some t → Completes (.pset a b) s t) ∧
      (s.psetPut (s.dieOf s.cur) (sreg s a).toNat (sreg s b) = none → Traps (.pset a b) s 14 0) ∧
      ((sreg s a).toNat % 8 = 0 → (sreg s b).toNat ≤ 255 → Gives (place .gl (sreg s a) 0 8 (fun _ => true)) s (l, ty) s1 → Gives (descWords 1 l 8) s1 ws s2 →
        ∀ t, parseTransfer ws (sreg s b).toNat (s2.dieOf s2.cur) = some t →
          Completes (.fxfer a b) s ({ s2 with transfers := tabPut s2.transfers s2.nextId t, nextId := s2.nextId + 1 }.tryTransfer s2.nextId))) ∧
    (∀ d v n t, d < 4 → s.psetPut d n v = some t →
      let covered (ds : List Nat) (f : Die → Die) : Prop := ∀ k, k < 4 → t.die k = if k ∈ ds then f (s.die k) else s.die k
      let mine := diesOf (s.die d).pcfg
      (n = 0x281 → covered (diesOf (fld v 56 4)) (fun x => { x with pcmd := v, pstat := 1 })) ∧
      (n = 0x285 → fld v 0 6 ≤ 48 ∧ covered mine (fun x => { x with plim := fld v 0 6 })) ∧
      (n = 0x286 → 1 ≤ fld v 0 10 ∧ fld v 0 10 ≤ 1000 ∧ covered mine (fun x => { x with qto := fld v 0 10 })) ∧
      (n = 0x287 → covered [0, 1, 2, 3] (fun x => { x with elect := fld v 0 8 })) ∧
      (n = 0x288 → 1000 ≤ fld v 0 12 ∧ fld v 0 12 ≤ 3200 ∧ covered [0, 1, 2, 3] (fun x => { x with pcap := fld v 0 12 })) ∧
      (t.groups = s.groups ∧ t.mem = s.mem ∧ t.owners = s.owners ∧ t.evs = s.evs) ∧
      n ∈ [0x281, 0x285, 0x286, 0x287, 0x288]) ∧
    (∀ d v n, n ∉ [0x281, 0x285, 0x286, 0x287, 0x288] → s.psetPut d n v = none)

/-- R108, R133, R147, R159, R168, R171, R174, R359, R360: the steps of a core. The oldest enqueued block starts in slot 0 once the block before it has ended, without
latches after a switch point; a group of the highest class among those that wait fills the active set; a parked path rotates in; a spent pre-empt budget saves the group
by force; a pairing or vmmap that waited 4,096 cycles takes trap 10; a word that failed its check is read once again, and where it is correct now no die keeps a copy of
its line. That a switch point waits in place for its lane blocks is the model's reading (log entry 17); the order in which groups of one class fill the active set is its
choice (log entry 1). -/
def Obligations.CoreSteps : Prop :=
  ∀ (s : State) (g core : Nat), let x := s.group g
    (∀ b rest, x.lane.blocks = b :: rest → x.gstate = .active → x.level < 3 → x.lane.running = false →
      let c : LaneCtx := x.lane.startBlock (s.clock g) (s.descOf x.team).laneBase b rest
      exec (.laneBlockStart g) s = .next (s.setGroup g { x with lane := c, lr := if b.loss then x.lr.loseLatches else x.lr }) ∧
      (b.mask ≠ 0 → c.running = true ∧ c.blocks = rest ∧
        c.slots = [(0, ({ pc := (s.descOf x.team).laneBase + BitVec.ofNat 64 b.off, mask := b.mask, inner := none }, s.clock g))]) ∧
      (b.mask = 0 → c.running = false ∧ c.blocks = rest)) ∧
    (x.lane.running = true ∨ x.lane.blocks = [] → NotNow (.laneBlockStart g) s) ∧
    (s.firstPending core = some g → s.activeOn core < 8 →
      exec (.activeSetFill core) s = .next (s.updGroup g (fun x => { x with gstate := .active })) ∧
      ∃ y, (g, y) ∈ s.groups ∧ y.gstate = .ready ∧
        ∀ e ∈ s.groups, e.2.gstate = .ready → e.2.level < 3 → (s.team e.2.team).core = core → e.2.cls ≤ y.cls) ∧
    (8 ≤ s.activeOn core → NotNow (.activeSetFill core) s) ∧
    (∀ c, x.lane.rotate (s.clock g) = some c → x.gstate = .active → exec (.pathRotation g) s = .next (s.setGroup g (x.withLane c))) ∧
    (x.lane.rotate (s.clock g) = none → NotNow (.pathRotation g) s) ∧
    (x.gstate ≠ .free → x.gstate ≠ .saved → x.spent s.cycle = true → Happens (.preemptBudgetExpiry g) s ((s.forceSave g).afterSave x.team)) ∧
    (∀ c, (x.withLane c).lane = c ∧ (x.withLane c).lr = x.lr ∧ (x.withLane c).sr = x.sr ∧ ∀ e ∈ (x.withLane c).want, e ∈ x.want) ∧
    (∀ t0, x.pairReady = some t0 → t0 + 4096 ≤ s.cycle.toNat → s.matched g = none → x.gstate = .active →
      let t := { s with cur := g }.updGroup g (fun x => { x with pairReady := none })
      Happens (.pairTimeout g) s (t.takeTrap g (scalarTrap t.g.pc (encodeWord .pair) 4 10 0))) ∧
    (∀ id m, s.waitingVmmap g = some (id, m) → m.t0 + 4096 ≤ s.cycle.toNat → x.gstate = .active →
      (x.partner = none ∨ ∃ h, x.partner = some h ∧ ∀ jd n, s.waitingVmmap h = some (jd, n) → m.meets n = false) → Happens (.vmmapTimeout g) s (s.trapVmmap g 10)) ∧
    (∀ m n : MatrixOp, m.meets n = true ↔ n.seq = m.seq ∧ n.t0 < m.t0 + 4096 ∧ m.t0 < n.t0 + 4096) ∧
    (∀ z ma rest, x.want = (z, ma) :: rest →
      let once : State := { s with badCopies := tabDel s.badCopies (ma / 4) }
      let clear : State := { once.dropLine ma with badCopies := once.badCopies.filter (fun e => e.1 / 128 != ma / 512) }
      exec (.checkRetry g) s = .next ((if codeOk (s.mem.read ma).1 (s.mem.read ma).2 (ma % 65536) then clear else once).updGroup g
        (fun x => { x with retries := (z, ma, (s.mem.read ma).1, (s.mem.read ma).2) :: x.retries, want := rest }))) ∧
    (x.want = [] → NotNow (.checkRetry g) s)

/-- R271, R276, R278, R279, R281 to R283, R288, R289, R295: the walks that are due for one page end with one run of the routine: a parked chunk that asked goes on with a
place, and with a fault has it anew; one that waits for a budget stays due. A walk that runs past 16,384 cycles, and no other, ends in walk error 4, which is a fault of
kind 3. A fault that waited for a park slot is taken: the slot, the record and the entry of kind 32, or the stop where the queue is full; the fault of an engine's
operation enters its group, or stops the owner. What the walk budget and the limits count is the model's reading (log entry 51), and when a translation cache lets an
entry go is its choice (log entry 5); the level at which the fault of an engine's operation enters is its reading (log entry 39). -/
def Obligations.WalkSteps : Prop :=
  ∀ (s : State) (o g lvl kind : Nat) (va : DWord),
    let ws := s.dueWalks o va
    let asked : Prop := ∃ w ∈ s.walks, w.owner = o ∧ w.va = va ∧ w.kind = kind ∧ w.level = lvl
    (∀ w, w ∈ ws ↔ w ∈ s.walks ∧ w.owner = o ∧ w.va.toNat / 65536 = va.toNat / 65536) ∧
    (kind < 4 → lvl < 3 → asked ∨ (kind = 0 ∧ ((s.owner o).ostate = .running ∨ (s.owner o).ostate = .preempting)) →
      (ws = [] → Happens (.walk o va kind lvl) s (s.xlate (s.ownerCaches o) o va.toNat kind lvl).2) ∧
      (ws ≠ [] → (s.direct o va.toNat lvl).isSome = true → Happens (.walk o va kind lvl) s (s.endDues ws none)) ∧
      (∀ t, ws ≠ [] → s.direct o va.toNat lvl = none → s.walkFor o va.toNat kind lvl = (none, t) → Happens (.walk o va kind lvl) s t) ∧
      (∀ e t, ws ≠ [] → s.direct o va.toNat lvl = none → s.walkFor o va.toNat kind lvl = (some e, t) → Happens (.walk o va kind lvl) s (t.endDues ws (some e)))) ∧
    (¬asked → kind ≠ 0 ∨ ((s.owner o).ostate ≠ .running ∧ (s.owner o).ostate ≠ .preempting) → NotNow (.walk o va kind lvl) s) ∧
    (∀ e w, (s.endDues [] e).walks = s.walks ∧ s.endDues [w] e = { s with walks := s.walks.filter (fun x => !([w] : List WalkReq).contains x) }.endDue e w) ∧
    (∀ e w t r id, w.copy = some id → s.direct w.owner w.va.toNat w.level = none → s.endWalk w.units w.owner w.va.toNat w.kind w.level e = (r, t) →
      (∀ l ty i off, r = .ok l ty i off → s.endDue (some e) w = t.endParkedWalk id none) ∧
      (∀ k c, r = .fault k c → s.endDue (some e) w = t.endParkedWalk id (some (k, c)))) ∧
    (∀ e w, w.copy = none → s.direct w.owner w.va.toNat w.level = none → s.endDue (some e) w = (s.endWalk w.units w.owner w.va.toNat w.kind w.level e).2) ∧
    (∀ id c, tabFind s.copies id = some c →
      (s.endParkedWalk id none).copies = tabPut s.copies id { c with fault := none, delivered := false } ∧
      ∀ f p k x, c.fault = some (f, p) →
        (s.endParkedWalk id (some (k, x))).copies = tabPut s.copies id { c with fault := some (f.again s.cycle k x, p), delivered := false }) ∧
    (let e := s.runWalk o va.toNat kind lvl
     e.2.1 ≤ 16385 ∧ (e.1 = .error 4 ↔ 16384 < e.2.1)) ∧
    (∀ us, s.endWalk us o va.toNat kind lvl (.error 4) = (.fault 3 4, s)) ∧
    (∀ w, s.walks.find? (fun w => w.owner == o && w.va == va) = some w → (s.walkFor o va.toNat w.kind w.level).1 = some (.error 4) →
      Happens (.walkCycleLimit o va) s (s.walkNow o va w.kind w.level)) ∧
    ((∀ w ∈ s.walks, ¬(w.owner = o ∧ w.va = va)) → NotNow (.walkCycleLimit o va) s) ∧
    (∀ f p, (s.group g).pendingFault = some f → s.freePark (s.dieOf g) (s.ownerOf g) = some p → (s.group g).gstate = .active → (s.group g).spent s.cycle = false →
      let x := s.group g
      let w := s.owner (s.ownerOf g)
      let a := s.count (s.dieOf g) (s.ownerOf g) 27 (s.cycle - f.since.getD s.cycle).toNat
      let b := { a with parks := tabPut a.parks p { owner := s.ownerOf g, pages := f.pages (a.group g).level } }.updGroup g
        (fun x => { x with pendingFault := none, slotsHeld := (x.level, p) :: x.slotsHeld })
      let c := b.count (b.dieOf g) (s.ownerOf g) 26 1
      (x.level ≠ 2 → w.fqtail - w.fqhead ≠ w.fqcap → Happens (.parkSlotAcquired g) s
        ((c.putFaultRecord g f p).2.enter g 32 0 f.fmask f.dmask (c.putFaultRecord g f p).1 ((c.putFaultRecord g f p).2.group g).pc f.mark f.size)) ∧
      (x.level ≠ 2 → w.fqtail - w.fqhead = w.fqcap → Happens (.parkSlotAcquired g) s
        ((c.updGroup g (fun x => x.keepMark f.mark)).stopOwner (s.ownerOf g) 4 f.kind f.va (some g))) ∧
      (x.level = 2 → Happens (.parkSlotAcquired g) s (((s.count (s.dieOf g) (s.ownerOf g) 26 1).updGroup g (fun x => x.keepMark f.mark)).stopOwner (s.ownerOf g) 2 f.kind f.va (some g)))) ∧
    ((s.group g).pendingFault = none → (∀ t, s.chunkSlot g = some t → Happens (.parkSlotAcquired g) s t) ∧ (s.chunkSlot g = none → NotNow (.parkSlotAcquired g) s)) ∧
    (∀ copy id f p, s.engineFaultOf g = some (copy, id, f, p) →
      let told : State := if copy then (match tabFind s.copies id with | some c => { s with copies := tabPut s.copies id { c with delivered := true } } | none => s)
        else (match tabFind s.colls id with | some c => { s with colls := tabPut s.colls id { c with delivered := true } } | none => s)
      let x := told.group g
      let a := told.count (told.dieOf g) (told.ownerOf g) 26 1
      let w := a.owner (told.ownerOf g)
      (max x.level f.level = 2 → Happens (.engineFaultDelivery g) s (a.stopOwner (told.ownerOf g) 2 f.kind f.va (some g))) ∧
      (max x.level f.level ≠ 2 → f.kind = 7 → Happens (.engineFaultDelivery g) s (a.stopOwner (told.ownerOf g) 3 f.kind f.va (some g))) ∧
      (max x.level f.level ≠ 2 → f.kind ≠ 7 → w.fqtail - w.fqhead = w.fqcap → Happens (.engineFaultDelivery g) s (a.stopOwner (told.ownerOf g) 4 f.kind f.va (some g))) ∧
      (max x.level f.level ≠ 2 → f.kind ≠ 7 → w.fqtail - w.fqhead ≠ w.fqcap → Happens (.engineFaultDelivery g) s
        ((a.putFaultRecord g f p).2.enter g 32 0 0 0 (a.putFaultRecord g f p).1 ((a.putFaultRecord g f p).2.group g).pc none 0))) ∧
    (s.engineFaultOf g = none → NotNow (.engineFaultDelivery g) s) ∧
    (∀ (rt : Routine) (x : Walker) (n : Nat) (t : State), rt.length ≤ x.pc → walkRun t o rt x (n + 1) = (.error 1, x.cycles, t))

/-- R115, R318, R319, R390 to R392: a chunk of a copy is paid for, reaches both its places and moves its words; a collective takes contributions and results, ends with
code 3 where descriptors disagree, with code 5 where a member refuses or the port of what it had sent has failed (log entry 41), and with code 4 at its timeout. At the
endpoints no word is delivered before every member that contributes has been heard from. A chunk stays within its row and takes at most 1,024 words; one in progress goes
on in a copy that has ended (R391). Contributions are combined in the order of arrival that the agenda gives, which is the model's choice (log entry 1), as are the
requests, charges and sectors of a chunk (log entries 5, 19 and 32); what a failed collective leaves is its reading (log entry 14). -/
def Obligations.EngineSteps : Prop :=
  ∀ (s s1 s2 t : State) (id : Nat) (c : Copy) (src dst : Loc) (sty dty : Nat) (si di : Option Nat) (r1 r2 : Bool) (m : CollMsg) (x : Coll) (k : Comm),
    let paid (t : State) : State :=
      if c.charged then t
      else (({ t with copies := tabPut t.copies id { c with charged := true } }).updOwner c.owner
        (fun x => { x with copyLeft := x.copyLeft - 1, dry := x.dry || x.copyLeft == 1 })).count (c.cluster / 20) c.owner 24 1
    let c' : Copy := { c with charged := true }
    let sa := (c.srcAt c.next).toNat
    let da := (c.dstAt c.next).toNat
    let dry := !c.charged && (s.owner c.owner).fabLeft == 0
    let due : Prop := tabFind s.copies id = some c ∧ c.fault = none ∧ c.waits = none ∧ c.next < c.total ∧
      (c.charged = true ∨ (c.code = 0 ∧ (s.owner c.owner).copyLeft ≠ 0 ∧ (s.owner c.owner).memLeft ≠ 0))
    (tabFind s.copies id = none → NotNow (.copyChunk id) s) ∧
    (tabFind s.copies id = some c → c.charged = false → c.code ≠ 0 ∨ (s.owner c.owner).copyLeft = 0 ∨ (s.owner c.owner).memLeft = 0 → NotNow (.copyChunk id) s) ∧
    (due → s.engineReach [640 + c.cluster] c.owner c.team c.level c.sspace sa 0 = (.ok src sty si r1, s1) →
      s1.engineReach [640 + c.cluster] c.owner c.team c.level c.dspace da 1 = (.ok dst dty di r2, s2) →
      (sty ≠ 5 → dty ≠ 5 → (paid s2).performChunk id c' src dst si di r2 dry = some t → Happens (.copyChunk id) s t) ∧
      (sty = 5 ∨ dty = 5 → Happens (.copyChunk id) s (((paid s2).reportFor 6 7 c.owner 0 0 (c.cluster / 20)).endCopy id 3 1))) ∧
    (∀ fk code, due → s.engineReach [640 + c.cluster] c.owner c.team c.level c.sspace sa 0 = (.fault fk code, s1) →
      Happens (.copyChunk id) s ((paid s1).faultCopy id c' (engineFault c.level 5 fk 0 code c.instr (BitVec.ofNat 64 sa)))) ∧
    (∀ fk code, due → s.engineReach [640 + c.cluster] c.owner c.team c.level c.sspace sa 0 = (.ok src sty si r1, s1) →
      s1.engineReach [640 + c.cluster] c.owner c.team c.level c.dspace da 1 = (.fault fk code, s2) →
      Happens (.copyChunk id) s ((paid s2).faultCopy id c' (engineFault c.level 5 fk 1 code c.instr (BitVec.ofNat 64 da)))) ∧
    (c.chunk ≤ 1024 ∧ (c.wpr ≠ 0 → c.next % c.wpr + c.chunk ≤ c.wpr)) ∧
    (∀ n e j, x.switched = false → j ∈ x.contributing n → (∀ w ∈ x.got, w.member ≠ j) → x.arrived n e = none) ∧
    (m.reserved = 0 → s.collFor m = none → NotNow (.collectiveContribution m) s ∧ NotNow (.collectiveResult m) s) ∧
    (m.reserved ≠ 0 → s.portOpen m.port = true → Happens (.collectiveContribution m) s (s.discard m.port) ∧ Happens (.collectiveResult m) s (s.discard m.port)) ∧
    (m.reserved = 0 → s.collFor m = some (id, x, k) → x.fault = none → x.waits = none →
      (m.member = k.rank → m.element < x.elements k.members.length → s.contribute id k.members.length k.rank x k.members m.element = some t →
        Happens (.collectiveContribution m) s t) ∧
      (m.member ≠ k.rank → x.switched = false → s.portOpen m.port = true → m.status = 0 → m.header = x.header → m.element < x.elements k.members.length →
        m.member ∈ x.contributors k.members.length m.element → x.find m.member m.element = none →
        Happens (.collectiveContribution m) s (s.joinColl id k.members.length k.rank
          { x with got := x.got ++ [{ member := m.member, element := m.element, word := m.word, code := m.code }] })) ∧
      (m.member ≠ k.rank → x.switched = false → s.portOpen m.port = true → m.status = 0 → m.header ≠ x.header → Happens (.collectiveContribution m) s (s.completeColl id 3)) ∧
      (m.member ≠ k.rank → x.switched = false → s.portOpen m.port = true → m.status ≠ 0 →
        Happens (.collectiveContribution m) s ((s.reportFor 7 8 x.owner 0 0 x.die).completeColl id 5)) ∧
      (m.member ≠ k.rank → x.lost = true → m.status = 1 → 64 ≤ m.port → Happens (.collectiveContribution m) s ((s.reportFor 7 8 x.owner 0 0 x.die).completeColl id 5)) ∧
      (x.switched = true → s.portOpen m.port = true → m.status = 0 → m.header = x.header → m.element < x.elements k.members.length →
        x.sourceOf k.rank m.element = none ∨ (x.find k.rank m.element).isSome = true → x.find k.members.length m.element = none →
        Happens (.collectiveResult m) s (s.joinColl id k.members.length k.rank
          { x with
            got := x.got ++ [{ member := k.members.length, element := m.element, word := m.word, code := m.code }], sat := x.sat || m.sat,
            failed := x.failed || m.failed }))) ∧
    (tabFind s.colls id = some x → tabFind (s.owner x.owner).comms x.comm = some k → x.start + k.timeout < s.window → x.missing k.members.length k.rank = true →
      Happens (.collectiveTimeout id) s (s.completeColl id 4)) ∧
    (tabFind s.colls id = some x → tabFind (s.owner x.owner).comms x.comm = some k → x.missing k.members.length k.rank = false → NotNow (.collectiveTimeout id) s) ∧
    (tabFind s.colls id = none → NotNow (.collectiveTimeout id) s)

/-- R187, R188, R200, R201, R203 to R205: a record is taken from the highest class that has one; an admitted kernel's descriptor is read and the kernel is refused with
the number of the condition that failed, or its teams wait; the placer places the next sets where no rule forbids it. Which record of a class is first and where the
placer puts a set are the model's choices (log entries 1 and 11); further details of a kernel's life are its reading (log entry 50). -/
def Obligations.KernelSteps : Prop :=
  ∀ (s s1 t : State) (die k clus o : Nat) (cores : List Nat) (ws : List (DWord × Bool)),
    (die < 4 → s.takeFirst die ([3, 2, 1, 0].map (s.sourcesOf die)).flatten = some t → Happens (.takeLaunchRecord die) s t) ∧
    (s.takeFirst die ([3, 2, 1, 0].map (s.sourcesOf die)).flatten = none → NotNow (.takeLaunchRecord die) s) ∧
    (let x := s.kernel k
     x.kstate = .admitted → (s.owner x.owner).ostate = .running →
      (s.ownReads x.owner x.lrec.kernel.toNat 6 8 = (none, s1) → Happens (.kernelPlacementCheck k) s (s1.refuseKernel k 16)) ∧
      (s.ownReads x.owner x.lrec.kernel.toNat 6 8 = (some ws, s1) → (∀ w ∈ ws, w.2 = false) →
        let d := parseDesc (ws.map Prod.fst)
        (s1.descFails x.owner d x.lrec ≠ 0 → Happens (.kernelPlacementCheck k) s (s1.refuseKernel k (s1.descFails x.owner d x.lrec))) ∧
        (s1.descFails x.owner d x.lrec = 0 →
          Happens (.kernelPlacementCheck k) s ((s1.setKernel k { x with kstate := .running, desc := some d }).makeTeams k x.lrec.teams)))) ∧
    ((s.kernel k).kstate ≠ .admitted → NotNow (.kernelPlacementCheck k) s) ∧
    ((s.kernel k).kstate = .running → (s.owner (s.kernel k).owner).ostate = .running → s.placeNext k (cores.map (coreFrom die clus)) = some t →
      exec (.placeTeamSet k die clus cores) s = .next t) ∧
    (s.placeNext k (cores.map (coreFrom die clus)) = none → NotNow (.placeTeamSet k die clus cores) s) ∧
    (∀ d r, (KDesc.limits d = false → s1.descFails o d r = 17) ∧
      (KDesc.limits d = true → d.claim.ok = false → s1.descFails o d r = 18) ∧
      (KDesc.limits d = true → d.claim.ok = true → fld (s1.owner o).spool 32 32 < d.frames → s1.descFails o d r = 19))

/-- R113, R115, R118, R120, R132, R134, R136, R137, R180, R183, R208, R321: the states of an owner and the requests of its virtual function. Level S creates an owner;
slices start and end; an event that R120 or R183 does not list for a state changes nothing; a stop ends once its engine operations have; each request is answered in its
status register, and one that its state does not admit is refused. The policies of level S are operands of the steps, and the reasons that the manual does not number are
free values (log entries 2 and 11); that the done counters count refused requests, what ends the engine operations of a stopped owner, what needs a service pair that
leads, and the walk cycles that are owed are the model's readings and choice (log entries 23, 50, 57 and 5). -/
def Obligations.OwnerSteps : Prop :=
  ∀ (s t : State) (o i q : Nat) (spec : OwnerSpec) (desc v : DWord), 1 ≤ o → o ≤ 255 →
    let x := s.owner o
    let resumed (t : State) : State := (t.kernelsOf o).foldl State.resumeKernel t
    (x.ostate = .free → s.led = true → s.specOk spec = true → exec (.ownerCreate o spec) s =
      .next ((({ s with requests := s.requests.filter (fun i => !(vfRequest i).any (fun r => r.1 == o)) } : State).setFrames .owned ((spec.frames.filter (fun f => decide (f.1 ≤ 1))).map Prod.snd)).setOwnerRec o (builtOwner spec))) ∧
    (s.led = true → x.ostate ≠ .free → exec (.ownerCreate o spec) s = .next s) ∧
    (s.led = true → (x.ostate = .running → Happens (.sliceEnd o) s (s.preemptOwner o 33)) ∧ (x.ostate ≠ .running → exec (.sliceEnd o) s = .next s)) ∧
    (s.led = false → NotNow (.ownerCreate o spec) s ∧ NotNow (.sliceEnd o) s ∧ NotNow (.queueUnbind q) s) ∧
    (s.led = true → (∀ c ∈ s.pchanges, ∀ d ∈ diesOf x.dies, c.dies.testBit d = false) →
      x.ostate = .free ∨ x.ostate = .built ∨ x.ostate = .stopping ∨ x.ostate = .stopped → exec (.sliceStart o) s = .next s) ∧
    (s.led = true → (∀ c ∈ s.pchanges, ∀ d ∈ diesOf x.dies, c.dies.testBit d = false) → x.ostate = .ready ∨ x.ostate = .saved → Happens (.sliceStart o) s (resumed ((s.setOstate o .running).releaseQueues o))) ∧
    (x.ostate = .stopping → (∀ c ∈ s.copies, c.2.owner ≠ o) → (∀ c ∈ s.colls, c.2.owner ≠ o) → (∀ q ∈ s.fabricOut, q.2.owner = o → q.2.kind = 1) → Happens (.stopSequenceComplete o) s (s.finishStop o)) ∧
    (x.ostate ≠ .stopping → NotNow (.stopSequenceComplete o) s) ∧
    (s.led = false → requestFree s o 0x0010 = true → ∀ v ∈ [Instr.vreqActivate o, .vreqStop o, .vreqResume o, .vreqTeardown o],
      exec v s = .next ({ s with requests := s.requests ++ [v] }.updOwner o (fun x => { x with vreqst := statBusy x.vreqst }))) ∧
    (s.led = true → requestFree s o 0x0010 = true →
     (x.ostate = .built → (x.recordFails = 0 → exec (.vreqActivate o) s = .next ((s.setOstate o .ready).vreqDone o)) ∧
      (x.recordFails ≠ 0 → exec (.vreqActivate o) s = .next (s.vreqRefuse o x.recordFails))) ∧
    (x.ostate ≠ .built → exec (.vreqActivate o) s = .next (s.vreqFree o)) ∧
    (x.ostate = .running ∨ x.ostate = .saved → Happens (.vreqStop o) s ((s.stopOwner o 6 0 0 none).vreqDone o)) ∧
    (x.ostate = .stopped → Happens (.vreqStop o) s (s.vreqFree o)) ∧
    (x.ostate = .stopped → (x.reason = 7 → exec (.vreqResume o) s = .next (s.vreqRefuse o 7)) ∧
      (x.reason ≠ 7 → x.recordFails = 0 → exec (.vreqResume o) s = .next ((s.setOstate o .saved).vreqDone o)) ∧
      (x.reason ≠ 7 → x.recordFails ≠ 0 → exec (.vreqResume o) s = .next (s.vreqRefuse o x.recordFails)) ∧
      Happens (.vreqTeardown o) s ((s.vreqDone o).teardown o)) ∧
    (x.ostate = .running → Happens (.vreqTeardown o) s
      (((s.stopOwner o 7 0 0 none).updOwner o (fun x => { x with teardownNext := true })).vreqDone o))) ∧
    (i < 8 → (x.mayField i = true → exec (.voctxWrite o i v) s = .next (s.setOwnerRec o (x.setField i v))) ∧
      (x.mayField i = false → exec (.voctxWrite o i v) s = .next s)) ∧
    (q < 2048 → s.led = true → requestFree s o 0x0100 = true → (∀ u, s.tryBind o (desc &&& 0x00FFFFFFFFFFFFFF) q = (some t, u) →
        Happens (.qbind o desc q) s (t.updOwner o (fun x => { x with qbindst := statDone x.qbindst q }))) ∧
      (s.tryBind o (desc &&& 0x00FFFFFFFFFFFFFF) q = (none, t) → Happens (.qbind o desc q) s
        ({ t with freeIdx := t.freeIdx + 1 }.updOwner o (fun x => { x with
          qbindst := statRefused x.qbindst ((Config.freeWord t.freeIdx).toNat % 2 ^ 24) })))) ∧
    ((s.queue q).qstate ≠ .unbound → s.led = true → Happens (.queueUnbind q) s (s.unbind q)) ∧ ((s.queue q).qstate = .unbound → s.led = true → exec (.queueUnbind q) s = .next s) ∧
    (i < 0x2000 → i % 8 = 0 → vfHasStep i v = false → exec (.vfRegisterWrite o i v) s = .next s) ∧
    (let dry := (s.owners.filter (fun e => e.2.dry)).map (fun e => (e.1, (diesOf e.2.dies).headD 0))
     let u := dry.foldl (fun (s : State) e => s.count e.2 e.1 28 1) s
     let owes (y : Owner) : Nat := y.walkDebt
     let w : State := { u with
       owners := u.owners.map (fun e => (e.1, { e.2 with
         walkLeft := e.2.walkBudget - owes e.2, walkDebt := owes e.2 - e.2.walkBudget, memLeft := e.2.memBudget, fabLeft := e.2.fabBudget, copyLeft := e.2.copyBudget,
         dry := decide (0 < e.2.walkBudget ∧ e.2.walkBudget ≤ owes e.2) })),
       window := u.window + 1, capped := false, flight := []
       dieRegs := u.dieRegs.map (fun d => (d.1, { d.2 with
         replays := [], spoke := [], ports := d.2.ports.map (fun p => (p.1, if p.2.st = 1 then { p.2 with trained := p.2.trained + 1 } else p.2)) })) }
     exec .budgetWindowStart s = .next w.departs)

/-- R273 to R275, R306, R307, R315, R322: walk set-up, communicators and exports of an owner that has frames: a descriptor that breaks its table or does not translate is
refused, and each request that is met is answered done with what it was granted. The indexes that level S allots are operands of the steps, and the reasons that the
manual does not number are free values (log entries 2 and 11); the counts of refused requests, the limits of a walk set and the need for a service pair that leads are the
model's readings (log entries 23, 51 and 57). -/
def Obligations.RequestSteps : Prop :=
  ∀ (s s1 : State) (o n : Nat) (desc : DWord) (d : ComDesc) (e : ExpDesc) (rs : List Routine) (region : List Nat), 1 ≤ o → o ≤ 255 → (s.owner o).alive = true →
    let x := s.owner o
    let com (t : State) (c : Tab Comm → Tab Comm) (granted : Nat) : State :=
      (t.updOwner o (fun x => { x with comms := c x.comms })).updOwner o (fun x => { x with comst := statDone x.comst granted })
    Happens (.wsetup o desc) s (s.startSetup o desc) ∧
    ((desc &&& 0x00FFFFFFFFFFFFFF).toNat % 64 ≠ 0 → x.wresult ≠ 1 → s.startSetup o desc = s.updOwner o (fun x => x.endSetup 4)) ∧
    (x.wresult = 1 → s.startSetup o desc = s) ∧
    (x.wsetup = some (rs, region) →
      ((∀ d ∈ diesOf x.dies, s.slotsUsed d o + rs.length ≤ 32) → Happens (.walkSetupLoaded o) s
        ({ s with tlb := s.tlb.filter (fun e => e.owner != o) }.setOwner o ({ x with routines := rs, region := region, walkPaid := [] }.endSetup 2))) ∧
      ((∃ d ∈ diesOf x.dies, 32 < s.slotsUsed d o + rs.length) → Happens (.walkSetupLoaded o) s (s.setOwner o (x.endSetup 3)))) ∧
    (x.wsetup = none → NotNow (.walkSetupLoaded o) s) ∧
    (s.led = true → requestFree s o 0x0200 = true → s.readCom o desc = (none, s1) →
      Happens (.communicatorSetup o desc n) s (s1.comRefuse o) ∧ Happens (.communicatorDelete o desc) s (s1.comRefuse o)) ∧
    (s.led = true → requestFree s o 0x0200 = true → s.readCom o desc = (some d, s1) → (∀ c ∈ s1.colls, ¬(c.2.owner = o ∧ c.2.comm = d.comm)) →
      (d.delete = false → n ≤ d.contexts → Happens (.communicatorSetup o desc n) s
        (com s1 (fun t => tabPut t d.comm { members := d.members, rank := d.rank, timeout := d.timeout, contexts := n }) n)) ∧
      (d.delete = true → (tabFind (s1.owner o).comms d.comm).isSome = true → Happens (.communicatorDelete o desc) s (com s1 (fun t => tabDel t d.comm) 0))) ∧
    (s.led = true → requestFree s o 0x0300 = true → s.readExp o desc = (none, s1) →
      Happens (.exportRequest o desc n) s (s1.expRefuse o) ∧ Happens (.importRequest o desc) s (s1.expRefuse o) ∧ Happens (.revokeRequest o desc) s (s1.expRefuse o)) ∧
    (s.led = true → requestFree s o 0x0300 = true → s.readExp o desc = (some e, s1) →
      let y := s1.owner o
      (e.kind = 1 → y.encrypted = true → Happens (.exportRequest o desc n) s (s1.expRefuse o)) ∧
      (e.kind = 1 → y.encrypted = false → e.first + e.count ≤ y.frames → (∀ i, i < e.count → (y.entry (e.first + i)).st ≠ 0 ∧ (y.entry (e.first + i)).ty ≤ 1) →
        s1.exportsFree n e.count = true → Happens (.exportRequest o desc n) s ((s1.putExports n (exportEntry e o) e.count).expDone o n)) ∧
      (e.kind = 2 → y.encrypted = false → e.first + e.count ≤ y.frames → e.index + e.count ≤ 2 ^ 22 → (∀ i, i < e.count → (y.entry (e.first + i)).st = 0) →
        Happens (.importRequest o desc) s (((s1.dropFrames o e.first e.count).setOwner o { y with
          fmap := (List.range e.count).foldl (fun t i =>
            tabPut t (e.first + i) { st := 1, ty := 4, pinned := false, move := 0, frame := e.peer * 2 ^ 22 + e.index + i }) y.fmap }).expDone o e.index)) ∧
      (e.kind = 3 → s1.exportsOf o e.index e.count = true → Happens (.revokeRequest o desc) s ((s1.putExports e.index (fun _ => 0) e.count).expDone o e.index)) ∧
      (e.kind = 3 → s1.exportsOf o e.index e.count = false → Happens (.revokeRequest o desc) s (s1.expRefuse o)))

/-- R105, R109, R110, R114, R118, R235, R255: the host's accesses to device memory of an owner, at the home; nothing it stores reaches the records; a snoop takes back a
host line. That the host names an owner and a virtual address, and which checks it passes, are the model's readings (log entry 12). -/
def Obligations.HostSteps : Prop :=
  ∀ (s s1 : State) (o a : Nat) (va v b c : DWord) (op : AOp) (wd : MWidth) (l : Loc) (rec_ : Bool), 1 ≤ o → o ≤ 255 → (s.owner o).alive = true →
    (va.toNat % 4 = 0 → s.hostPlace o va 1 = (some (l, false), s1) →
      Happens (.hostWrite o va .w v) s (s1.homeWrite l (v.truncate 32) (checkCode (v.truncate 32) l.off))) ∧
    (va.toNat % widthBytes wd = 0 → s.hostPlace o va 1 = (some (l, true), s1) → Happens (.hostWrite o va wd v) s s1) ∧
    (va.toNat % 8 = 0 → s.hostPlace o va 0 = (some (l, rec_), s1) →
      Happens (.hostRead o va .d) s { s1 with hostData := widthValue .d l.off ((s1.readLoc (l.word.plus 4)).1 ++ (s1.readLoc l.word).1) }) ∧
    (wd ≠ .d → va.toNat % widthBytes wd = 0 → s.hostPlace o va 0 = (some (l, rec_), s1) →
      Happens (.hostRead o va wd) s { s1 with hostData := widthValue wd l.off ((0 : Word) ++ (s1.readLoc l.word).1) }) ∧
    (va.toNat % 8 = 0 → s.hostPlace o va 1 = (some (l, false), s1) → Happens (.hostWrite o va .d v) s
      ((s1.homeWrite l (v.truncate 32) (checkCode (v.truncate 32) l.off)).homeWrite (l.plus 4) ((v >>> 32).truncate 32)
        (checkCode ((v >>> 32).truncate 32) (l.plus 4).off))) ∧
    (∀ n old bad s2, n = widthBytes wd → n < 4 → va.toNat % n = 0 → s.hostPlace o va 1 = (some (l, false), s1) → s1.homeRead o l.word = ((old, bad), s2) →
      let x := mergeBytes old l.byte n v.toNat
      Happens (.hostWrite o va wd v) s (s2.homeWrite l.word x (codeFor x bad l.word.off))) ∧
    (∀ w code t, va.toNat % 4 = 0 → s.hostPlace o va 2 = (some (l, false), s1) → s1.outerAtomic o l op .w b c false = ([(w, code)], t) →
      Happens (.hostAtomic o va op .w b c) s { t with hostData := w.zeroExtend 64 }) ∧
    (∀ w0 w1 c0 c1 t, va.toNat % 8 = 0 → s.hostPlace o va 2 = (some (l, false), s1) → s1.outerAtomic o l op .d b c false = ([(w0, c0), (w1, c1)], t) →
      Happens (.hostAtomic o va op .d b c) s { t with hostData := w1 ++ w0 }) ∧
    (∀ w code t, va.toNat % 4 = 0 → s.hostPlace o va 2 = (some (l, true), s1) → s1.outerAtomic o l op .w b c false = ([(w, code)], t) →
      Happens (.hostAtomic o va op .w b c) s { s1 with hostData := w.zeroExtend 64 }) ∧
    (va.toNat % 4 ≠ 0 → NotNow (.hostWrite o va .w v) s ∧ NotNow (.hostRead o va .w) s ∧ NotNow (.hostAtomic o va op .w b c) s) ∧
    (let held (d : Nat) : Bool := (tabFind s.hostLines (a / 64 * 4 + d)).isSome
     let dies := (List.range 4).filter held
     (dies ≠ [] →
      exec (.hostSnoop a true) s = .next { s with hostLines := dies.foldl (fun t d => tabDel t (a / 64 * 4 + d)) s.hostLines } ∧
      exec (.hostSnoop a false) s = .next { s with hostLines := dies.foldl (fun t d => tabPut t (a / 64 * 4 + d) false) s.hostLines }) ∧
     (dies = [] → ∀ b, NotNow (.hostSnoop a b) s))

/-- R42, R47, R49, R198, R199: a bundle with a revision 3 image is loaded at the addresses the driver chose: its sections relocated, and one descriptor for each kernel;
with neither an image nor a portable form nothing is loaded, and the report says reason 1; a portable form is finalised and reported. The driver's addresses are operands
of the step (log entry 11), and the conventions of the portable form are the model's choices (log entry 20). -/
def Obligations.BundleSteps : Prop :=
  ∀ (s t : State) (o scode lcode data course kdesc : Nat) (bundle : List Byte) (b : Bundle) (i : CodeImage) (rs : List Rec), 1 ≤ o → o ≤ 255 → parseBundle bundle = some b →
    let bases := [scode, lcode, data, course]
    let descs := (i.entries.zip b.kernels).map (fun x => descBytes (scode + x.1) lcode x.2)
    let runs := [(scode, i.scode), (lcode, i.lcode), (data, relocate bases 2 i.relocs i.data), (course, relocate bases 3 i.relocs i.course), (kdesc, descs.flatten)]
    let load : Instr := .bundleLoad o bundle scode lcode data course kdesc
    ((s.owner o).alive = true → b.images.find? (fun i => i.rev == 3) = some i → (∀ a ∈ bases, a % 512 = 0) → kdesc % 64 = 0 → disjointRuns runs = true →
      s.hostRuns o runs = some t → Happens load s (t.updOwner o (fun x => { x with askedReserve := b.reserve }))) ∧
    ((∀ i ∈ b.images, i.rev ≠ 3) → b.portable = none →
      ((s.owner o).alive = true → exec load s = .next { s with finalised := { reason := 1, index := 2 ^ 32 - 1, scode := [], lcode := [] } }) ∧
      exec (.portableFinalise o bundle) s = .next { s with finalised := { reason := 1, index := 2 ^ 32 - 1, scode := [], lcode := [] } }) ∧
    ((∀ i ∈ b.images, i.rev ≠ 3) → b.portable = some (rs, i) → exec (.portableFinalise o bundle) s = .next (s.reportFinal (finalise rs)))

/-- R303, R304, R310, R406: the states of a fabric port of a die that boot has started: DOWN 0, TRAINING 1, UP 2, DEGRADED 3, FAILED 4. Each step leaves the states that
the table names and no others, and a command to train changes no port in another state; a group's failures are counted in a row, and the sixteenth loses the path, with
its event: the pairs that follow the port go on by another open one, and the accesses that had left by it are lost with it, what collectives had sent by it among them. A
port has trained for 100 ms when the 101st window since has begun (log entry 1). When a port may take these steps is the model's choice (log entry 46); the routes of
pairs and what becomes of lost accesses are its choice and its reading (log entry 41), and how a failed group of flits is told is its choice (log entry 56). -/
def Obligations.PortSteps : Prop :=
  ∀ (s : State) (die n : Nat), die < 4 → n < 16 → (s.die die).started = true → let p := s.port die n
    let upd (f : Port → Port) : State := s.updPort die n f
    let failed : State := upd (fun p => { p with st := 4, retries := (p.retries + 1) % 65536, failing := 0 })
    let lost : State := { failed with
      colls := failed.colls.map (fun c => (c.1, if ∃ e ∈ failed.routes, e.2 = 16 * die + n ∧ e.1.1 = 2 ∧ e.1.2.1 = c.1 then { c.2 with lost := true } else c.2))
      routes := failed.routes.filterMap (fun e => if e.2 = 16 * die + n then (leastFrom failed.portOpen 0 64).map (fun m => (e.1, m)) else some e)
      fabricOut := failed.fabricOut.map (fun e => (e.1, if e.2.port = some (16 * die + n) then { e.2 with port := some (64 + (16 * die + n)) } else e.2)) }
    (s.led = true → Happens (.portTrain die n) s (upd Port.train)) ∧ (p.st = 0 ∨ p.st = 3 ∨ p.st = 4 → p.train.st = 1) ∧ (p.st = 1 ∨ p.st = 2 → p.train = p) ∧
    (s.led = true → Happens (.portDown die n) s (upd Port.toDown)) ∧ (s.led = false → NotNow (.portTrain die n) s ∧ NotNow (.portDown die n) s) ∧
    (p.st = 1 → Happens (.bothLanesLock die n) s (upd (fun p => { p with st := 2 })).departs ∧ Happens (.oneLaneLocks die n) s (upd (fun p => { p with st := 3 })).departs ∧
      (100 < p.trained → Happens (.portTrainingTimeout die n) s ((upd Port.toDown).reportFor 9 10 0 0 (16 * die + n) die)) ∧
      (p.trained ≤ 100 → NotNow (.portTrainingTimeout die n) s)) ∧
    (p.st ≠ 1 → NotNow (.bothLanesLock die n) s ∧ NotNow (.oneLaneLocks die n) s ∧ NotNow (.portTrainingTimeout die n) s) ∧
    (p.st = 2 → Happens (.laneLost die n) s (upd (fun p => { p with st := 3 }))) ∧ (p.st ≠ 2 → NotNow (.laneLost die n) s) ∧
    (p.st = 2 ∨ p.st = 3 →
      (p.failing < 15 → Happens (.flitGroupRetry die n) s
        (upd (fun p => { p with retries := (p.retries + 1) % 65536, failing := p.failing + 1 }))) ∧
      runTurn s (.resent die n) = .next (upd (fun p => { p with failing := 0 })).flush ∧
      (p.failing = 15 → Happens (.fabricPathLost die n) s (lost.departs.reportFor 10 10 0 0 (16 * die + n) die))) ∧
    (p.st ≠ 2 → p.st ≠ 3 → NotNow (.flitGroupRetry die n) s ∧ NotNow (.fabricPathLost die n) s ∧ s.portOpen (16 * die + n) = false) ∧
    (∀ f, (s.updPort die n f).port die n = f p)

/-- R403, R407, R408, R412, R413, R415, R417: partition changes begin, end once the dies are quiet, and are refused after their time; the leader's heartbeat, its halt and
the takeover of the next pair in order; a timing replay, a power limit, a package reset. When the steps of leadership and power may happen is the model's choice (log
entry 46); the moves of frames at a split and what a package reset leaves are its choice and its reading (log entries 24 and 29), and so are the registers of merged dies
and the checkpoint of a takeover (log entries 53 and 57). That a die which accepts no image has a halted pair is its reading (log entry 4), and the words of device memory
after a reset are its choice (log entry 3). -/
def Obligations.ServiceSteps : Prop :=
  ∀ (s : State) (die core strap : Nat) (forced : Bool) (c : PChange) (images : List BootImage),
    (s.led = true → s.pending die 1 false = some c → Happens (.partitionMerge die) s (s.quiesce c)) ∧ (s.pending die 1 false = none → NotNow (.partitionMerge die) s) ∧
    (s.led = true → s.pending die 2 forced = some c → Happens (.partitionSplit die forced) s (s.quiesce c)) ∧
    (s.led = false → NotNow (.partitionMerge die) s ∧ NotNow (.partitionSplit die forced) s ∧ NotNow (.quiesceComplete die) s ∧ NotNow (.quiesceTimeout die) s) ∧
    (s.led = true → s.changeOf die = some c →
      (s.quiet c = true → Happens (.quiesceComplete die) s (if c.op = 1 then s.finishMerge c else s.finishSplit c)) ∧
      (s.quiet c = false → NotNow (.quiesceComplete die) s) ∧
      (s.quiet c = false → c.start + (s.die die).qto ≤ s.window → Happens (.quiesceTimeout die) s (s.endChange c 0x103))) ∧
    (s.changeOf die = none → NotNow (.quiesceComplete die) s ∧ NotNow (.quiesceTimeout die) s) ∧
    (s.leaderDie.isSome = true →
      exec .heartbeat s = .next ((List.range 4).foldl (fun s d => s.updDie d (fun x => { x with beats := (x.beats + 1) % 2 ^ 32 })) s) ∧ NotNow .takeover s) ∧
    (s.leaderDie = none → NotNow .heartbeat s ∧
      ∀ n, (electAfter (s.die 0).elect (s.die 0).leader).find? (fun d => (s.die d).role == 1) = some n →
        let begun := (s.freeRun 132).2.updGroup (serviceGroup n) (fun x => x.checkpoint (s.freeRun 132).1)
        exec .takeover s = .next ((List.range 4).foldl (fun s d => s.updDie d (fun x => { x with leader := n, role := if d = n then 2 else x.role })) begun)) ∧
    (die < 4 → (s.die die).role ≠ 0 →
      Happens (.servicePairHalt die) s ((s.updDie die (fun x => { x with role := 0 })).reportFor 12 13 0 0 0 die)) ∧
    ((s.die die).role = 0 → NotNow (.servicePairHalt die) s) ∧
    (core < 640 →
      let d := core / 160
      let n := tabGet 0 (s.die d).replays core + 1
      let t := (s.updDie d (fun x => { x with replays := tabPut x.replays core n })).count d 0 31 1
      (n ≤ fld (s.die d).trlim 0 32 ∨ core ∈ (s.die d).spoke → exec (.timingReplay core) s = .next t) ∧
      (fld (s.die d).trlim 0 32 < n → core ∉ (s.die d).spoke → Happens (.timingReplay core) s
        { t.updDie d (fun x => { x with spoke := core :: x.spoke }) with evs := t.evs ++ [{ cls := 11, src := 12, owner := 0, core := some core, ma := 0, detail := 0, group := none, die := d }] })) ∧
    (let t : State := { s with clockMHz := max 900 (s.clockMHz - 100), capped := true }
     (s.capped = true → exec .powerLimit s = .next t) ∧ (s.capped = false → Happens .powerLimit s (t.reportFor 14 14 0 0 0 ((s.leaderDie).getD 0)))) ∧
    (∃ t, exec (.packageReset strap images) s = .next t ∧ t.owners = [] ∧ t.kernels = [] ∧ t.teams = [] ∧ t.mem = Store.zero ∧ t.tlb = [] ∧ t.hostMem = s.hostMem ∧
      t.cycle = (State.resetWith (strap % 4)).cycle ∧ t.groups = (State.resetWith (strap % 4)).groups ∧ t.strap = strap % 4 ∧
      ∀ d, d < 4 →
        let ok := (images[d]?).any (fun i => i.ecdsa && i.lms && decide (i.counter ≤ i.version))
        t.die d = { Die.reset (strap % 4) d with started := ok, role := if ok then (Die.reset (strap % 4) d).role else 0 })

/-- R13, R73, R76, R115, R148, R314, R404, R429: a step takes the first turn of the agenda. A turn of a group's scalar stream, or of a slot of its lane stream, executes
the instruction that the words there stand for, each word translated and checked on its own; where the words stand for none, or a word is poisoned, it takes trap 1 with
the subcause, or trap 3, on the lane stream in every lane of the path; a step of the device is executed as it is named; a stream that may not issue, and an instruction
that only a stream may issue, stop the step. A word that does not wait in its place counts in counter 17 or 18 of its die, a matrix instruction in 19 too, the first word
of a cycle in 16, and nothing else of the state changes with the count but the same counter of its owner and the step that the stream keeps as its last issue (R175; log
entry 2). A turn whose accesses of the device's own the budgets of an owner do not carry is held back: it is not taken, and only those budgets change (log entry 5). The
agenda is the model's own (log entry 1). The trap of a fetch at an address that is not a multiple of 4 is the model's reading (log entry 34), and so is the time at which
an extension word is fetched (log entry 55). -/
def Obligations.StepRunsDecoded : Prop :=
  ∀ (s t u v : State) (g z : Nat) (i : Instr) (rest : List Turn),
    let s0 : State := { s.tick with agenda := rest }
    let delivered (s : State) (va : DWord) (w : Word) (p : Bool) (t : State) : Prop :=
      ∃ l ty u, s.reach s.cur 0 .gl va.toNat 3 4 typesNarrow = (.ok l ty, u) ∧ Gives (consumeAt 3 l) u (w, p) t
    let fetched (s : State) (va : DWord) (w : Word) (t : State) : Prop := delivered s va w false t
    let misses (s1 : State) (u : State) : Prop := step s = s0.carried (.next (if s1.stood u.flush then u.flush else u.flush.stampIssue s1.cur s1.slot))
    (s.tick.agenda = s.agenda ∧ s.tick.steps = s.steps + 1 ∧ s.tick.cycle = s.cycle + BitVec.ofNat 64 (Config.stepCycles s.steps)) ∧
    (s.agenda = .event i :: rest → step s = if hasWord i then .fault .noSuchAgent else s0.carried (exec i s0)) ∧
    (s.agenda = .scalar g :: rest →
      (s0.mayIssue g = true → Gives fetchScalar (s0.issueFrom g scalarStream) (.ok i) t →
        (t.scalarHazard i = false → step s = s0.carried (t.counted i (exec i t))) ∧
        (t.scalarHazard i = true → step s = s0.carried ((s0.issueFrom g scalarStream).waitHere t))) ∧
      (∀ k w, s0.mayIssue g = true →
        let trap (c a : Nat) : State := t.takeTrap t.cur (scalarTrap t.g.pc w (if Dec.isWide w then 8 else 4) c a)
        (Gives fetchScalar (s0.issueFrom g scalarStream) (.illegal k w) t → misses (s0.issueFrom g scalarStream) (trap 1 k)) ∧
        (Gives fetchScalar (s0.issueFrom g scalarStream) (.poisoned w) t → misses (s0.issueFrom g scalarStream) (trap 3 0))) ∧
      (s0.mayIssue g = false → step s = .fault .noSuchAgent)) ∧
    (s.agenda = .lane g z :: rest →
      let s1 := s0.issueFrom g z
      (s0.mayIssueLane g z = true → Gives (fetchLane (s1.descOf s1.g.team).regs (s1.laneWord { neg := false, p := 0 }).path.pc) s1 (.ok i) t →
        (t.laneHazard i = false → step s = s0.carried (t.counted i (exec i t))) ∧ (t.laneHazard i = true → step s = s0.carried (s1.waitHere t))) ∧
      (∀ k b, s0.mayIssueLane g z = true →
        let path := (s1.laneWord { neg := false, p := 0 }).path
        let trap (c a : Nat) : State := t.takeTrap t.cur
          { cause := c, arg := a, pc := path.pc, lane := true, mask := path.mask, done := 0, info := BitVec.ofNat 64 (b / 2 ^ 76 % 2 ^ 20 * 2 ^ 44), size := 0,
            mark := some { path := path.mask, active := path.mask, done := 0, push := none, unread := true } }
        path.redo = none →
        (Gives (fetchLane (s1.descOf s1.g.team).regs path.pc) s1 (.illegal k b) t → misses s1 (trap 1 k)) ∧
        (Gives (fetchLane (s1.descOf s1.g.team).regs path.pc) s1 (.poisoned b) t → misses s1 (trap 3 0))) ∧
      (s0.mayIssueLane g z = false → step s = .fault .noSuchAgent)) ∧
    (∀ w : Word, fetched s s.g.pc w t → Dec.isWide w.toNat = false → Dec.decodeScalar w.toNat 0 = .ok i → Gives fetchScalar s (.ok i) t) ∧
    (∀ w e : Word, fetched s s.g.pc w t → fetched t (s.g.pc + 4) e u → Dec.isWide w.toNat = true → Dec.decodeScalar w.toNat e.toNat = .ok i →
      Gives fetchScalar s (.ok i) u) ∧
    (∀ (pc : DWord) (regs : Nat) (a b c : Word), fetched s pc a t → fetched t (pc + 4) b u → fetched u (pc + 8) c v →
      Dec.decodeLane regs (a.toNat + 2 ^ 32 * b.toNat + 2 ^ 64 * c.toNat) = .ok i → Gives (fetchLane regs pc) s (.ok i) v) ∧
    (∀ (w e : Word) (k : Nat),
      (delivered s s.g.pc w true t → Gives fetchScalar s (.poisoned w.toNat) t) ∧
      (fetched s s.g.pc w t → Dec.isWide w.toNat = false → Dec.decodeScalar w.toNat 0 = .illegal k → Gives fetchScalar s (.illegal k w.toNat) t) ∧
      (fetched s s.g.pc w t → Dec.isWide w.toNat = true →
        (delivered t (s.g.pc + 4) e true u → Gives fetchScalar s (.poisoned w.toNat) u) ∧
        (fetched t (s.g.pc + 4) e u → Dec.decodeScalar w.toNat e.toNat = .illegal k → Gives fetchScalar s (.illegal k w.toNat) u))) ∧
    (∀ (pc : DWord) (regs k : Nat) (a b c : Word) (x y q : Bool), delivered s pc a x t → delivered t (pc + 4) b y u → delivered u (pc + 8) c q v →
      let bits := a.toNat + 2 ^ 32 * b.toNat + 2 ^ 64 * c.toNat
      ((x || y || q) = true → Gives (fetchLane regs pc) s (.poisoned bits) v) ∧
      ((x || y || q) = false → Dec.decodeLane regs bits = .illegal k → Gives (fetchLane regs pc) s (.illegal k bits) v)) ∧
    (∀ o, (o ∈ s.heldOwners u ↔ ∃ x, (o, x) ∈ u.owners ∧ x.ostate = (s.owner o).ostate ∧
      ((s.owner o).walkDebt < x.walkDebt ∨ (s.owner o).fillWaits < x.fillWaits))) ∧
    (s.heldOwners u = [] → s.carried (.next u) = .next u) ∧
    (s.heldOwners u ≠ [] → ∃ w, s.carried (.next u) = .next w ∧ { w with freeIdx := s.freeIdx, owners := s.owners } = s) ∧
    (∀ w k, t.counted i (.next u) = .next w →
      let d := t.dieOf t.cur
      let counts : Bool := !t.waited u i && (if k = 19 then isLane i && Instr.matrix i else if k = 16 then Config.firstOfCycle t.steps else k == (if isLane i then 18 else 17))
      { w with dieRegs := u.dieRegs, owners := u.owners, groups := u.groups } = u ∧ w.groups = (if t.waited u i then u else u.stampIssue t.cur t.slot).groups ∧
      tabGet 0 (w.die d).cnt k = tabGet 0 (u.die d).cnt k + (if counts then 1 else 0))

/-- R66, R138, R150, R152, R163, R170, R192, R213, R222, R299, R312, R335: words that the spec's own encoding examples write out decode to the instructions they stand
for. R54, R57, R58, R62, R65, R66, R74: one field of such a word changed makes it illegal, with the first subcause of the table: a reserved major, minor or lane opcode, a
selector or dest, a field that must be zero, a reserved space, an order without a scope, an unassigned register number, a v register beyond the group's. -/
def Obligations.DecodeWords : Prop :=
  let p0 : LPred := { neg := false, p := 0 }
  decodeTableWord 32 0x06084005 = some (.addImm 1 2 5) ∧
  decodeTableWord 32 0x02084180 = some (.add 1 2 3) ∧
  decodeTableWord 32 0x03906220 = some (.cmp .ltu 2 3 4) ∧
  decodeTableWord 64 0xFC0300001E900000 = some (.aluWide .add 18 0 0xFC030000) ∧
  decodeTableWord 32 0x249FFFFD = some (.bc 2 false (-3)) ∧
  decodeTableWord 64 0x000000103C188D10 = some (.ldX .w .acq .dev .gl 3 4 16) ∧
  decodeTableWord 64 0x144000004018CD17 = some (.amo .cas .w .acq .dev .gl 3 6 5 4 0) ∧
  decodeTableWord 32 0x4A00C103 = some (.cwr 0x103 6) ∧
  decodeTableWord 32 0x04A2A413 = some (.spawn 20 21 8) ∧
  decodeTableWord 32 0x040082BB = some (.arrivew 4 5) ∧
  decodeTableWord 32 0x04094640 = some (.dqpush 1 10 12) ∧
  decodeTableWord 32 0x0400828D = some (.tinv 4 5) ∧
  decodeTableWord 64 0x30B000105251A017 = some (.ramo .cas .w 10 13 12 11 16) ∧
  decodeTableWord 32 0x0400C397 = some (.pset 6 7) ∧
  decodeTableWord 96 0x00102100B359800000000000 = some (.vadd (.v 2 (some 0)) (.v 1) .lane p0 0) ∧
  decodeTableWord 96 0x0230A0058301A00100000000 = some (.vffma .rtz (.v 10 none) (.v 11) (.v 12) (.v 13) p0 0) ∧
  decodeTableWord 96 0x06100066331994000000FFFC = some (.vjoin { neg := true, p := 2 } (-4)) ∧
  decodeTableWord 96 0x0421E0050A03C00000000054 = some (.vscacc (.v 30 none) (.v 10) (.v 40) (.v 30) 0 1 5 p0) ∧
  decodeTableWord 96 0x09120066331981540034C2CA = some (.vmmas .ne4 .ne4 32 10 11 12 13 p0) ∧
  decodeTableWord 96 0x080090033319808C00000200 = some (.vldc .ne5 1 true .sp (.v 9 none) 6 p0 512) ∧
  decodeTableWord 96 0x07F0A0010301601A00000000 = some (.vamo .cas .acq .dev .gl (.v 10 none) 2 (.v 12) (.v 11) p0 0) ∧
  decodeTableWord 32 0x00000000 = none ∧
  (let sub (v : Dec.Decoded) (n : Nat) : Prop := v = .illegal n
   let vadd : Nat := 0x00102100B359800000000000
   sub (Dec.decodeScalar 0x00000000 0) 1 ∧ sub (Dec.decodeScalar 0x54000000 0) 1 ∧ sub (Dec.decodeScalar 0x02000017 0) 2 ∧ sub (Dec.decodeScalar 0x02084190 0) 6 ∧
   sub (Dec.decodeScalar 0x3C188DB0 16) 7 ∧ sub (Dec.decodeScalar 0x3C188810 16) 8 ∧ sub (Dec.decodeScalar 0x48080FFF 0) 9 ∧
   sub (Dec.decodeLane 192 (vadd + 0xFF0 * 2 ^ 84)) 3 ∧ sub (Dec.decodeLane 192 (vadd + 2 ^ 45)) 4 ∧ sub (Dec.decodeLane 192 (vadd + 0xC0 * 2 ^ 76)) 5 ∧
   sub (Dec.decodeLane 192 (vadd + 1)) 6 ∧ sub (Dec.decodeLane 1 vadd) 10)

/-- R50 to R70: no bit of an encoding is dropped: every well-formed instruction that has a word is what its words decode to, in a group with all 192 registers. The bits
of an immediate that a word does not use are the model's reading (log entry 26). -/
def Obligations.DecodeEncodeRoundTrip : Prop :=
  ∀ i : Instr, WellFormed i = true → hasWord i = true → decodeWords 192 (encode i) = .ok i

/-- Every step keeps the canonical form of device and host memory, so that equal memories are equal data. The form is the model's own (log entry 3); its bytes and codes
are those of R101 to R104. -/
def Obligations.MemoryFormKept : Prop :=
 ∀ s t : State, MemoryForm s → step s = .next t → MemoryForm t

/-- R123, R303, R400, R402 to R410: the machine right after a package reset with a strap: the values that the spec gives the registers, no owner, and memory in its
canonical form. A value among them that the manual does not give is the model's choice or reading (log entries 4 and 7). -/
def Obligations.ResetState : Prop :=
  MemoryForm State.reset ∧ ∀ strap d n, strap < 4 → d < 4 →
    let s := State.resetWith strap
    let die := s.die d
    let mask : Nat := if strap = 1 then (if d < 2 then 3 else 12) else if strap = 2 then 15 else 2 ^ d
    let sev (k : Nat) : Nat := if k = 2 ∨ k = 8 then 11 else if k = 3 then 10 else if k = 9 ∨ k = 10 ∨ k = 12 ∨ k = 14 then 2
      else if k = 0 ∨ k = 11 ∨ k = 15 then 0 else 1
    MemoryForm s ∧ s.owners = [] ∧ s.cycle = 0 ∧
    die.read 0x280 = BitVec.ofNat 64 mask ∧ die.read 0x284 = BitVec.ofNat 64 mask ∧
    (∀ k, k < 16 → (die.read 0x283).getLsbD k = (BitVec.ofNat 4 mask).getLsbD (k / 4)) ∧
    die.read 0x281 = 0 ∧ die.read 0x282 = 0 ∧ die.read 0x285 = 0 ∧ die.read 0x286 = 100 ∧ die.read 0x287 = 0xE4 ∧ die.read 0x288 = 3200 ∧
    die.read 0x218 = 65536 ∧ (die.read 0x240) >>> 2 = 0 ∧
    (n < 16 → die.read (0x220 + n) = 0 ∧ ∀ k, k < 16 → fld (die.read (0x200 + n)) (4 * k) 4 = sev n) ∧ (n < 256 → die.read (0x300 + n) = 0)

/-- R102: the check code of a word is the CRC-8 of its 32 bits and of bits 15 to 2 of its offset, highest first, with polynomial 7 from 255; the poison code is the check
code with 0x5A. R107: moving a word re-keys its code, whatever the code. -/
def Obligations.CheckCodes : Prop :=
  ∀ (w : Word) (off to_ : Nat), off < 65536 → to_ < 65536 → off % 4 = 0 → to_ % 4 = 0 →
    let message : List Bool := ((List.range 32).map (fun i => w.getMsbD i)) ++ ((List.range 14).map (fun i => off.testBit (15 - i)))
    let next (c : Byte) (b : Bool) : Byte := (c <<< 1) ^^^ (if c.msb ^^ b then 7 else 0)
    checkCode w off = message.foldl next 255 ∧ poisonCode w off = checkCode w off ^^^ 0x5A ∧
    (∀ c x : Byte, rekeyCode (c ^^^ x) off to_ = rekeyCode c off to_ ^^^ x) ∧
    rekeyCode (checkCode w off) off to_ = checkCode w to_ ∧ rekeyCode (poisonCode w off) off to_ = poisonCode w to_
end

