-- ==== Sys2Proof/Machine/AsmText.lean ====
section
/-! DEFINITION. skas, the assembler: source text, its lines and its tokens (R16 to R22), and the register names (R23). -/
namespace Sys2Proof.Machine.Asm

/-- The name of a file, as bytes. -/
abbrev FileName := List Byte
/-- Where skas reports an error (R16): lines and columns count from 1; the column is the byte at which the offending token begins
(log entry 48). -/
structure Diag where
  file : FileName
  line : Nat
  col : Nat
  deriving DecidableEq, Repr
/-- A broken rule of the chapter, and the column. What cannot be read gives the list of its errors (R16). -/
structure Err where
  rule : Nat
  col : Nat
  deriving DecidableEq, Repr

/-! ## Lines (R17) -/
/-- The lines of a file without their ends LF or CR LF; a last line without an end counts. -/
def splitLines : List Nat → List Nat → List (List Nat)
  | [], [] => []
  | acc, [] => [acc.reverse]
  | acc, c :: r =>
    if c = 10 then (match acc with | 13 :: a => a.reverse | a => a.reverse) :: splitLines [] r
    else splitLines (c :: acc) r
/-- The bytes are UTF-8: k bytes of a character are still to come, and the next one lies from lo to hi. -/
def utf8 : Nat → Nat → Nat → List Nat → Bool
  | 0, _, _, [] => true
  | _ + 1, _, _, [] => false
  | 0, _, _, c :: r =>
    if c < 0x80 then utf8 0 0x80 0xBF r
    else if 0xC2 ≤ c ∧ c ≤ 0xDF then utf8 1 0x80 0xBF r
    else if c = 0xE0 then utf8 2 0xA0 0xBF r
    else if c = 0xED then utf8 2 0x80 0x9F r
    else if 0xE1 ≤ c ∧ c ≤ 0xEF then utf8 2 0x80 0xBF r
    else if c = 0xF0 then utf8 3 0x90 0xBF r
    else if c = 0xF4 then utf8 3 0x80 0x8F r
    else if 0xF1 ≤ c ∧ c ≤ 0xF3 then utf8 3 0x80 0xBF r
    else false
  | k + 1, lo, hi, c :: r => decide (lo ≤ c) && decide (c ≤ hi) && utf8 k 0x80 0xBF r

/-! ## Characters -/
def isDigit (c : Nat) : Bool := decide (48 ≤ c) && decide (c ≤ 57)
def isUpper (c : Nat) : Bool := decide (65 ≤ c) && decide (c ≤ 90)
def isLower (c : Nat) : Bool := decide (97 ≤ c) && decide (c ≤ 122)
/-- The first character of an identifier, and the later ones (R20). -/
def isStart (c : Nat) : Bool := isUpper c || isLower c || c == 95
def isIdent (c : Nat) : Bool := isStart c || isDigit c || c == 46
def isPrint (c : Nat) : Bool := decide (32 ≤ c) && decide (c ≤ 126)
def toLower (c : Nat) : Nat := if isUpper c then c + 32 else c
/-- The text of ASCII codes. -/
def textOf (l : List Nat) : String := String.ofList (l.map Char.ofNat)
/-- The value of a digit of any base. -/
def digitVal (c : Nat) : Nat :=
  if isDigit c then c - 48 else if isLower c then c - 87 else if isUpper c then c - 55 else 99
def digitsVal (base : Nat) (l : List Nat) : Nat := l.foldl (fun n c => base * n + digitVal c) 0

/-! ## Register names (R19, R23) -/
/-- How a word reads as a register: not as one, as one whose index is out of its range, or as register idx of a class of R48. -/
inductive RegName where
  | no | bad
  | reg (cls idx : Nat)
  deriving DecidableEq, Repr
/-- The classes of registers with their ranges. -/
def regClasses : List (Nat × Nat × Nat) :=
  [(115, 0, 64), (102, 1, 8), (109, 2, 8), (97, 3, 8), (113, 4, 8), (121, 5, 2), (118, 6, 192), (112, 7, 8), (98, 8, 4)]
/-- The control registers with a name of their own (R122, R405, R410). -/
def cregNames : List (String × Nat) :=
  [("c.owner", 0x000), ("c.core", 0x001), ("c.clus", 0x002), ("c.die", 0x003), ("c.team", 0x004), ("c.grp", 0x005), ("c.depth", 0x006),
   ("c.cycle", 0x007), ("c.utrap", 0x010), ("c.tcause", 0x011), ("c.tpc", 0x012), ("c.tmask", 0x013), ("c.tinfo", 0x014),
   ("c.tspc", 0x015), ("c.tctl", 0x016), ("c.fpen", 0x018), ("c.fxinv", 0x019), ("c.fxdz", 0x01A), ("c.fxof", 0x01B),
   ("c.fxuf", 0x01C), ("c.fxnx", 0x01D), ("c.fxsat", 0x01E), ("c.hvec", 0x100), ("c.pvec", 0x101), ("c.rvec", 0x102),
   ("c.pbud", 0x103), ("c.pleft", 0x104), ("c.fmask", 0x108), ("c.dmask", 0x109), ("c.frec", 0x10A), ("c.hcause", 0x10B),
   ("c.sframe", 0x10C), ("c.wline", 0x10D), ("c.ostat", 0x10E), ("c.spool", 0x10F), ("c.fqbase", 0x110), ("c.fqcap", 0x111),
   ("c.fqhead", 0x112), ("c.fqtail", 0x113), ("c.elbase", 0x210), ("c.elcap", 0x211), ("c.elhead", 0x212), ("c.eltail", 0x213),
   ("c.trlim", 0x218), ("c.spstat", 0x240), ("c.svec", 0x241), ("c.pcfg", 0x280), ("c.pcmd", 0x281), ("c.pstat", 0x282),
   ("c.mint", 0x283), ("c.nbnd", 0x284), ("c.plim", 0x285), ("c.qto", 0x286), ("c.elect", 0x287), ("c.pcap", 0x288)]
/-- The numbered control registers: the name before the number, the first register and how many there are (R405). -/
def cregArrays : List (String × Nat × Nat) := [("c.sev", 0x200, 16), ("c.port", 0x220, 16), ("c.cnt", 0x300, 256)]
/-- A word in lower case, as a register. Class 9 is that of the control registers (R48). An index is written without leading zeros: s01 names no register of the range (R23;
log entry 48). -/
def regName (low : List Nat) : RegName :=
  let ds := (low.reverse.takeWhile isDigit).reverse
  let head := low.take (low.length - ds.length)
  let plain := !ds.isEmpty && (ds.length == 1 || ds.headD 0 != 48)
  let idx := digitsVal 10 ds
  match head with
  | [c] =>
    if ds.isEmpty then .no
    else match regClasses.find? (fun x => x.1 == c) with
      | some (_, cls, n) => if plain && decide (idx < n) then .reg cls idx else .bad
      | none => .no
  | 99 :: 46 :: _ =>
    match cregNames.find? (fun x => x.1 == textOf low) with
    | some (_, n) => .reg 9 n
    | none =>
      match cregArrays.find? (fun x => x.1 == textOf head) with
      | some (_, base, n) => if plain && decide (idx < n) then .reg 9 (base + idx) else .bad
      | none => .no
  | _ => .no

/-! ## Tokens (R18, R20 to R22, R33) -/
/-- A token: a word with its spelling in lower case and as a register; the name of a directive in lower case; an integer, and whether its
literal is digits alone; a reference to a numeric label; a decimal float m * 10^e; the bytes of a string; punctuation; characters that make no token, whose errors are
reported on their own. -/
inductive TokKind where
  | word (s low : String) (reg : RegName)
  | dir (low : String)
  | int (n : Nat) (digits : Bool)
  | ref (n : Nat) (fwd : Bool)
  | float (m : Nat) (e : Int)
  | str (b : List Byte)
  | sym (s : String)
  | bad
  deriving DecidableEq, Repr
structure Tok where
  k : TokKind
  col : Nat
  deriving DecidableEq, Repr
def Tok.is (t : Tok) (s : String) : Bool := t.k == .sym s

/-- An underscore stands only between two digits (R21). -/
def underscores : Bool → List Nat → Bool
  | _, [] => true
  | prev, 95 :: r => prev && (match r with | c :: _ => c != 95 | [] => false) && underscores false r
  | _, _ :: r => underscores true r
/-- An integer literal of a base (R21). -/
def intLit (base : Nat) (l : List Nat) : Option Nat :=
  let ds := l.filter (· != 95)
  let v := digitsVal base ds
  if !ds.isEmpty && underscores false l && ds.all (fun c => decide (digitVal c < base)) && decide (v < 2 ^ 64) then some v else none
/-- The exponent of a float: its value and the characters it takes. -/
def exponent (r : List Nat) : Option (Int × Nat) :=
  match r with
  | c :: r =>
    if c = 101 ∨ c = 69 then
      let (neg, skip, r) : Bool × Nat × List Nat := match r with
        | 45 :: r => (true, 2, r)
        | 43 :: r => (false, 2, r)
        | r => (false, 1, r)
      let ds := r.takeWhile isDigit
      if ds.isEmpty then none else some ((if neg then -(digitsVal 10 ds : Int) else digitsVal 10 ds), skip + ds.length)
    else none
  | [] => none
/-- A token that begins with a digit, with the characters it takes. A decimal float is digits with a point and digits after it, or an exponent, or both (R21; log entry
48). -/
def number (l : List Nat) : Option (TokKind × Nat) :=
  let run := l.takeWhile (fun c => isIdent c && c != 46)
  let ds := l.takeWhile isDigit
  let rest := l.drop ds.length
  let whole (k : Option Nat) : Option (TokKind × Nat) := k.map (fun n => (.int n false, run.length))
  match run with
  | 48 :: 120 :: h => whole (intLit 16 h)
  | _ =>
    if run.take 2 == [48, 98] && decide (2 < run.length) then whole (intLit 2 (run.drop 2))
    else
      let frac := match rest with
        | 46 :: r => r.takeWhile isDigit
        | _ => []
      let after := if frac.isEmpty then rest else rest.drop (1 + frac.length)
      let (e, n) := (exponent after).getD (0, 0)
      let len := ds.length + (if frac.isEmpty then 0 else 1 + frac.length) + n
      if !frac.isEmpty || n != 0 then
        if (l.drop len).headD 0 |> isIdent then none
        else some (.float (digitsVal 10 (ds ++ frac)) (e - frac.length), len)
      else if run == ds ++ [98] then some (.ref (digitsVal 10 ds) false, run.length)
      else if run == ds ++ [102] then some (.ref (digitsVal 10 ds) true, run.length)
      else (intLit 10 run).map (fun n => (.int n (run == ds), run.length))
/-- The characters of a string after its first quote (R22): its bytes, with the characters it takes. -/
def stringLit : Nat → List Nat → List Nat → Option (List Nat × Nat)
  | n, acc, 34 :: _ => some (acc.reverse, n + 1)
  | n, acc, 92 :: 34 :: r => stringLit (n + 2) (34 :: acc) r
  | n, acc, 92 :: 92 :: r => stringLit (n + 2) (92 :: acc) r
  | n, acc, 92 :: 110 :: r => stringLit (n + 2) (10 :: acc) r
  | n, acc, 92 :: 116 :: r => stringLit (n + 2) (9 :: acc) r
  | n, acc, 92 :: 120 :: a :: b :: r =>
    if digitVal a < 16 ∧ digitVal b < 16 then stringLit (n + 4) ((16 * digitVal a + digitVal b) :: acc) r else none
  | _, _, 92 :: _ => none
  | n, acc, c :: r => stringLit (n + 1) (c :: acc) r
  | _, _, [] => none
/-- Where a string literal with a bad escape ends: the characters up to its closing quote and with it. -/
def stringEnd : Nat → List Nat → Option Nat
  | n, 34 :: _ => some (n + 1)
  | n, 92 :: _ :: r => stringEnd (n + 2) r
  | n, _ :: r => stringEnd (n + 1) r
  | _, [] => none
/-- The bytes from column col on that R17 does not allow, up to a comment. Of a character of several bytes the first one tells. -/
def stray : Nat → List Nat → List Err
  | _, [] => []
  | col, c :: r =>
    if c = 59 ∨ (c = 47 ∧ r.headD 0 = 47) then []
    else (if c = 9 || isPrint c || (decide (0x80 ≤ c) && decide (c < 0xC0)) then [] else [{ rule := 17, col := col }]) ++ stray (col + 1) r
/-- A character literal after its first quote (R21): of the space too, which R17 names apart from printable ASCII (log entry 48). -/
def charLit : List Nat → Option (Nat × Nat)
  | 92 :: 39 :: 39 :: _ => some (39, 4)
  | 92 :: 92 :: 39 :: _ => some (92, 4)
  | c :: 39 :: _ => if isPrint c && c != 39 && c != 92 then some (c, 3) else none
  | _ => none
/-- Punctuation, a longer spelling before its beginnings. -/
def symbols : List String :=
  [">>>", "<<", ">>", "<=", ">=", "==", "!=", "&&", "||", "(", ")", ",", ":", "+", "-", "*", "/", "%", "~", "!", "<", ">", "&", "^", "|", "=", "."]
def codes (s : String) : List Nat := s.toList.map Char.toNat
/-- The word at the head of a line's rest. -/
def wordTok (w : List Nat) : TokKind :=
  let low := w.map toLower
  .word (textOf w) (textOf low) (regName low)
/-- One token at column col, its errors, and the characters it takes. In a character literal ';' begins no comment and the space is a printable character (R18, R21; log
entry 48). What follows a quote that no other closes is no string literal, and R17 holds of it. -/
def token (col : Nat) (l : List Nat) : TokKind × List Err × Nat :=
  let ok (k : TokKind) (n : Nat) : TokKind × List Err × Nat := (k, [], n)
  let bad (rule n : Nat) : TokKind × List Err × Nat := (.bad, [{ rule := rule, col := col }], n)
  let run := (l.takeWhile isIdent).length
  match l with
  | [] => bad 33 1
  | c :: r =>
    if c = 34 then
      match stringLit 1 [] r, stringEnd 1 r with
      | some (b, n), _ => ok (.str (b.map (BitVec.ofNat 8))) n
      | none, some n => bad 22 n
      | none, none => (.bad, { rule := 22, col := col } :: stray (col + 1) r, l.length)
    else if !isPrint c then bad 17 (1 + (r.takeWhile (fun x => decide (0x80 ≤ x) && decide (x < 0xC0))).length)
    else if c = 39 then (match charLit r with | some (v, n) => ok (.int v false) n | none => bad 21 1)
    else if isDigit c then (match number l with | some (k, n) => ok k n | none => bad 21 run)
    else if isStart c then
      let w := l.takeWhile isIdent
      if w.length ≤ 255 then ok (wordTok w) w.length else bad 20 run
    else if c = 46 ∧ isStart (r.headD 0) then
      let w := r.takeWhile isIdent
      if w.length ≤ 255 then ok (.dir (textOf (w.map toLower))) (w.length + 1) else bad 20 run
    else match symbols.find? (fun s => (codes s).isPrefixOf l) with
      | some s => ok (.sym s) s.length
      | none => bad 33 1
/-- The tokens of a line from column col on, and its errors; a comment ends it (R18). -/
def tokens : Nat → Nat → List Nat → List Tok × List Err
  | 0, _, _ => ([], [])
  | _ + 1, _, [] => ([], [])
  | fuel + 1, col, c :: r =>
    if c = 32 ∨ c = 9 then tokens fuel (col + 1) r
    else if c = 59 ∨ (c = 47 ∧ r.headD 0 = 47) then ([], [])
    else
      let (k, bad, n) := token col (c :: r)
      let (ts, es) := tokens fuel (col + n) ((c :: r).drop n)
      ({ k := k, col := col } :: ts, bad ++ es)
/-- A line: at most 1,024 bytes of UTF-8 (R17). -/
def lexLine (l : List Nat) : List Tok × List Err :=
  let long : List Err := if 1024 < l.length then [{ rule := 17, col := 1025 }] else []
  if !utf8 0 0x80 0xBF l then ([], { rule := 17, col := 1 } :: long)
  else
    let (ts, es) := tokens (l.length + 1) 1 l
    (ts, es ++ long)

end Sys2Proof.Machine.Asm
end

