-- ==== Sys2Proof/Machine/AsmExpr.lean ====
section
/-! DEFINITION. skas: expressions (R28 to R31), operands (R24, R25, R33) and float literals (R39, R40). -/
namespace Sys2Proof.Machine.Asm

/-! ## Expressions (R28, R33) -/
inductive UnOp where
  | neg | compl | lnot
  deriving DecidableEq, Repr
inductive BinOp where
  | mul | div | rem | add | sub | shl | sar | shr | lt | le | gt | ge | eq | ne | and | xor | or | land | lor
  deriving DecidableEq, Repr
inductive Fn where
  | lo32 | hi32 | log2
  deriving DecidableEq, Repr
/-- An expression; each name, operator and function with its column. -/
inductive Expr where
  | int (n : Nat)
  | name (s : String) (col : Nat)
  | dot (col : Nat)
  | un (op : UnOp) (x : Expr) (col : Nat)
  | bin (op : BinOp) (x y : Expr) (col : Nat)
  | fn (f : Fn) (x : Expr) (col : Nat)
  | isDef (s : String)
  deriving DecidableEq, Repr

/-- The binary operators with how tightly they bind: 10 is the row of the multiplication, 1 the last row (R28). -/
def binOps : List (String × Nat × BinOp) :=
  [("*", 10, .mul), ("/", 10, .div), ("%", 10, .rem), ("+", 9, .add), ("-", 9, .sub), ("<<", 8, .shl), (">>", 8, .sar), (">>>", 8, .shr),
   ("<", 7, .lt), ("<=", 7, .le), (">", 7, .gt), (">=", 7, .ge), ("==", 6, .eq), ("!=", 6, .ne), ("&", 5, .and), ("^", 4, .xor),
   ("|", 3, .or), ("&&", 2, .land), ("||", 1, .lor)]
def unOps : List (String × UnOp) := [("-", .neg), ("~", .compl), ("!", .lnot)]
def fns : List (String × Fn) := [("lo32", .lo32), ("hi32", .hi32), ("log2", .log2)]
/-- An identifier (R20): not a register name, and not a reserved word. -/
def identOf (t : Tok) : Except (List Err) String :=
  match t.k with
  | .word s _ r =>
    if r != .no then .error [{ rule := if r == .bad then 23 else 20, col := t.col }]
    else if s == "lane" || s == "zero" || s == "defined" then .error [{ rule := 20, col := t.col }]
    else .ok s
  | .dir _ => .error [{ rule := 20, col := t.col }] | .int _ _ => .error [{ rule := 20, col := t.col }]
  | .ref _ _ => .error [{ rule := 20, col := t.col }] | .float _ _ => .error [{ rule := 20, col := t.col }]
  | .str _ => .error [{ rule := 20, col := t.col }] | .sym _ => .error [{ rule := 20, col := t.col }]
  | .bad => .error []
/-- What the parser reads next: a unary expression, an expression whose operators bind at least as tightly as m, or the rest of one that
begins with lhs. -/
inductive Want where
  | unary
  | from (m : Nat)
  | more (m : Nat) (lhs : Expr)
/-- The expression at the head of the tokens, with the tokens after it; col is the column reported where the line ends too early. -/
def parse : Nat → Nat → Want → List Tok → Except (List Err) (Expr × List Tok)
  | 0, col, _, _ => .error [{ rule := 33, col := col }]
  | n + 1, col, .from m, ts =>
    match parse n col .unary ts with
    | .ok (x, r) => parse n col (.more m x) r
    | .error e => .error e
  | n + 1, col, .more m x, ts =>
    match ts with
    | { k := .sym s, col := c } :: r =>
      match binOps.find? (fun o => o.1 == s) with
      | some (_, p, op) =>
        if m ≤ p then
          match parse n col (.from (p + 1)) r with
          | .ok (y, r) => parse n col (.more m (.bin op x y c)) r
          | .error e => .error e
        else .ok (x, ts)
      | none => .ok (x, ts)
    | _ => .ok (x, ts)
  | n + 1, col, .unary, ts =>
    match ts with
    | [] => .error [{ rule := 33, col := col }]
    | t :: r =>
      match t.k with
      | .int v _ => .ok (.int v, r)
      | .sym "." => .ok (.dot t.col, r)
      | .sym "(" =>
        match parse n col (.from 1) r with
        | .ok (x, { k := .sym ")", col := _ } :: r) => .ok (x, r)
        | .ok (_, r) => .error (if r.any (fun t => t.k == .bad) then [] else [{ rule := 33, col := t.col }])
        | .error e => .error e
      | .sym s =>
        match unOps.find? (fun o => o.1 == s) with
        | some (_, op) =>
          match parse n col .unary r with
          | .ok (x, r) => .ok (.un op x t.col, r)
          | .error e => .error e
        | none => .error [{ rule := 33, col := t.col }]
      | .word s _ _ =>
        match r with
        | { k := .sym "(", col := _ } :: r' =>
          if s == "defined" then
            match r' with
            | w :: { k := .sym ")", col := _ } :: r => (identOf w).map (fun s => (.isDef s, r))
            | _ => .error [{ rule := 33, col := t.col }]
          else
            match fns.find? (fun f => f.1 == s) with
            | some (_, f) =>
              match parse n col (.from 1) r' with
              | .ok (x, { k := .sym ")", col := _ } :: r) => .ok (.fn f x t.col, r)
              | .ok _ => .error [{ rule := 33, col := t.col }]
              | .error e => .error e
            | none => (identOf t).map (fun s => (.name s t.col, r))
        | _ => (identOf t).map (fun s => (.name s t.col, r))
      | .float _ _ => .error [{ rule := 21, col := t.col }]
      | .dir _ => .error [{ rule := 33, col := t.col }]
      | .ref _ _ => .error [{ rule := 33, col := t.col }]
      | .str _ => .error [{ rule := 33, col := t.col }]
      | .bad => .error []
/-- The tokens are one expression. -/
def parseExpr (col : Nat) (ts : List Tok) : Except (List Err) Expr :=
  match parse (4 * ts.length + 8) col (.from 1) ts with
  | .ok (x, []) => .ok x
  | .ok (_, t :: _) => .error (if t.k == .bad then [] else [{ rule := 33, col := t.col }])
  | .error e => .error e

/-! ## Values (R28 to R30) -/
inductive Sect where
  | scode | lcode | data | course
  deriving DecidableEq, Repr
/-- The number of a section in a relocation (R47). -/
def Sect.num : Sect → Nat
  | .scode => 0 | .lcode => 1 | .data => 2 | .course => 3
/-- A value: absolute, or a byte offset within a section. -/
structure Val where
  v : DWord
  rel : Option Sect
  deriving DecidableEq, Repr
def Val.abs (v : DWord) : Val := { v := v, rel := none }
def truth (b : Bool) : DWord := if b then 1 else 0
/-- An operator on absolute values; none where R29 rejects it. -/
def BinOp.eval (op : BinOp) (a b : DWord) : Option DWord :=
  let count := if b.toNat ≤ 63 then some b.toNat else none
  match op with
  | .mul => some (a * b) | .add => some (a + b) | .sub => some (a - b)
  | .div => if b = 0 then none else some (BitVec.ofInt 64 (a.toInt.tdiv b.toInt))
  | .rem => if b = 0 then none else some (BitVec.ofInt 64 (a.toInt.tmod b.toInt))
  | .shl => count.map (a <<< ·) | .sar => count.map (a.sshiftRight ·) | .shr => count.map (a >>> ·)
  | .lt => some (truth (decide (a.toInt < b.toInt))) | .le => some (truth (decide (a.toInt ≤ b.toInt)))
  | .gt => some (truth (decide (b.toInt < a.toInt))) | .ge => some (truth (decide (b.toInt ≤ a.toInt)))
  | .eq => some (truth (a == b)) | .ne => some (truth (a != b))
  | .and => some (a &&& b) | .xor => some (a ^^^ b) | .or => some (a ||| b)
  | .land => some (truth (a != 0 && b != 0)) | .lor => some (truth (a != 0 || b != 0))
/-- An operator on values of either kind (R30). -/
def BinOp.vals (op : BinOp) (x y : Val) (col : Nat) : Except (List Err) Val :=
  match x.rel, y.rel with
  | none, none => match op.eval x.v y.v with | some v => .ok (.abs v) | none => .error [{ rule := 29, col := col }]
  | some s, none =>
    if op = .add then .ok { v := x.v + y.v, rel := some s } else if op = .sub then .ok { v := x.v - y.v, rel := some s }
    else .error [{ rule := 30, col := col }]
  | none, some s => if op = .add then .ok { v := x.v + y.v, rel := some s } else .error [{ rule := 30, col := col }]
  | some s, some t => if op = .sub ∧ s = t then .ok (.abs (x.v - y.v)) else .error [{ rule := 30, col := col }]
def UnOp.eval (op : UnOp) (a : DWord) : DWord :=
  match op with | .neg => -a | .compl => ~~~a | .lnot => truth (a == 0)
/-- A function; none where R29 rejects it. The value of log2 is that of the 64 bits as a power of two, of 2^63 too (log entry 48). -/
def Fn.eval (f : Fn) (a : DWord) : Option DWord :=
  match f with
  | .lo32 => some (a &&& 0xFFFFFFFF)
  | .hi32 => some (a >>> 32)
  | .log2 => if a != 0 && (a &&& (a - 1)) == 0 then some (BitVec.ofNat 64 (Nat.log2 a.toNat)) else none
/-- What an expression's names mean where it stands: a symbol's value, whether it is defined before the line, the location counter, and
whether a symbol's value depends on the layout of its section or is not known yet (R32). -/
structure Scope where
  look : String → Nat → Except (List Err) Val
  defd : String → Bool
  dot : Option Val
  dep : String → Bool
/-- The value of an expression. -/
def Expr.eval (sc : Scope) : Expr → Except (List Err) Val
  | .int n => .ok (.abs (BitVec.ofNat 64 n))
  | .name s col => sc.look s col
  | .dot col => match sc.dot with | some v => .ok v | none => .error [{ rule := 35, col := col }]
  | .isDef s => .ok (.abs (truth (sc.defd s)))
  | .un op x col =>
    match x.eval sc with
    | .ok { v := v, rel := none } => .ok (.abs (op.eval v))
    | .ok { v := _, rel := some _ } => .error [{ rule := 30, col := col }]
    | .error e => .error e
  | .bin op x y col =>
    match x.eval sc, y.eval sc with
    | .ok a, .ok b => op.vals a b col
    | .error e, .error f => .error (e ++ f)
    | .error e, .ok _ => .error e
    | .ok _, .error f => .error f
  | .fn f x col =>
    match x.eval sc with
    | .ok { v := v, rel := none } => match f.eval v with | some v => .ok (.abs v) | none => .error [{ rule := 29, col := col }]
    | .ok { v := _, rel := some _ } => .error [{ rule := 30, col := col }]
    | .error e => .error e
/-- The value depends on the layout: it names the location counter, or a symbol that does (R32). -/
def Expr.dep (sc : Scope) : Expr → Bool
  | .int _ => false
  | .name s _ => sc.dep s
  | .dot _ => true
  | .isDef _ => false
  | .un _ x _ => x.dep sc
  | .bin _ x y _ => x.dep sc || y.dep sc
  | .fn _ x _ => x.dep sc
/-- An expression whose value must be absolute (R31). -/
def Expr.absolute (sc : Scope) (col : Nat) (x : Expr) : Except (List Err) DWord :=
  match x.eval sc with
  | .ok { v := v, rel := none } => .ok v
  | .ok { v := _, rel := some _ } => .error [{ rule := 31, col := col }]
  | .error e => .error e

/-! ## Operands (R24, R25, R33) -/
/-- What an operand is written as; bad is one that cannot be read, whose errors have been reported. -/
inductive Form where
  | reg (cls idx : Nat)
  | neg (cls idx : Nat)
  | latched (v b : Nat)
  | lane | zero
  | mem (disp : Option Expr) (cls idx : Nat)
  | expr (x : Expr)
  | ref (n : Nat) (fwd : Bool)
  | bad
  deriving DecidableEq, Repr
structure Operand where
  f : Form
  col : Nat
  deriving DecidableEq, Repr
/-- A word as a register: none where it is not one. -/
def Tok.reg (t : Tok) : Option (Nat × Nat) :=
  match t.k with
  | .word _ _ (.reg c i) => some (c, i)
  | .word _ _ .no => none | .word _ _ .bad => none | .dir _ => none | .int _ _ => none | .ref _ _ => none
  | .float _ _ => none | .str _ => none | .sym _ => none | .bad => none
def Tok.text (t : Tok) : String :=
  match t.k with
  | .word s _ _ => s
  | .dir _ => "" | .int _ _ => "" | .ref _ _ => "" | .float _ _ => "" | .str _ => "" | .sym _ => "" | .bad => ""
/-- The operand that one run of tokens writes; a memory operand ends in a register in parentheses. -/
def operandForm (col : Nat) (ts : List Tok) : Except (List Err) Form :=
  let asExpr := (parseExpr col ts).map Form.expr
  match ts with
  | [t] =>
    match t.k with
    | .ref n fwd => .ok (.ref n fwd)
    | .word s _ r =>
      match r with
      | .reg c i => .ok (.reg c i)
      | .bad => .error [{ rule := 23, col := t.col }]
      | .no => if s == "lane" then .ok .lane else if s == "zero" then .ok .zero else asExpr
    | .dir _ => asExpr | .int _ _ => asExpr | .float _ _ => asExpr | .str _ => asExpr | .sym _ => asExpr | .bad => asExpr
  | [a, b] =>
    match a.is "!", b.reg with
    | true, some (c, i) => if c = 1 ∨ c = 7 then .ok (.neg c i) else .error [{ rule := 33, col := b.col }]
    | _, _ => asExpr
  | ts =>
    match ts with
    | [a, b, c] =>
      match a.reg, b.is ":", c.reg with
      | some (6, v), true, some (8, l) => .ok (.latched v l)
      | _, _, _ =>
        match a.is "(", b.reg, c.is ")" with
        | true, some (cls, i), true => .ok (.mem none cls i)
        | _, _, _ => asExpr
    | ts =>
      match ts.reverse with
      | c :: b :: a :: r =>
        match a.is "(", b.reg, c.is ")" with
        | true, some (cls, i), true => (parseExpr col r.reverse).map (fun x => .mem (some x) cls i)
        | _, _, _ => asExpr
      | _ => asExpr
/-- The runs of tokens between commas. -/
def splitCommas : List Tok → List (List Tok)
  | [] => [[]]
  | t :: r =>
    if t.is "," then [] :: splitCommas r
    else match splitCommas r with
      | p :: ps => (t :: p) :: ps
      | [] => [[t]]
/-- The arguments of a statement: none where no token stands. -/
def args (ts : List Tok) : List (List Tok) := if ts.isEmpty then [] else splitCommas ts
def colOf (dflt : Nat) (ts : List Tok) : Nat := (ts.head?.map (·.col)).getD dflt
def operand (dflt : Nat) (ts : List Tok) : Except (List Err) Operand :=
  (operandForm (colOf dflt ts) ts).map (fun f => { f := f, col := colOf dflt ts })

/-! ## Float literals (R21, R39, R40) -/
/-- A float operand. -/
inductive Lit where
  | fin (neg : Bool) (m : Nat) (e : Int)
  | inf (neg : Bool)
  | nan (neg : Bool)
  deriving DecidableEq, Repr
def Lit.ofTok (neg : Bool) (t : Tok) : Option Lit :=
  match t.k with
  | .float m e => some (.fin neg m e)
  | .int n true => some (.fin neg n 0)
  | .word s _ _ => if s == "inf" then some (.inf neg) else if s == "nan" then some (.nan neg) else none
  | .int _ false => none | .dir _ => none | .ref _ _ => none | .str _ => none | .sym _ => none | .bad => none
def literal (dflt : Nat) (ts : List Tok) : Except (List Err) (Lit × Nat) :=
  let l := match ts with
    | [t] => Lit.ofTok false t
    | [a, t] => if a.is "-" then Lit.ofTok true t else none
    | _ => none
  match l with
  | some l => .ok (l, colOf dflt ts)
  | none => .error (if ts.any (fun t => t.k == .bad) then [] else [{ rule := 21, col := colOf dflt ts }])
/-- The code of a magnitude m * 10^e rounded to nearest even, with mb mantissa bits, the finest unit 2^qmin, and no bound above. -/
def roundTen (mb : Nat) (qmin : Int) (m : Nat) (e : Int) : Nat :=
  if m = 0 then 0
  else
    let (n, k, more) : Nat × Int × Bool :=
      if 0 ≤ e then (m * 10 ^ e.toNat, 0, false)
      else
        let d := 10 ^ (-e).toNat
        let s := Nat.log2 d + 200
        (m * 2 ^ s / d, -(s : Int), m * 2 ^ s % d != 0)
    (Num.roundMag (Num.upOf .rne) mb (some qmin) false n k more).code mb qmin
/-- A finite literal in a format whose codes have a sign bit above bits magnitude bits, and whose largest finite code is top; none where it
exceeds that (R39, R40). -/
def finite (mb : Nat) (qmin : Int) (bits top : Nat) (neg : Bool) (m : Nat) (e : Int) : Option Nat :=
  let c := roundTen mb qmin m e
  if top < c then none else some ((if neg then 2 ^ bits else 0) + c)
/-- .f32: infinities and nan as well; the sign of a nan is a value that the manual does not give (log entry 48). -/
def Lit.f32 : Lit → Option Nat
  | .fin neg m e => finite 23 (-149) 31 0x7F7FFFFF neg m e
  | .inf neg => some (if neg then 0xFF800000 else 0x7F800000)
  | .nan false => some 0x7FC00000
  | .nan true => some Config.negatedNan.toNat
/-- .f8 in e4m3 or e5m2. -/
def Lit.f8 (e5 : Bool) : Lit → Option Nat
  | .fin neg m e => if e5 then finite 2 (-16) 7 127 neg m e else finite 3 (-9) 7 127 neg m e
  | .inf _ => none | .nan _ => none
/-- .celem in NE4.32 or NE5.32 (R82). -/
def Lit.course (ne5 : Bool) : Lit → Option Nat
  | .fin neg m e => if ne5 then finite 26 (-40) 31 (2 ^ 31 - 1) neg m e else finite 27 (-33) 31 (2 ^ 31 - 1) neg m e
  | .inf _ => none | .nan _ => none

end Sys2Proof.Machine.Asm
end

