-- ==== Sys2Proof/Machine/AsmForms.lean ====
section
/-! DEFINITION. skas: mnemonics and suffixes (R26, R27), the forms they choose (R65 to R69, R71, R373, R381), and the words and records of
one instruction. -/
namespace Sys2Proof.Machine.Asm

/-! ## Suffixes (R26, R27, R62 to R64) -/
/-- A suffix of a template: its class, its spellings with their codes, and whether it must stand. -/
structure Suffix where
  cls : Nat
  opts : List (String × Nat)
  must : Bool
/-- Spellings with the codes 0, 1, … -/
def numbered (l : List String) : List (String × Nat) := l.zip (List.range l.length)
def must (cls : Nat) (opts : List (String × Nat)) : Suffix := { cls := cls, opts := opts, must := true }
def may (cls : Nat) (opts : List (String × Nat)) : Suffix := { cls := cls, opts := opts, must := false }
def condNames : List (String × Nat) := numbered ["eq", "ne", "lt", "ge", "le", "gt", "ltu", "geu"]
def fcondNames : List (String × Nat) := numbered ["eq", "ne", "lt", "le", "gt", "ge", "un", "ord"]
def opNames : List (String × Nat) := numbered ["add", "min", "max", "and", "or", "xor", "exch", "cas"]
def redNames : List (String × Nat) := numbered ["add", "min", "max", "minu", "and", "or", "xor", "fadd", "fmin", "fmax"]
def widthNames : List (String × Nat) := numbered ["b", "h", "w", "d"]
def fmtNames : List (String × Nat) :=
  numbered ["f32", "i32", "n32", "e4m3", "e5m2", "e2m1", "i8", "n8", "i4", "e8s", "ne4", "ne5"]
def familyNames : List (String × Nat) := [("ne4", 10), ("ne5", 11)]
def courseNames : List (String × Nat) := [("k1", 1), ("k2", 2), ("k3", 3), ("k4", 4)]
def rndNames : List (String × Nat) := numbered ["rne", "rtz", "rup", "rdn"]
def spaceNames : List (String × Nat) := numbered ["gl", "pv", "sp", "cl", "ch"]
def orderNames : List (String × Nat) := numbered ["rlx", "acq", "rel", "ar"]
def scopeNames : List (String × Nat) := [("grp", 1), ("team", 2), ("clus", 3), ("die", 4), ("dev", 5), ("sys", 6), ("rmt", 7)]
/-- Space, order and scope of an access. -/
def accessSuffixes : List Suffix := [may 5 spaceNames, may 6 orderNames, may 7 scopeNames]
/-- The code of each suffix of a template, none for one that does not stand; none where the written suffixes do not follow the template. -/
def readSuffixes : List Suffix → List String → Option (List (Option Nat))
  | [], [] => some []
  | [], _ :: _ => none
  | t :: ts, [] => if t.must then none else (readSuffixes ts []).map (none :: ·)
  | t :: ts, s :: ss =>
    match t.opts.find? (fun o => o.1 == s) with
    | some (_, n) => (readSuffixes ts ss).map (some n :: ·)
    | none => if t.must then none else (readSuffixes ts (s :: ss)).map (none :: ·)

/-! ## Mnemonics -/
/-- The form an instruction takes (R71): one form; or the short one where the constant fits it and the wide one otherwise, with the
constant negated for sub (R65). -/
inductive Choice where
  | one (form : Nat)
  | sized (short wide : Nat) (neg : Bool)
  deriving DecidableEq, Repr
/-- A mnemonic: whether it is a lane instruction, its suffixes, whether its last operand is a memory operand, and the form chosen from the
suffix codes (0 where absent) and the operands. -/
structure Mnemonic where
  lane : Bool
  sufs : List Suffix
  mem : Bool
  form : List Nat → List Operand → Option Choice
def scalarForm (major minor : Nat) : Nat := major * 128 + minor
def laneForm (op : Nat) : Nat := 0x4000 + op

/-- The ALU mnemonics of R66 in order of their minors, with the S.I major of their constant form; sub has that of add. -/
def aluNames : List (String × Option Nat) :=
  [("add", some 3), ("sub", some 3), ("mul", some 4), ("mulh", none), ("div", none), ("divu", none), ("and", some 5), ("or", some 6),
   ("xor", some 7), ("shl", some 8), ("shr", some 8), ("sar", some 8), ("min", some 9), ("max", some 0xA), ("minu", some 0xB),
   ("maxu", some 0xC)]
/-- The forms of major 0x02 without suffixes (R67), but for ret, which is one of them too. -/
def sysNames : List (String × Nat) :=
  [("nop", 0x00), ("lsync", 0x01), ("commit", 0x03), ("gexit", 0x04), ("texit", 0x05), ("cwait", 0x06), ("ret", 0x07), ("tret", 0x08),
   ("hret", 0x09), ("pdone", 0x0A), ("replay", 0x0B), ("ostop", 0x0C), ("tinv", 0x0D), ("fgrow", 0x0E), ("frel", 0x0F), ("ckinj", 0x10),
   ("pair", 0x11), ("launch", 0x12), ("spawn", 0x13), ("qpost", 0x14), ("waitk", 0x15), ("coll", 0x16), ("pset", 0x17), ("fxfer", 0x18),
   ("aset", 0x20), ("astep", 0x21), ("aload", 0x22), ("mset", 0x28), ("mand", 0x29), ("mor", 0x2A), ("mxor", 0x2B), ("mnot", 0x2C),
   ("mcnt", 0x2D), ("mfirst", 0x2E), ("cpy", 0x30), ("cpy2", 0x31), ("cpy3", 0x32), ("bclose", 0x33), ("waitb", 0x34), ("barinit", 0x38),
   ("arrive", 0x39), ("bwait", 0x3A), ("arrivew", 0x3B), ("bmin", 0x3C), ("bread", 0x3D), ("vwait", 0x3E), ("vwake", 0x3F),
   ("dqpush", 0x40), ("dqpop", 0x41), ("dqsteal", 0x42)]
/-- The scalar majors with one form, without suffixes and memory operands (R65). -/
def majorNames : List (String × Nat) :=
  [("lih", 0x10), ("br", 0x11), ("bc", 0x12), ("call", 0x13), ("loop", 0x14), ("lrun", 0x15), ("crd", 0x24), ("cwr", 0x25), ("trap", 0x26)]
/-- The lane opcodes without suffixes and memory operands (R69). -/
def laneNames : List (String × Nat) :=
  [("vadd", 0x001), ("vsub", 0x002), ("vmul", 0x003), ("vmad", 0x005), ("vand", 0x008), ("vor", 0x009), ("vxor", 0x00A), ("vnot", 0x00B),
   ("vshl", 0x00C), ("vshr", 0x00D), ("vsar", 0x00E), ("vpopc", 0x00F), ("vclz", 0x010), ("vsel", 0x012), ("vmov", 0x013),
   ("vfmin", 0x024), ("vfmax", 0x025), ("vfrcp", 0x027), ("vfrsq", 0x028), ("vfex2", 0x02A), ("vflg2", 0x02B), ("vfsin", 0x02C),
   ("vfcos", 0x02D), ("vscacc", 0x042), ("vbr", 0x060), ("vjoin", 0x061), ("vend", 0x062), ("vptest", 0x0A0), ("vpoison", 0x0A1)]
/-- The lane opcodes with suffixes, without memory operands, whose suffixes stand in mod (R69). -/
def laneModNames : List (String × Nat × List Suffix) :=
  let rnd := [may 4 rndNames]
  let uns := [may 1 [("uns", 1)]]
  let formats := [must 2 fmtNames, must 2 fmtNames]
  [("vmulh", 0x004, uns), ("vmin", 0x006, uns), ("vmax", 0x007, uns), ("vcmp", 0x011, [must 1 condNames]), ("vfadd", 0x020, rnd),
   ("vfsub", 0x021, rnd), ("vfmul", 0x022, rnd), ("vffma", 0x023, rnd), ("vfcmp", 0x026, [must 1 fcondNames]), ("vfsqrt", 0x029, rnd),
   ("vdot4", 0x040, [must 2 fmtNames]), ("vdot8", 0x041, [must 2 fmtNames]), ("vshfl", 0x050, [must 1 (numbered ["idx", "up", "down", "xor"])]),
   ("vvote", 0x051, [must 1 (numbered ["any", "all", "ballot"])]), ("vred", 0x052, [must 1 redNames]), ("vscan", 0x053, [must 1 [("add", 0)]]),
   ("vmma", 0x090, formats), ("vmmas", 0x091, formats), ("vmmap", 0x092, formats)]

def one (form : Nat) : List Nat → List Operand → Option Choice := fun _ _ => some (.one form)
/-- The last operand is a register of a class. -/
def lastReg (ops : List Operand) : Option (Nat × Nat) :=
  match ops.getLast? with
  | some { f := .reg c i, col := _ } => some (c, i)
  | some { f := .neg _ _, col := _ } => none | some { f := .latched _ _, col := _ } => none | some { f := .lane, col := _ } => none
  | some { f := .zero, col := _ } => none | some { f := .mem _ _ _, col := _ } => none | some { f := .expr _, col := _ } => none
  | some { f := .ref _ _, col := _ } => none | some { f := .bad, col := _ } => none | none => none
def mnem (lane : Bool) (sufs : List Suffix) (mem : Bool) (form : List Nat → List Operand → Option Choice) : Option Mnemonic :=
  some { lane := lane, sufs := sufs, mem := mem, form := form }
/-- An ALU mnemonic: the register form, or the constant form where it has one (R65). Shifts have no wide form. -/
def aluForm (minor : Nat) (major : Option Nat) (ops : List Operand) : Option Choice :=
  match lastReg ops, major with
  | some _, _ => some (.one (scalarForm 1 minor))
  | none, some 8 => some (.one (scalarForm 8 (minor - 9)))
  | none, some m => some (.sized (scalarForm m 0) (scalarForm 0x0F (if minor = 1 then 0 else minor)) (minor == 1))
  | none, none => none
/-- The short form of ld and st holds a relaxed access to .gl (R373). -/
def memForm (short wide : Nat) : List Nat → List Operand → Option Choice := fun c _ =>
  if (c.drop 1).all (· == 0) then some (.sized (scalarForm (short + c.headD 0) 0) (scalarForm wide 0) false) else some (.one (scalarForm wide 0))
/-- The rows with a rule of their own. -/
def special (s : String) : Option Mnemonic :=
  if s == "li" then mnem false [] false (fun _ _ => some (.sized (scalarForm 0x0D 0) (scalarForm 0x0F 0) false))
  else if s == "mov" then mnem false [] false (fun _ ops =>
    some (.one (scalarForm 1 (if (lastReg ops).map (·.1) == some 5 then 0x11 else 0x10))))
  else if s == "clz" then mnem false [] false (one (scalarForm 1 0x12))
  else if s == "popc" then mnem false [] false (one (scalarForm 1 0x13))
  else if s == "ext" then mnem false [must 2 (numbered ["b", "h", "w"])] false (fun c _ => some (.one (scalarForm 1 (0x14 + c.headD 0))))
  else if s == "sel" then mnem false [] false (fun _ ops =>
    match lastReg ops with | some (1, i) => some (.one (scalarForm 1 (0x18 + i))) | some _ => none | none => none)
  else if s == "cmp" then mnem false [must 1 condNames] false (fun _ ops =>
    match lastReg ops with
    | some _ => some (.one (scalarForm 1 0x20))
    | none => some (.sized (scalarForm 0x0E 0) (scalarForm 0x0F 0x20) false))
  else if s == "fence" then mnem false [may 6 orderNames, may 7 scopeNames] false (one (scalarForm 2 2))
  else if s == "ld" then mnem false (must 2 widthNames :: accessSuffixes) true (memForm 0x16 0x1E)
  else if s == "st" then mnem false (must 2 widthNames :: accessSuffixes) true (memForm 0x1A 0x1F)
  else if s == "amo" then mnem false (must 1 opNames :: must 2 widthNames :: accessSuffixes) true (one (scalarForm 0x20 0))
  else if s == "rld" then mnem false [must 2 widthNames] true (one (scalarForm 0x27 0))
  else if s == "rst" then mnem false [must 2 widthNames] true (one (scalarForm 0x28 0))
  else if s == "ramo" then mnem false [must 1 opNames, must 2 widthNames] true (one (scalarForm 0x29 0))
  else if s == "ldq" then mnem false [] true (one (scalarForm 0x21 0))
  else if s == "ldk" then mnem false [] true (one (scalarForm 0x22 0))
  else if s == "stk" then mnem false [] true (one (scalarForm 0x23 0))
  else if s == "vcvt" then mnem true [must 2 fmtNames, must 2 fmtNames, may 4 rndNames] false
    (fun c _ => some (.one (laneForm (0x030 + c.getD 2 0))))
  else if s == "vld" then mnem true (must 2 [("b", 0), ("bs", 4), ("h", 1), ("hs", 5), ("w", 2)] :: accessSuffixes) true
    (fun c _ => some (.one (laneForm (0x070 + c.headD 0 % 4))))
  else if s == "vst" then mnem true (must 2 (numbered ["b", "h", "w"]) :: accessSuffixes) true
    (fun c _ => some (.one (laneForm (0x074 + c.headD 0))))
  else if s == "vamo" then mnem true (must 1 opNames :: accessSuffixes) true (fun c _ => some (.one (laneForm (0x078 + c.headD 0))))
  else if s == "vldc" then mnem true [must 2 familyNames, must 3 courseNames, may 4 (numbered ["tz", "rn"]), may 5 spaceNames] true
    (one (laneForm 0x080))
  else if s == "vstc" then mnem true [must 2 familyNames, must 3 courseNames, may 5 spaceNames] true (one (laneForm 0x081))
  else if s == "vcupd" then mnem true [must 2 familyNames, may 5 spaceNames] true (one (laneForm 0x082))
  else none
/-- A base name as a mnemonic. -/
def mnemonic (s : String) : Option Mnemonic :=
  match sysNames.find? (fun x => x.1 == s) with
  | some (_, m) => mnem false [] false (one (scalarForm 2 m))
  | none =>
  match majorNames.find? (fun x => x.1 == s) with
  | some (_, m) => mnem false [] false (one (scalarForm m 0))
  | none =>
  match laneNames.find? (fun x => x.1 == s) with
  | some (_, op) => mnem true [] false (one (laneForm op))
  | none =>
  match laneModNames.find? (fun x => x.1 == s) with
  | some (_, op, sufs) => mnem true sufs false (one (laneForm op))
  | none =>
  match aluNames.findIdx? (fun x => x.1 == s) with
  | some i => mnem false [] false (fun _ ops => aluForm i ((aluNames.getD i ("", none)).2) ops)
  | none => special s

/-! ## One instruction -/
/-- An instruction as its line gives it: the column of its mnemonic, the predicate byte of R48, the form or forms, the suffixes with
their classes, and the operands; memory says that the last is a memory operand. -/
structure Ins where
  col : Nat
  pred : Nat
  choice : Choice
  sufs : List (Nat × Nat)
  ops : List Operand
  mem : Bool
  deriving DecidableEq, Repr
/-- The parts of a mnemonic between its dots, in lower case. -/
def dotParts (low : String) : List String := (low.toList.splitOn '.').map String.ofList
/-- The predicate before a mnemonic (R24, R33), 8 for the negation and the number, with the tokens after it and its errors. -/
def predicate (ts : List Tok) : Option Nat × List Tok × List Err :=
  match ts with
  | t :: r =>
    if t.is "(" then
      let (neg, q) := match r with | a :: r' => if a.is "!" then (8, r') else (0, r) | [] => (0, r)
      let none33 : Option Nat × List Tok × List Err := 
        (some 0, (r.dropWhile (fun x => !x.is ")")).drop 1,
         if (r.takeWhile (fun x => !x.is ")")).any (fun x => x.k == .bad) then [] else [{ rule := 33, col := t.col }])
      match q with
      | p :: c :: rest =>
        match p.reg, c.is ")" with
        | some (7, n), true => (some (neg + n), rest, if neg = 8 ∧ n = 0 then [{ rule := 24, col := t.col }] else [])
        | _, _ => none33
      | _ => none33
    else (none, ts, [])
  | [] => (none, [], [])
/-- The operands of a list, each with its column, and the errors of those that cannot be read. -/
def operands (dflt : Nat) : List (List Tok) → List Operand × List Err
  | [] => ([], [])
  | p :: ps =>
    let (os, es) := operands dflt ps
    match operand dflt p with
    | .ok o => (o :: os, es)
    | .error e => ({ f := .bad, col := colOf dflt p } :: os, e ++ es)
def Form.isMem : Form → Bool
  | .mem _ _ _ => true
  | .reg _ _ => false | .neg _ _ => false | .latched _ _ => false | .lane => false | .zero => false | .expr _ => false | .ref _ _ => false
  | .bad => false
def Operand.bad (o : Operand) : Bool := o.f == .bad
/-- The memory operand stands last, where the template has one, and nowhere else (R25); of an operand that cannot be read nothing is known. -/
def memPlaced (mem : Bool) (ops : List Operand) : Bool :=
  let want := if mem then List.replicate (ops.length - 1) false ++ [true] else List.replicate ops.length false
  (ops.zip want).all (fun x => x.1.bad || x.1.f.isMem == x.2)
/-- An instruction statement (R26, R33), whether it is a lane instruction, and its errors: every one that its tokens show (R16). -/
def instruction (ts : List Tok) : Option (Bool × Ins) × List Err :=
  let (pred, rest, pe) := predicate ts
  let no (es : List Err) : Option (Bool × Ins) × List Err := (none, pe ++ es)
  match rest with
  | [] => no (if pe.isEmpty then [{ rule := 33, col := colOf 1 ts }] else [])
  | t :: r =>
    match t.k with
    | .word _ low _ =>
      let (ops, oe) := operands t.col (args r)
      match dotParts low with
      | base :: sufs =>
        match mnemonic base with
        | none => no ({ rule := 26, col := t.col } :: oe)
        | some m =>
          let oe := (if pred.isSome && !m.lane then [{ rule := 24, col := colOf 1 ts }] else []) ++
            (if memPlaced m.mem ops then [] else [{ rule := 25, col := t.col }]) ++ oe
          match readSuffixes m.sufs sufs with
          | none => no ({ rule := 26, col := t.col } :: oe)
          | some cs =>
            match m.form (cs.map (·.getD 0)) ops with
            | none => no (oe ++ if ops.any Operand.bad then [] else [{ rule := 65, col := t.col }])
            | some ch =>
              let sufs := ((m.sufs.map (·.cls)).zip cs).filterMap (fun x => x.2.map (fun n => (x.1, n)))
              (if memPlaced m.mem ops then some (m.lane, { col := t.col, pred := pred.getD 0, choice := ch, sufs := sufs, ops := ops, mem := m.mem }) else none,
               pe ++ oe)
      | [] => no [{ rule := 33, col := t.col }]
    | .bad => no []
    | .dir _ => no [{ rule := 33, col := t.col }] | .int _ _ => no [{ rule := 33, col := t.col }] | .ref _ _ => no [{ rule := 33, col := t.col }]
    | .float _ _ => no [{ rule := 33, col := t.col }] | .str _ => no [{ rule := 33, col := t.col }] | .sym _ => no [{ rule := 33, col := t.col }]

/-- The constant that decides between the forms: the last operand, or the displacement of the memory operand. -/
def Ins.constant (i : Ins) : Option (Expr × Nat) :=
  match i.ops.getLast? with
  | some { f := .expr x, col := c } => some (x, c)
  | some { f := .mem (some x) _ _, col := c } => some (x, c)
  | some { f := .mem none _ _, col := c } => some (.int 0, c)
  | some { f := .reg _ _, col := _ } => none | some { f := .neg _ _, col := _ } => none | some { f := .latched _ _, col := _ } => none
  | some { f := .lane, col := _ } => none | some { f := .zero, col := _ } => none | some { f := .ref _ _, col := _ } => none
  | some { f := .bad, col := _ } => none | none => none
/-- The constant in two's complement, as it is encoded. -/
def signed (neg : Bool) (v : DWord) : Int := (if neg then -v else v).toInt
/-- The form of an instruction that is wide or not. -/
def Ins.form (i : Ins) (wide : Bool) : Nat :=
  match i.choice with
  | .one f => f
  | .sized s w _ => if wide then w else s
def Ins.negated (i : Ins) : Bool := match i.choice with | .one _ => false | .sized _ _ n => n
/-- The bytes of a form (R50, R54). -/
def formSize (f : Nat) : Nat := Rec.size { form := f, pred := 0, slots := [] }
/-- The operand slots the line gives: a memory operand gives its displacement and its base (log entry 20), one that cannot be read as well. -/
def flatOps (mem : Bool) (ops : List Operand) : List Operand :=
  (ops.zipIdx.map (fun (x : Operand × Nat) => let o := x.1; match o.f with
    | .bad => if mem && x.2 + 1 == ops.length then [o, o] else [o]
    | .mem d c i => [{ o with f := .expr (d.getD (.int 0)) }, { o with f := .reg c i }]
    | .reg _ _ => [o] | .neg _ _ => [o] | .latched _ _ => [o] | .lane => [o] | .zero => [o] | .expr _ => [o] | .ref _ _ => [o])).flatten
/-- A scalar access has an s register as its base, a lane access a v register (R25). -/
def Ins.baseOk (i : Ins) (lane : Bool) : Bool :=
  match i.ops.getLast? with
  | some { f := .mem _ c _, col := _ } => c == (if lane then 6 else 0)
  | some { f := .reg _ _, col := _ } => true | some { f := .neg _ _, col := _ } => true | some { f := .latched _ _, col := _ } => true
  | some { f := .lane, col := _ } => true | some { f := .zero, col := _ } => true | some { f := .expr _, col := _ } => true
  | some { f := .ref _ _, col := _ } => true | some { f := .bad, col := _ } => true | none => true

/-- Where an instruction stands for its operands: its scope, the target of a numeric reference, the block that a name names with its
offset, its own section, block and offset, and the bounds of that block. -/
structure Site where
  sc : Scope
  numeric : Nat → Bool → Option Nat
  block : String → Option Nat
  lane : Bool
  off : Nat
  lo : Nat
  hi : Nat
/-- What an operand is once its names have their values: a slot's kind and value, or a target in the instruction's own section, or the
offset of a block, or a negated register. -/
inductive Done where
  | slot (s : Slot)
  | target (off : Nat)
  | block (off : Nat)
  | negated (cls idx : Nat)
  deriving DecidableEq, Repr
def regSlot (cls idx : Nat) : Slot := { kind := 0, value := cls * 2 ^ 48 + idx }
def immSlot (v : Int) : Slot := { kind := 1, value := inField v 56 }
/-- The unit of a displacement: a scalar word, or a lane word (R31). -/
def Site.unit (st : Site) : Int := if st.lane then 12 else 4
/-- A branch target: a relative value of the instruction's own section, or an absolute displacement; in lane code its word lies within the
current block (R31, R37). -/
def Site.jump (st : Site) (x : Form) (col : Nat) : Except (List Err) Done :=
  let within (t : Int) (d : Done) : Except (List Err) Done :=
    if st.lane && !(decide ((st.lo : Int) ≤ t) && decide (t < st.hi)) then .error [{ rule := 37, col := col }] else .ok d
  match x with
  | .ref n fwd =>
    match st.numeric n fwd with
    | some t => within t (.target t)
    | none => .error [{ rule := 34, col := col }]
  | .expr x =>
    match x.eval st.sc with
    | .error e => .error e
    | .ok { v := v, rel := none } =>
      if fits v.toInt 56 then within (st.off + st.unit * v.toInt) (.slot (immSlot v.toInt)) else .error [{ rule := 31, col := col }]
    | .ok { v := v, rel := some s } =>
      if s = (if st.lane then .lcode else .scode) ∧ (v.toInt - st.off) % st.unit = 0 then
        if 0 ≤ v.toInt then within v.toInt (.target v.toNat) else within v.toInt (.slot (immSlot ((v.toInt - st.off) / st.unit)))
      else .error [{ rule := 37, col := col }]
  | .reg _ _ => .error [{ rule := 33, col := col }] | .neg _ _ => .error [{ rule := 33, col := col }]
  | .latched _ _ => .error [{ rule := 33, col := col }] | .lane => .error [{ rule := 33, col := col }] | .zero => .error [{ rule := 33, col := col }]
  | .mem _ _ _ => .error [{ rule := 33, col := col }]
  | .bad => .error []
/-- An absolute constant, which fits a slot. Where it is encoded negated, the constant itself lies in the signed 32-bit range too (R65). -/
def Site.number (st : Site) (neg : Bool) (x : Expr) (col : Nat) : Except (List Err) Done :=
  match x.absolute st.sc col with
  | .error e => .error e
  | .ok v => if fits (signed neg v) 56 && (!neg || fits v.toInt 32) then .ok (.slot (immSlot (signed neg v))) else .error [{ rule := 65, col := col }]
/-- One operand for the place it takes (R24, R25, R31). -/
def Site.operand (st : Site) (neg : Bool) (p : Place) (o : Operand) : Except (List Err) Done :=
  let no : Except (List Err) Done := .error (if o.bad then [] else [{ rule := 24, col := o.col }])
  let reg (ok : Nat → Bool) : Except (List Err) Done :=
    match o.f with
    | .reg c i => if ok c then .ok (.slot (regSlot c i)) else no
    | .neg _ _ => no | .latched _ _ => no | .lane => no | .zero => no | .mem _ _ _ => no | .expr _ => no | .ref _ _ => no | .bad => no
  let constant : Except (List Err) Done :=
    match o.f with
    | .expr x => st.number neg x o.col
    | .reg _ _ => no | .neg _ _ => no | .latched _ _ => no | .lane => no | .zero => no | .mem _ _ _ => no | .ref _ _ => no | .bad => no
  match p with
  | .reg c _ => reg (· == c)
  | .neg c _ _ =>
    match o.f with
    | .neg c' i => if c' = c then .ok (.negated c i) else no
    | .reg _ _ => reg (· == c)
    | .latched _ _ => no | .lane => no | .zero => no | .mem _ _ _ => no | .expr _ => no | .ref _ _ => no | .bad => no
  | .creg => reg (· == 9)
  | .same _ => reg (· == 1)
  | .num _ _ => constant
  | .count _ _ => constant
  | .jump _ _ => st.jump o.f o.col
  | .ljump _ => st.jump o.f o.col
  | .block =>
    match o.f with
    | .expr (.name s _) => match st.block s with | some b => .ok (.block b) | none => .error [{ rule := 37, col := o.col }]
    | .expr _ => .error [{ rule := 37, col := o.col }]
    | .reg _ _ => no | .neg _ _ => no | .latched _ _ => no | .lane => no | .zero => no | .mem _ _ _ => no | .ref _ _ => no | .bad => no
  | .dst =>
    match o.f with
    | .reg 8 i => .ok (.slot { kind := 5, value := i * 2 ^ 16 + 2 ^ 18 })
    | .reg c i => if c = 6 ∨ c = 5 then .ok (.slot (regSlot c i)) else no
    | .latched v b => .ok (.slot { kind := 5, value := v + b * 2 ^ 16 })
    | .neg _ _ => no | .lane => no | .zero => no | .mem _ _ _ => no | .expr _ => no | .ref _ _ => no | .bad => no
  | .pdst => reg (· == 7)
  | .src _ =>
    match o.f with
    | .reg c i => if c = 6 ∨ c = 4 ∨ c = 8 ∨ c = 0 then .ok (.slot (regSlot c i)) else no
    | .zero => .ok (.slot (regSlot 6 204))
    | .lane => .ok (.slot (regSlot 6 205))
    | .expr x => st.number neg x o.col
    | .neg _ _ => no | .latched _ _ => no | .mem _ _ _ => no | .ref _ _ => no | .bad => no
/-- The operands for their places. -/
def Site.operands (st : Site) (neg : Bool) : List Place → List Operand → Except (List Err) (List Done)
  | p :: ps, o :: os =>
    match st.operand neg p o, st.operands neg ps os with
    | .ok d, .ok ds => .ok (d :: ds)
    | .error e, .error f => .error (e ++ f)
    | .error e, .ok _ => .error e
    | .ok _, .error f => .error f
  | _, _ => .ok []

/-- An instruction whose operands are known: its form, its template, the places and the operands. -/
structure Ready where
  form : Nat
  pred : Nat
  sufs : List (Nat × Nat)
  places : List Place
  ops : List Done
  cols : List Nat
  deriving DecidableEq, Repr
/-- The suffix slots of a form: those whose class its template names (R71). -/
def suffixSlots (t : Template) (sufs : List (Nat × Nat)) : List Slot :=
  (sufs.filter (fun x => t.sufs.any (fun y => y.1 == x.1))).map (fun x => { kind := 2, value := x.1 * 2 ^ 48 + x.2 })
/-- The template of a form (R65 to R69); that of vvote has the destination of its mode. -/
def templateOf (form : Nat) (sufs : List (Nat × Nat)) : Option Template :=
  Rec.template { form := form, pred := 0, slots := sufs.map (fun x => { kind := 2, value := x.1 * 2 ^ 48 + x.2 }) }
/-- The number of operands follows the template of the row: a short form and its wide form have the same, only cas has an expected value (R68),
and only a conditional vbr names a join (R163). -/
def Ins.arity (i : Ins) (n : Nat) : Bool :=
  let f := i.form false
  let cas := i.sufs.any (fun x => x.1 == 1 && x.2 == 7)
  (match templateOf f i.sufs with | some t => t.ops.any (fun ps => ps.length == n) | none => false) &&
    (if f = scalarForm 0x20 0 ∨ f = scalarForm 0x29 0 then n == (if cas then 5 else 4) else true) &&
    (if f = laneForm 0x060 then (n == 2) == (i.pred % 8 != 0) else true)
/-- A register place without its negation, which the word adds on its own. -/
def Place.plain : Place → Place
  | .neg c lo _ => .reg c lo
  | .reg c lo => .reg c lo | .creg => .creg | .num lo n => .num lo n | .count lo n => .count lo n | .jump lo n => .jump lo n
  | .block => .block | .same n => .same n | .dst => .dst | .pdst => .pdst | .src k => .src k | .ljump lo => .ljump lo
def Place.negBit : Place → Nat
  | .neg _ _ nlo => 2 ^ nlo
  | .reg _ _ => 0 | .creg => 0 | .num _ _ => 0 | .count _ _ => 0 | .jump _ _ => 0 | .block => 0 | .same _ => 0 | .dst => 0 | .pdst => 0
  | .src _ => 0 | .ljump _ => 0
/-- What one operand adds to the native word at an offset of its section, and to a shared immediate field. -/
def nativeOp (lane : Bool) (off : Nat) (p : Place) (d : Done) (col : Nat) : Except (List Err) (Nat × List Nat) :=
  let put (lay : Layout) (s : Slot) (more : Nat) : Except (List Err) (Nat × List Nat) :=
    match placeSlot lay 0 (Place.plain p) s with
    | .ok (x, imm) => .ok (x + more, imm.toList)
    | .error .target => .error [{ rule := 52, col := col }]
    | .error .misfit => .error [{ rule := 16, col := col }]
  match d with
  | .slot s => put [(lane, off)] s 0
  | .target t => put [(lane, off), (lane, t)] { kind := 3, value := 1 } 0
  | .block b => put [(lane, off), (true, b)] { kind := 4, value := 1 } 0
  | .negated c i => put [(lane, off)] (regSlot c i) (Place.negBit p)
/-- The errors of operands: of each that cannot be read at its place, or that does not fit there. -/
def Site.misfits (st : Site) (neg : Bool) : List Place → List Operand → List Err
  | p :: ps, o :: os =>
    (match st.operand neg p o with
      | .error e => e
      | .ok d => match nativeOp st.lane st.off p d o.col with | .error e => e | .ok _ => []) ++ st.misfits neg ps os
  | _, _ => []
/-- An instruction with the values of its operands. -/
def Ins.ready (i : Ins) (wide : Bool) (st : Site) : Except (List Err) Ready :=
  let ops := flatOps i.mem i.ops
  match templateOf (i.form wide) i.sufs with
  | none => .error [{ rule := 26, col := i.col }]
  | some t =>
    match t.ops.find? (fun ps => ps.length == ops.length && i.arity ops.length) with
    | none => .error [{ rule := 33, col := i.col }]
    | some ps =>
      match i.baseOk st.lane, st.operands i.negated ps ops with
      | true, .ok ds => .ok { form := i.form wide, pred := i.pred, sufs := i.sufs, places := ps, ops := ds, cols := ops.map (·.col) }
      | ok, _ => .error ((if ok then [] else [{ rule := 25, col := i.col }]) ++ st.misfits i.negated ps ops)

def nativeOps (lane : Bool) (off : Nat) : List Place → List Done → List Nat → Except (List Err) (Nat × List Nat)
  | p :: ps, d :: ds, cs =>
    match nativeOp lane off p d (cs.headD 0), nativeOps lane off ps ds (cs.drop 1) with
    | .ok (x, a), .ok (y, b) => .ok (x + y, a ++ b)
    | .error e, .error f => .error (e ++ f)
    | .error e, .ok _ => .error e
    | .ok _, .error f => .error f
  | _, _, _ => .ok (0, [])
/-- A word that the device decodes with regs declared registers; another breaks an operand limit (R16). -/
def legalWord (lane : Bool) (regs w col : Nat) : Except (List Err) Nat :=
  match (if lane then Dec.decodeLane regs w else Dec.decodeScalar (w % 2 ^ 32) (w / 2 ^ 32)) with
  | .illegal sub => .error [{ rule := if sub = 10 then 23 else 16, col := col }]
  | .ok _ => .ok w
/-- The native word of revision 3 (R50 to R70): at most one operand takes the immediate field (R24), and the word breaks no operand limit,
with the declared registers regs (R16, R23). -/
def Ready.word (r : Ready) (lane : Bool) (off regs col : Nat) : Except (List Err) Nat :=
  match templateOf r.form r.sufs with
  | none => .error [{ rule := 26, col := col }]
  | some t =>
    let rec' : Rec := { form := r.form, pred := r.pred, slots := List.replicate r.ops.length { kind := 0, value := 0 } }
    match placeSuffixes t.sufs (suffixSlots t r.sufs), nativeOps lane off r.places r.ops r.cols with
    | none, .error e => .error ({ rule := 26, col := col } :: e)
    | none, .ok _ => .error [{ rule := 26, col := col }]
    | some _, .error e => .error e
    | some y, .ok (x, imms) =>
      if 1 < imms.length then .error [{ rule := 24, col := col }]
      else
        legalWord lane regs (rec'.base (some t) + x + y + imms.headD 0) col
/-- The record of the portable form (R48). A target that no record begins at stays a displacement (log entry 20). -/
def Ready.record (r : Ready) (lane : Bool) (off : Nat) (index : Nat → Option Nat) (blockIndex : Nat → Nat) : Rec :=
  let unit : Int := if lane then 12 else 4
  let slot (d : Done) : Slot :=
    match d with
    | .slot s => s
    | .target t => match index t with | some k => { kind := 3, value := k } | none => immSlot (((t : Int) - off) / unit)
    | .block b => { kind := 4, value := blockIndex b }
    | .negated c i => { kind := 0, value := Config.negatedSlot (regSlot c i).value % 2 ^ 56 }
  { form := r.form, pred := r.pred,
    slots := r.ops.map slot ++ (match templateOf r.form r.sufs with | some t => suffixSlots t r.sufs | none => []) }

end Sys2Proof.Machine.Asm
end

