-- ==== Sys2Proof/Machine/AsmPass.lean ====
section
/-! DEFINITION. skas: symbols, labels, sections, blocks, kernels and directives (R30 to R41), and one pass over a source. -/
namespace Sys2Proof.Machine.Asm

/-- The files skas can read, by name. -/
abbrev Sources := List (FileName × List Byte)
/-- What a symbol of the module names (R30, R32, R36, R38, R41). -/
inductive SymKind where
  | equ | label | block | kernel
  deriving DecidableEq, Repr
/-- A symbol, with the line that defines it, and whether its value depends on the layout of a section (R32). -/
structure Sym where
  name : String
  kind : SymKind
  val : Val
  seq : Nat
  dep : Bool
  deriving DecidableEq, Repr
/-- A label inside a block (R36). -/
structure LaneLabel where
  block : Nat
  name : String
  off : Nat
  seq : Nat
  deriving DecidableEq, Repr
/-- A numeric label (R34). -/
structure NumLabel where
  n : Nat
  sect : Sect
  block : Option Nat
  off : Nat
  seq : Nat
  deriving DecidableEq, Repr
/-- A lane block, from off to stop in the lane-code section. -/
structure Block where
  name : String
  off : Nat
  stop : Nat
  deriving DecidableEq, Repr
/-- The declared shape of a team (R38). -/
structure Team where
  groups : Nat
  max : Nat
  regs : Nat
  scratch : Nat
  lanepriv : Nat
  span : Nat
  stage : Nat
  deriving DecidableEq, Repr
def Team.dflt : Team := { groups := 1, max := 1, regs := 32, scratch := 0, lanepriv := 0, span := 1, stage := 0 }
/-- A kernel (R38): the entry that its symbol has, the entry that its first instruction gives it, whether one of its instructions stands,
and whether its .team does. -/
structure Kern where
  name : String
  assumed : Nat
  entry : Nat
  started : Bool
  teamSeen : Bool
  team : Team
  deriving DecidableEq, Repr
/-- A conditional (R41): the present arm is assembled; the lines around it are; an arm has been taken; .else has come. -/
structure Cond where
  active : Bool
  outer : Bool
  taken : Bool
  elseSeen : Bool
  deriving DecidableEq, Repr
/-- Where a statement stands: its file and line, the number of the line in order of assembly, the lines that lead to it through the
.include directives, and its section, offset, block and kernel. -/
structure At where
  file : FileName
  line : Nat
  seq : Nat
  path : List Nat
  sect : Option Sect
  off : Nat
  block : Option Nat
  kern : Option Nat
  deriving DecidableEq, Repr
/-- What a statement emits: an instruction, in its wide form or not, and whether its form is settled by widening (R32); bytes; integers of n
bytes from lo to hi; 8-byte data; patterns of a course line. -/
inductive Item where
  | ins (a : At) (i : Ins) (lane wide settling : Bool)
  | raw (a : At) (b : List Byte)
  | ints (a : At) (n : Nat) (lo hi : Int) (es : List (Expr × Nat))
  | dwords (a : At) (es : List (Expr × Nat))
  | patterns (a : At) (es : List (Expr × Nat))
  deriving DecidableEq, Repr
def Item.place : Item → At
  | .ins a _ _ _ _ => a
  | .raw a _ => a
  | .ints a _ _ _ _ => a
  | .dwords a _ => a
  | .patterns a _ => a
/-- One pass over a source: the statements that are wide, the entries that the kernels' symbols have, and everything read so far, the latest first. -/
structure Pass where
  wide : List (List Nat)
  ents : List Nat
  seq : Nat
  sect : Option Sect
  scode : Nat
  lcode : Nat
  data : Nat
  course : Nat
  syms : List Sym
  laneLabels : List LaneLabel
  numLabels : List NumLabel
  blocks : List Block
  inBlock : Option (Nat × List Nat)
  last : Option (Nat × Nat)
  kernels : List Kern
  conds : List Cond
  reserve : List (At × Expr × Nat)
  items : List Item
  errs : List Diag
  deriving DecidableEq, Repr
def Pass.start (wide : List (List Nat)) (ents : List Nat) : Pass :=
  { wide := wide, ents := ents, seq := 0, sect := none, scode := 0, lcode := 0, data := 0, course := 0, syms := [], laneLabels := [], numLabels := [],
    blocks := [], inBlock := none, last := none, kernels := [], conds := [], reserve := [], items := [], errs := [] }
/-- The offset at which a section continues (R35). -/
def Pass.offset (p : Pass) : Sect → Nat
  | .scode => p.scode | .lcode => p.lcode | .data => p.data | .course => p.course
def Pass.setOffset (p : Pass) (s : Sect) (n : Nat) : Pass :=
  match s with
  | .scode => { p with scode := n } | .lcode => { p with lcode := n } | .data => { p with data := n } | .course => { p with course := n }
/-- The lines are assembled. -/
def Pass.live (p : Pass) : Bool := match p.conds with | c :: _ => c.active | [] => true
/-- The place of the present line. -/
def Pass.here (p : Pass) (file : FileName) (line : Nat) (path : List Nat) : At :=
  { file := file, line := line, seq := p.seq, path := line :: path, sect := p.sect, off := (p.sect.map p.offset).getD 0,
    block := p.inBlock.map (·.1), kern := if p.kernels.isEmpty then none else some (p.kernels.length - 1) }
def errAt {α : Type} (rule col : Nat) : Except (List Err) α := .error [{ rule := rule, col := col }]
/-- The errors of a reading. -/
def errsOf {α : Type} (r : Except (List Err) α) : List Err := match r with | .ok _ => [] | .error e => e
/-- What a statement leaves, and its errors: every one that it shows (R16). -/
abbrev Told := Pass × List Err
/-- A change that an error leaves out. -/
def Pass.keep (p : Pass) (r : Except (List Err) Pass) : Told := match r with | .ok q => (q, []) | .error e => (p, e)
/-- An error of tokens, unless one of them is no token at all, whose own error stands. -/
def wrong (ts : List Tok) (rule col : Nat) : List Err := if ts.any (fun t => t.k == .bad) then [] else [{ rule := rule, col := col }]

/-! ## Names (R30, R32, R34, R37) -/
/-- Who names a symbol. -/
inductive Use where
  | directive | scalar | lane
  deriving DecidableEq, Repr
def Pass.laneLabel (p : Pass) (a : At) (s : String) : Option LaneLabel :=
  a.block.bind (fun b => p.laneLabels.find? (fun l => l.block == b && l.name == s))
def Pass.sym (p : Pass) (s : String) : Option Sym := p.syms.find? (fun y => y.name == s)
/-- What the names of an expression mean at a place. Lane code names its block's labels and constants alone, and scalar code names a
block only as the operand of lrun (R37). -/
def Pass.scope (p : Pass) (a : At) (u : Use) : Scope :=
  { look := fun s col =>
      match p.laneLabel a s with
      | some l => .ok { v := BitVec.ofNat 64 l.off, rel := some .lcode }
      | none =>
        match p.sym s with
        | none => errAt 32 col
        | some y => if (u == .lane && y.kind != .equ) || (u == .scalar && y.kind == .block) then errAt 37 col else .ok y.val
    defd := fun s =>
      (match p.laneLabel a s with | some l => decide (l.seq < a.seq) | none => false) ||
        (match p.sym s with | some y => decide (y.seq < a.seq) | none => false)
    dot := a.sect.map (fun s => { v := BitVec.ofNat 64 a.off, rel := some s })
    dep := fun s =>
      match p.laneLabel a s with
      | some _ => true
      | none => match p.sym s with | none => true | some y => y.dep || y.val.rel.isSome }
/-- The target of a numeric reference (R34). -/
def Pass.numeric (p : Pass) (a : At) (n : Nat) (fwd : Bool) : Option Nat :=
  let l := p.numLabels.filter (fun x => x.n == n && some x.sect == a.sect && x.block == a.block)
  (if fwd then l.reverse.find? (fun x => decide (a.seq < x.seq)) else l.find? (fun x => decide (x.seq ≤ a.seq))).map (·.off)
def Pass.blockAt (p : Pass) (i : Nat) : Option Block := p.blocks.reverse[i]?
/-- An instruction's site, once the whole source is read. -/
def Pass.site (p : Pass) (a : At) (lane : Bool) : Site :=
  let b := (a.block.bind p.blockAt).getD { name := "", off := 0, stop := 2 ^ 25 }
  { sc := p.scope a (if lane then .lane else .scalar), numeric := p.numeric a,
    block := fun s => (p.blocks.find? (fun b => b.name == s)).map (·.off), lane := lane, off := a.off, lo := b.off, hi := b.stop }
/-- A symbol is defined once (R32). -/
def Pass.define (p : Pass) (y : Sym) (col : Nat) : Except (List Err) Pass :=
  match p.sym y.name with
  | some _ => errAt 32 col
  | none => .ok { p with syms := y :: p.syms }
/-- A label, numeric or named (R34, R36). -/
def Pass.label (p : Pass) (a : At) (t : Tok) : Except (List Err) Pass :=
  match a.sect with
  | none => errAt 35 t.col
  | some s =>
    match t.k with
    | .int n true =>
      if n ≤ 99 then .ok { p with numLabels := { n := n, sect := s, block := a.block, off := a.off, seq := a.seq } :: p.numLabels }
      else errAt 34 t.col
    | _ =>
      match identOf t, a.block with
      | .error e, _ => .error e
      | .ok nm, some b =>
        if (p.laneLabel a nm).isSome then errAt 32 t.col
        else .ok { p with laneLabels := { block := b, name := nm, off := a.off, seq := a.seq } :: p.laneLabels }
      | .ok nm, none =>
        p.define { name := nm, kind := .label, val := { v := BitVec.ofNat 64 a.off, rel := some s }, seq := a.seq, dep := true } t.col

/-! ## Emission (R35) -/
/-- An item of size bytes at the end of a section of at most 16 MiB. -/
def Pass.emit (p : Pass) (s : Sect) (size : Nat) (i : Item) (col : Nat) : Except (List Err) Pass :=
  if 2 ^ 24 < p.offset s + size then errAt 35 col
  else .ok (({ p with items := i :: p.items }).setOffset s (p.offset s + size))
/-- The section of a statement that only some sections accept. -/
def inSect (a : At) (l : List Sect) (col : Nat) : Except (List Err) Sect :=
  match a.sect with
  | some s => if l.contains s then .ok s else errAt 35 col
  | none => errAt 35 col
/-- An item of size bytes in one of these sections. Where its section is another one, or is full, that is an error, and the item is still read
for the errors of its operands. -/
def Pass.place (p : Pass) (a : At) (l : List Sect) (size : Nat) (i : Item) (col : Nat) : Told :=
  let read : Pass := { p with items := i :: p.items }
  match inSect a l col with
  | .error e => (read, e)
  | .ok s => read.keep (p.emit s size i col)
/-- The kernels whose first instruction this is get their entry (R38). -/
def Pass.enter (p : Pass) : Pass :=
  { p with kernels := p.kernels.map (fun k => if k.started then k else { k with started := true, entry := p.scode }) }
/-- An instruction: a constant that depends on the layout takes the short form until it is widened (R32, R65). -/
def Pass.ins (p : Pass) (a : At) (lane : Bool) (i : Ins) : Told :=
  let own : Sect := if lane then .lcode else .scode
  let sc := p.scope a (if lane then .lane else .scalar)
  let (wide, settling) : Bool × Bool :=
    match i.choice, i.constant with
    | .sized _ _ neg, some (x, col) =>
      if x.dep sc then (p.wide.contains a.path, true)
      else match x.absolute sc col with
        | .ok v => (!fits (signed neg v) 13, false)
        | .error _ => (false, false)
    | _, _ => (false, false)
  let (p, e) := (if lane then { p with last := some (i.form wide, i.pred) } else if a.sect = some own then p.enter else p).place a [own]
    (formSize (i.form wide)) (.ins a i lane wide settling) i.col
  (p, e ++ if lane && a.sect == some own && a.block.isNone then [{ rule := 36, col := i.col }] else [])

/-! ## Directives (R35 to R41) -/
/-- The expressions that can be read, each with its column, and the errors of the others. -/
def exprs (dflt : Nat) : List (List Tok) → List (Expr × Nat) × List Err
  | [] => ([], [])
  | ts :: r =>
    let (xs, es) := exprs dflt r
    match parseExpr (colOf dflt ts) ts with
    | .ok x => ((x, colOf dflt ts) :: xs, es)
    | .error e => (xs, e ++ es)
/-- An operand whose symbols are already defined (R32). -/
def Pass.now (p : Pass) (a : At) (dflt : Nat) (ts : List Tok) : Except (List Err) Int :=
  match parseExpr (colOf dflt ts) ts with
  | .error e => .error e
  | .ok x => (x.absolute (p.scope a .directive) (colOf dflt ts)).map BitVec.toInt
def nameArg (dflt : Nat) (ts : List (List Tok)) : Except (List Err) String :=
  match ts with
  | [[t]] => identOf t
  | _ => .error (wrong ts.flatten 33 dflt)
/-- An argument key = expression. -/
def keyArg (dflt : Nat) (ts : List Tok) : Except (List Err) (String × List Tok) :=
  let no : Except (List Err) (String × List Tok) := .error (wrong ts 33 dflt)
  match ts with
  | { k := .word s _ _, col := _ } :: e :: r => if e.is "=" then .ok (s, r) else no
  | _ => no
/-- One key of .team with its limits (R38); the lower limit of max is checked once all keys are read. -/
def Team.set (t : Team) (k : String) (v : Int) : Option Team :=
  let n := v.toNat
  let within (lo hi step : Nat) : Bool := decide ((lo : Int) ≤ v) && decide (v ≤ (hi : Int)) && n % step == 0
  if k == "groups" then (if within 1 32 1 then some { t with groups := n } else none)
  else if k == "max" then (if within 1 32 1 then some { t with max := n } else none)
  else if k == "regs" then (if within 32 192 32 then some { t with regs := n } else none)
  else if k == "scratch" then (if within 0 458752 256 then some { t with scratch := n } else none)
  else if k == "lanepriv" then (if within 0 256 4 then some { t with lanepriv := n } else none)
  else if k == "span" then (if within 1 8 1 then some { t with span := n } else none)
  else if k == "stage" then (if within 0 65536 1024 then some { t with stage := n } else none)
  else none
/-- The keys of a .team: each at most once; max is groups where it does not stand. -/
def Pass.team (p : Pass) (a : At) (dflt : Nat) : List (List Tok) → List String → Team → Except (List Err) Team
  | [], seen, t =>
    if seen.contains "max" then (if t.groups ≤ t.max then .ok t else errAt 38 dflt) else .ok { t with max := t.groups }
  | ts :: r, seen, t =>
    let col := colOf dflt ts
    let also (e : List Err) (seen : List String) : Except (List Err) Team :=
      match p.team a dflt r seen t with | .ok _ => .error e | .error f => .error (e ++ f)
    match keyArg col ts with
    | .error e => also e seen
    | .ok (k, x) =>
      match p.now a col x with
      | .error e => also e (k :: seen)
      | .ok v =>
        if seen.contains k then also [{ rule := 38, col := col }] seen
        else match t.set k v with
          | some t => p.team a dflt r (k :: seen) t
          | none => also [{ rule := 38, col := col }] (k :: seen)
/-- The literals of a float directive as codes, and the errors of those that have none. -/
def floats (dflt : Nat) (f : Lit → Option Nat) : List (List Tok) → List Nat × List Err
  | [] => ([], [])
  | ts :: r =>
    let (ns, es) := floats dflt f r
    match literal dflt ts with
    | .error e => (ns, e ++ es)
    | .ok (l, col) =>
      match f l with
      | some n => (n :: ns, es)
      | none => (ns, { rule := 39, col := col } :: es)
/-- A format name as the first argument. -/
def fmtArg (dflt : Nat) (zero one : String) (ts : List (List Tok)) : Except (List Err) Bool :=
  match ts with
  | [t] :: _ => if t.text == zero then .ok false else if t.text == one then .ok true else .error (wrong [t] 39 t.col)
  | _ => .error (wrong (ts.headD []) 39 dflt)
/-- Literals in the format that the first argument names; where it names none, each is only read. -/
def formatted (dflt : Nat) (f : Bool → Lit → Option Nat) (fmt : Except (List Err) Bool) (ts : List (List Tok)) : List Nat × List Err :=
  match fmt with
  | .ok b => floats dflt (f b) (ts.drop 1)
  | .error e => let (_, es) := floats dflt (fun _ => some 0) (ts.drop 1); ([], e ++ es)
/-- The course lines of element patterns (R40): course c of element e of a line at byte 128 c + e. -/
def courseLine (l : List Nat) : List Byte :=
  ((List.range 4).map (fun c => (List.range 128).map (fun e => BitVec.ofNat 8 (l.getD e 0 / 2 ^ (24 - 8 * c))))).flatten
def courseLines : Nat → List Nat → List Byte
  | 0, _ => []
  | n + 1, l => courseLine (l.take 128) ++ courseLines n (l.drop 128)
def lineCount (l : Nat) : Nat := (l + 127) / 128
/-- The nop words that .align emits (R39). -/
def Pass.nops (p : Pass) (a : At) (col : Nat) : Nat → Except (List Err) Pass
  | 0 => .ok p
  | n + 1 =>
    let i : Ins := { col := col, pred := 0, choice := .one (scalarForm 2 0), sufs := [], ops := [], mem := false }
    match p.emit .scode 4 (.ins { a with off := p.scode } i false false false) col with
    | .ok p => p.nops a col n
    | .error e => .error e
/-- .align n (R39). -/
def Pass.align (p : Pass) (a : At) (s : Sect) (n : Int) (col : Nat) : Except (List Err) Pass :=
  let least : Int := match s with | .scode => 4 | .course => 512 | .data => 1 | .lcode => 1
  let k := n.toNat
  if least ≤ n ∧ n ≤ 65536 ∧ 2 ^ Nat.log2 k = k then
    let pad := (k - p.offset s % k) % k
    if s = .scode then p.nops a col (pad / 4) else p.emit s pad (.raw a (List.replicate pad 0)) col
  else errAt 39 col
/-- .space n, b (R39). The fill b is a byte in either reading, from -128 to 255: the manual gives it no range (log entry 48). -/
def Pass.space (p : Pass) (a : At) (s : Sect) (n b : Int) (col : Nat) : Except (List Err) Pass :=
  if 0 ≤ n ∧ n ≤ 2 ^ 24 ∧ -128 ≤ b ∧ b ≤ 255 ∧ (s = .data ∨ (n % 512 = 0 ∧ b = 0)) then
    p.emit s n.toNat (.raw a (List.replicate n.toNat (BitVec.ofInt 8 b))) col
  else errAt 39 col
/-- The numbers that a directive takes at once: their values, where all have one, and their errors. -/
def Pass.nows (p : Pass) (a : At) (dflt : Nat) : List (List Tok) → Option (List Int) × List Err
  | [] => (some [], [])
  | ts :: r =>
    let (vs, es) := p.nows a dflt r
    match p.now a dflt ts with
    | .ok v => (vs.map (v :: ·), es)
    | .error e => (none, e ++ es)
/-- An item of a directive that takes one or more arguments, in a section, with the errors of its arguments. -/
def Pass.listed (p : Pass) (a : At) (s : Sect) (size : Nat) (ts : List (List Tok)) (i : Item) (bad : List Err) (col : Nat) : Told :=
  let (p, e) := p.place a [s] size i col
  (p, e ++ bad ++ if ts.isEmpty then [{ rule := 33, col := col }] else [])
/-- Integer data; the values are checked once every symbol is known. -/
def Pass.ints (p : Pass) (a : At) (n : Nat) (lo hi : Int) (ts : List (List Tok)) (col : Nat) : Told :=
  let (es, bad) := exprs col ts
  p.listed a .data (n * ts.length) ts (.ints a n lo hi es) bad col
/-- Codes of n bytes each. -/
def Pass.floatData (p : Pass) (a : At) (n : Nat) (ts : List (List Tok)) (r : List Nat × List Err) (col : Nat) : Told :=
  p.listed a .data (n * ts.length) ts (.raw a (r.1.map (leBytes n)).flatten) r.2 col
/-- A switch to a section (R35); not inside a block (R36). -/
def Pass.section (p : Pass) (a : At) (s : Sect) (ts : List Tok) (col : Nat) : Told :=
  (if a.block.isSome then p else { p with sect := some s },
   (if ts.isEmpty then [] else wrong ts 33 col) ++ if a.block.isSome then [{ rule := 36, col := col }] else [])
/-- .block (R36): the block begins at the next 16-byte boundary. -/
def Pass.openBlock (p : Pass) (a : At) (file : List Nat) (ts : List (List Tok)) (col : Nat) : Told :=
  let nm := nameArg col ts
  if a.block.isSome then (p, errsOf (inSect a [.lcode] col) ++ errsOf nm ++ [{ rule := 36, col := col }])
  else
    let pad := (16 - p.lcode % 16) % 16
    let off := p.lcode + pad
    let (p, e) := p.keep (nm.bind (fun nm =>
      p.define { name := nm, kind := .block, val := { v := BitVec.ofNat 64 off, rel := some .lcode }, seq := a.seq, dep := true } col))
    let (p, e') := ({ p with blocks := { name := nm.toOption.getD "", off := off, stop := off } :: p.blocks,
                             inBlock := some (p.blocks.length, file), last := none }).place a [.lcode] pad
                      (.raw a (List.replicate pad 0)) col
    (p, e ++ e')
/-- The instruction may end a block: vend, or a lane branch without a condition (R36, R164). -/
def endsBlock (l : Option (Nat × Nat)) : Bool :=
  match l with
  | some (f, pred) => f == laneForm 0x062 || ((f == laneForm 0x060 || f == laneForm 0x061) && pred % 8 == 0)
  | none => false
/-- .endblock, in the file of its .block (R36). -/
def Pass.closeBlock (p : Pass) (file : List Nat) (ts : List Tok) (col : Nat) : Told :=
  let bad : List Err := [{ rule := 36, col := col }]
  let extra : List Err := if ts.isEmpty then [] else wrong ts 33 col
  match p.inBlock, p.blocks with
  | some (_, f), b :: bs =>
    ({ p with inBlock := none, blocks := { b with stop := p.lcode } :: bs },
     extra ++ (if f = file then [] else bad) ++ if endsBlock p.last then [] else bad)
  | _, _ => (p, extra ++ bad)
/-- .kernel, in .scode outside a block (R38). Its symbol has the entry of its first instruction, as the round before laid it out. -/
def Pass.kernel (p : Pass) (a : At) (ts : List (List Tok)) (col : Nat) : Told :=
  let nm := nameArg col ts
  let ent := p.ents.getD p.kernels.length a.off
  let (p, e) := p.keep (nm.bind (fun nm =>
    p.define { name := nm, kind := .kernel, val := { v := BitVec.ofNat 64 ent, rel := some .scode }, seq := a.seq, dep := true } col))
  ({ p with kernels := p.kernels ++ [{ name := nm.toOption.getD "", assumed := ent, entry := a.off, started := false, teamSeen := false,
                                       team := Team.dflt }] },
   errsOf (inSect a [.scode] col) ++ e ++ if 4096 ≤ p.kernels.length then [{ rule := 44, col := col }] else [])
/-- .team, once per kernel and before its first instruction (R38). -/
def Pass.teamDir (p : Pass) (a : At) (ts : List (List Tok)) (col : Nat) : Told :=
  let bad : List Err := [{ rule := 38, col := col }]
  let t := p.team a col ts [] Team.dflt
  match p.kernels.reverse with
  | k :: ks =>
    ({ p with kernels := ({ k with team := t.toOption.getD Team.dflt, teamSeen := true } :: ks).reverse },
     (if k.started || k.teamSeen || ts.isEmpty then bad else []) ++ errsOf t)
  | [] => (p, bad ++ errsOf t)
/-- .equ (R41); its symbol depends on the layout where its expression does. One whose value cannot be read is still defined, for the lines that name it. -/
def Pass.equ (p : Pass) (a : At) (ts : List (List Tok)) (col : Nat) : Told :=
  match ts with
  | [nm, x] =>
    let sc := p.scope a .directive
    let e := parseExpr (colOf col x) x
    let v := e.bind (fun e => e.absolute sc (colOf col x))
    let (p, es) := p.keep ((nameArg col [nm]).bind (fun s =>
      p.define { name := s, kind := .equ, val := .abs (v.toOption.getD 0), seq := a.seq, dep := (e.toOption.map (fun e => e.dep sc)).getD true } col))
    (p, es ++ errsOf v)
  | _ => (p, wrong ts.flatten 33 col)
/-- .reserve frames=n, at most once (R41). -/
def Pass.reserveDir (p : Pass) (a : At) (ts : List (List Tok)) (col : Nat) : Told :=
  match ts with
  | [x] =>
    match keyArg col x with
    | .error e => (p, e)
    | .ok (k, r) =>
      let e := parseExpr (colOf col r) r
      ({ p with reserve := p.reserve ++ (e.toOption.map (fun e => (a, e, colOf col r))).toList },
       errsOf e ++ if k == "frames" && p.reserve.isEmpty then [] else [{ rule := 41, col := col }])
  | _ => (p, wrong ts.flatten 33 col)
/-- .space n or .space n, b (R39). -/
def Pass.spaceDir (p : Pass) (a : At) (l : List (List Tok)) (col : Nat) : Told :=
  let s := inSect a [.data, .course] col
  match p.nows a col l with
  | (some [n], _) => p.keep (s.bind (fun s => p.space a s n 0 col))
  | (some [n, b], _) => p.keep (s.bind (fun s => p.space a s n b col))
  | (vs, es) => (p, errsOf s ++ es ++ if vs.isSome then [{ rule := 33, col := col }] else [])
/-- .align n (R39). -/
def Pass.alignDir (p : Pass) (a : At) (l : List (List Tok)) (col : Nat) : Told :=
  let s := inSect a [.scode, .data, .course] col
  match p.nows a col l with
  | (some [n], _) => p.keep (s.bind (fun s => p.align a s n col))
  | (vs, es) => (p, errsOf s ++ es ++ if vs.isSome then [{ rule := 33, col := col }] else [])
/-- A directive but .include and the conditionals; file names the present reading of the file by the lines that lead to it. -/
def Pass.directive (p : Pass) (a : At) (file : List Nat) (d : String) (ts : List Tok) (col : Nat) : Told :=
  let l := args ts
  if d == "scode" then p.section a .scode ts col
  else if d == "lcode" then p.section a .lcode ts col
  else if d == "data" then p.section a .data ts col
  else if d == "course" then p.section a .course ts col
  else if d == "block" then p.openBlock a file l col
  else if d == "endblock" then p.closeBlock file ts col
  else if d == "kernel" then p.kernel a l col
  else if d == "team" then p.teamDir a l col
  else if d == "byte" then p.ints a 1 (-128) 255 l col
  else if d == "half" then p.ints a 2 (-(2 ^ 15)) (2 ^ 16 - 1) l col
  else if d == "word" then p.ints a 4 (-(2 ^ 31)) (2 ^ 32 - 1) l col
  else if d == "dword" then
    let (es, bad) := exprs col l
    p.listed a .data (8 * l.length) l (.dwords a es) bad col
  else if d == "f32" then p.floatData a 4 l (floats col Lit.f32 l) col
  else if d == "f8" then p.floatData a 1 (l.drop 1) (formatted col Lit.f8 (fmtArg col "e4m3" "e5m2" l) l) col
  else if d == "ascii" then
    match ts with
    | [{ k := .str b, col := _ }] => p.place a [.data] b.length (.raw a b) col
    | _ => (p, errsOf (inSect a [.data] col) ++ wrong ts 33 col)
  else if d == "space" then p.spaceDir a l col
  else if d == "align" then p.alignDir a l col
  else if d == "celem" then
    let n := lineCount (l.length - 1)
    let (x, bad) := formatted col Lit.course (fmtArg col "ne4" "ne5" l) l
    p.listed a .course (512 * n) (l.drop 1) (.raw a (courseLines n x)) bad col
  else if d == "craw" then
    let (es, bad) := exprs col l
    p.listed a .course (512 * lineCount l.length) l (.patterns a es) bad col
  else if d == "equ" then p.equ a l col
  else if d == "reserve" then p.reserveDir a l col
  else (p, [{ rule := 33, col := col }])

/-! ## Lines and files (R33, R41) -/
/-- .if, .else and .endif (R41). A condition that cannot be read takes no arm. -/
def Pass.conditional (p : Pass) (a : At) (d : String) (ts : List Tok) (col : Nat) : Pass × List Err :=
  let bad : List Err := [{ rule := 41, col := col }]
  let extra : List Err := if ts.isEmpty then [] else [{ rule := 33, col := col }]
  if d == "if" then
    let push (active taken : Bool) : Pass := { p with conds := { active := active, outer := p.live, taken := taken, elseSeen := false } :: p.conds }
    let deep : List Err := if 16 ≤ p.conds.length then bad else []
    if p.live then
      match p.now a col ts with
      | .ok v => (push (v != 0) (v != 0), deep)
      | .error e => (push false true, e ++ deep)
    else (push false true, deep)
  else
    match p.conds with
    | [] => (p, bad)
    | c :: cs =>
      if d == "endif" then ({ p with conds := cs }, extra)
      else if c.elseSeen then (p, bad)
      else ({ p with conds := { c with active := c.outer && !c.taken, taken := true, elseSeen := true } :: cs }, extra)
/-- The label of a line, and the tokens after it. -/
def splitLabel (ts : List Tok) : Option Tok × List Tok :=
  match ts with
  | t :: c :: r =>
    if c.is ":" && (match t.k with
      | .word _ _ _ => true | .int _ d => d
      | .dir _ => false | .ref _ _ => false | .float _ _ => false | .str _ => false | .sym _ => false | .bad => false) then (some t, r) else (none, ts)
  | _ => (none, ts)
/-- The directive that a statement begins with. -/
def dirOf (ts : List Tok) : Option String :=
  match ts with
  | { k := .dir d, col := _ } :: _ => some d
  | _ => none
/-- A file name relative to the including file (R41); one that begins with '/' stands for itself (log entry 48). -/
def relative (file : FileName) (name : List Byte) : FileName :=
  if name.head? = some 47 then name else (file.reverse.dropWhile (· != 47)).reverse ++ name
/-- A statement of an assembled line, its errors, and the file that it includes with its column. -/
def Pass.statement (p : Pass) (a : At) (file : List Nat) (ts : List Tok) : Pass × List Err × Option (List Byte × Nat) :=
  match ts with
  | [] => (p, [], none)
  | t :: r =>
    match dirOf ts with
    | some "include" =>
      match r with
      | [{ k := .str b, col := c }] => (p, [], some (b, c))
      | _ => (p, wrong r 33 t.col, none)
    | some d => let (p, es) := p.directive a file d r t.col; (p, es, none)
    | none =>
      match instruction ts with
      | (none, es) => (p, es, none)
      | (some (lane, i), es) => let (p, fs) := p.ins a lane i; (p, es ++ fs, none)
/-- One line: the errors of its characters, its label, then its statement. Each error is reported, and what it leaves readable still counts. In an arm that is not
assembled the errors of R17 are reported alone, for R17 holds of the text. -/
def Pass.line (p : Pass) (name : FileName) (file : List Nat) (n : Nat) (l : List Nat) : Pass × List Err × Option (List Byte × Nat) :=
  let p := { p with seq := p.seq + 1 }
  let (ts, bad) := lexLine l
  let live := p.live
  let (lab, rest) := splitLabel ts
  let a := p.here name n file
  let (p, e) : Told := match lab with | some t => if live then p.keep (p.label a t) else (p, []) | none => (p, [])
  let seen := (if live then bad else bad.filter (fun e => e.rule == 17)) ++ e
  let d := (dirOf rest).getD ""
  if d == "if" || d == "else" || d == "endif" then
    let (p, es) := p.conditional a d (rest.drop 1) (colOf 1 rest)
    (p, seen ++ es, none)
  else if live then
    let (p, es, inc) := p.statement a file rest
    (p, seen ++ es, inc)
  else (p, seen, none)
def Pass.report (p : Pass) (name : FileName) (n : Nat) (es : List Err) : Pass :=
  { p with errs := (es.map (fun e => { file := name, line := n, col := e.col })).reverse ++ p.errs }
/-- The end of a file: no block that it opened is open (R36). -/
def Pass.endFile (p : Pass) (name : FileName) (file : List Nat) (n : Nat) : Pass :=
  match p.inBlock with
  | some (_, f) => if f = file then ({ p with inBlock := none }).report name n [{ rule := 36, col := 1 }] else p
  | none => p
/-- The lines of a file, numbered; files are included to a depth that the first number still allows (R41). An included file begins in the section of the file that
includes it (log entry 48). -/
def runFile (src : Sources) : Nat → FileName → List Nat → List (List Nat × Nat) → Pass → Pass
  | 0, _, _, _, p => p
  | depth + 1, name, file, lines, p =>
    (lines.foldl (fun p (x : List Nat × Nat) =>
      let (p, es, inc) := p.line name file x.2 x.1
      let p := p.report name x.2 es
      match inc with
      | none => p
      | some (b, col) =>
        let f := relative name b
        match src.find? (fun s => s.1 == f) with
        | some (_, text) =>
          if depth = 0 then p.report name x.2 [{ rule := 41, col := col }]
          else
            let ls := splitLines [] (text.map BitVec.toNat)
            runFile src depth f (x.2 :: file) (ls.zip (List.range' 1 ls.length)) p
        | none => p.report name x.2 [{ rule := 41, col := col }]) p).endFile name file lines.length
/-- One pass over a main file, with these statements wide and these entries: at the end no conditional is open (R41), and every kernel has an
instruction (R38). A conditional may close in another file than it opens in (log entry 48). -/
def onePass (src : Sources) (name : FileName) (text : List Byte) (wide : List (List Nat)) (ents : List Nat) : Pass :=
  let ls := splitLines [] (text.map BitVec.toNat)
  let p := runFile src 17 name [] (ls.zip (List.range' 1 ls.length)) (Pass.start wide ents)
  let p := if p.conds.isEmpty then p else p.report name ls.length [{ rule := 41, col := 1 }]
  if p.kernels.all (·.started) then p else p.report name ls.length [{ rule := 38, col := 1 }]
/-- The statements whose operand does not fit its short form under the layout of the pass (R32). -/
def Pass.toWiden (p : Pass) : List (List Nat) :=
  p.items.filterMap (fun x =>
    match x with
    | .ins a i lane false true =>
      match i.constant with
      | some (e, col) =>
        match e.absolute (p.scope a (if lane then .lane else .scalar)) col with
        | .ok v => if fits (signed i.negated v) 13 then none else some a.path
        | .error _ => none
      | none => none
    | .ins _ _ _ _ _ => none | .raw _ _ => none | .ints _ _ _ _ _ => none | .dwords _ _ => none | .patterns _ _ => none)
/-- Every kernel's symbol has the entry of its first instruction (R38). -/
def Pass.entered (p : Pass) : Bool := p.kernels.all (fun k => k.assumed == k.entry)
/-- Widening until no instruction widens (R32), each layout with the entries it gives the kernels. Each widening round widens another statement; an entry that depends on
itself, so that spare rounds do not settle it, is an error (log entry 48). -/
def settle (src : Sources) (name : FileName) (text : List Byte) : Nat → Nat → List (List Nat) → List Nat → Pass
  | 0, _, wide, ents => onePass src name text wide ents
  | n + 1, spare, wide, ents =>
    let p := onePass src name text wide ents
    if !p.entered then
      match spare with
      | 0 => p.report name 1 [{ rule := 38, col := 1 }]
      | k + 1 => settle src name text n k wide (p.kernels.map (·.entry))
    else if p.toWiden.isEmpty then p
    else settle src name text n 64 (p.toWiden ++ wide) ents

end Sys2Proof.Machine.Asm
end

