-- ==== Sys2Proof/Machine/Asm.lean ====
section
/-! DEFINITION. skas: the register limits of blocks (R23), the contents of the sections, the images of each revision (R72), and the bundle
(R43 to R48). -/
namespace Sys2Proof.Machine.Asm

/-! ## What the items of a settled pass become -/
/-- The limit of a block: the smallest regs= of the kernels whose code names it as an lrun operand, else 192 (R23). -/
def Pass.limit (p : Pass) (b : Nat) : Nat :=
  let name := (p.blockAt b).map (·.name)
  (p.items.filterMap (fun x =>
    match x with
    | .ins { kern := some k, .. } i false _ _ =>
      match i.ops.getLast? with
      | some { f := .expr (.name s _), col := _ } =>
        if i.form false == scalarForm 0x15 0 && some s == name then (p.kernels[k]?).map (fun k => k.team.regs) else none
      | _ => none
    | _ => none)).foldl min 192
/-- An instruction with its place and the values of its operands. -/
structure Placed where
  at0 : At
  lane : Bool
  col : Nat
  ready : Ready
  word : Nat
  deriving DecidableEq, Repr
/-- What an item emits: bytes of its section, relocations, and an instruction. -/
structure Emitted where
  bytes : List Byte
  relocs : List Reloc
  ins : Option Placed
  deriving DecidableEq, Repr
def Emitted.plain (b : List Byte) : Emitted := { bytes := b, relocs := [], ins := none }
/-- Absolute values in a range, as numbers of n bytes (R39); every value that is not in it is an error of its own. -/
def Pass.intValues (p : Pass) (a : At) (n : Nat) (lo hi : Int) : List (Expr × Nat) → Except (List Err) (List Nat)
  | [] => .ok []
  | (x, col) :: r =>
    let one : Except (List Err) Nat :=
      match x.absolute (p.scope a .directive) col with
      | .ok v => if lo ≤ v.toInt ∧ v.toInt ≤ hi then .ok (v.toNat % 2 ^ (8 * n)) else errAt 39 col
      | .error e => .error e
    match one, p.intValues a n lo hi r with
    | .ok v, .ok vs => .ok (v :: vs)
    | .error e, .error f => .error (e ++ f)
    | .error e, .ok _ => .error e
    | .ok _, .error f => .error f
/-- 8-byte data: a relative value becomes a relocation, whose site holds zero in the bundle (R31, R39, R47; log entry 48). -/
def Pass.dwordValues (p : Pass) (a : At) (site : Nat) : List (Expr × Nat) → Except (List Err) (List Byte × List Reloc)
  | [] => .ok ([], [])
  | (x, _) :: r =>
    match x.eval (p.scope a .directive), p.dwordValues a (site + 8) r with
    | .ok { v := v, rel := none }, .ok (b, rs) => .ok (leBytes 8 v.toNat ++ b, rs)
    | .ok { v := v, rel := some s }, .ok (b, rs) =>
      .ok (leBytes 8 0 ++ b, { site := site, sect := Sect.data.num, target := s.num, addend := v.toNat } :: rs)
    | .error e, .error f => .error (e ++ f)
    | .error e, .ok _ => .error e
    | .ok _, .error f => .error f
/-- What an item emits. A .craw pattern is a 32-bit pattern in either reading, from -2^31 to 2^32 - 1: the manual gives it no range (log entry 48). -/
def Pass.emitItem (p : Pass) (x : Item) : Except (List Err) Emitted :=
  match x with
  | .raw _ b => .ok (.plain b)
  | .ints a n lo hi es => (p.intValues a n lo hi es).map (fun l => .plain (l.map (leBytes n)).flatten)
  | .dwords a es => (p.dwordValues a a.off es).map (fun x => { bytes := x.1, relocs := x.2, ins := none })
  | .patterns a es =>
    (p.intValues a 4 (-(2 ^ 31)) (2 ^ 32 - 1) es).map (fun l => .plain (courseLines (lineCount l.length) l))
  | .ins a i lane wide _ =>
    match i.ready wide (p.site a lane) with
    | .error e => .error e
    | .ok r =>
      match r.word lane a.off (match a.block with | some b => p.limit b | none => 192) i.col with
      | .error e => .error e
      | .ok w =>
        .ok { bytes := leBytes (formSize r.form) w, relocs := [], ins := some { at0 := a, lane := lane, col := i.col, ready := r, word := w } }
/-- The items in order, each with its section and what it emits, and the errors. -/
def Pass.emitAll (p : Pass) : List Item → List (Option Sect × Emitted) × List Diag
  | [] => ([], [])
  | x :: r =>
    let (es, ds) := p.emitAll r
    match p.emitItem x with
    | .ok e => ((x.place.sect, e) :: es, ds)
    | .error l => (es, l.map (fun e => { file := x.place.file, line := x.place.line, col := e.col }) ++ ds)
/-- The frames of .reserve, 0 without one, and the errors of each (R41, R44). -/
def Pass.frames (p : Pass) : Nat × List Diag :=
  p.reserve.foldr (fun (x : At × Expr × Nat) r =>
    let (a, e, col) := x
    let bad : List Diag := [{ file := a.file, line := a.line, col := col }]
    match e.absolute (p.scope a .directive) col with
    | .ok v => if 16 ≤ v.toInt ∧ v.toInt ≤ 1024 then (v.toNat, r.2) else (r.1, bad ++ r.2)
    | .error es => (r.1, es.map (fun e => { file := a.file, line := a.line, col := e.col }) ++ r.2)) (0, [])

/-! ## Revisions (R43, R72) -/
/-- The instruction has the same word in a revision; what that revision reserves is rejected (log entry 48). -/
def Placed.inRev (x : Placed) (rev : Nat) : Bool :=
  let op := if x.lane then x.ready.form - 0x4000 else 0
  let old := !(x.ready.sufs.contains (7, 7)) && x.ready.form != scalarForm 2 0x11 && op != 0x092 && op != 0x082 &&
    !((op == 0x090 || op == 0x091) && x.ready.sufs.any (fun s => s.1 == 2 && decide (10 ≤ s.2)))
  match rev with
  | 1 => old && !(x.lane && x.word / 2 ^ 72 % 16 != 0) && op != 0x080 && op != 0x081
  | 2 => old
  | _ => true

/-! ## The bundle (R43 to R48) -/
/-- A bundle that grows: how long it is, and its parts, the last first. -/
structure Body where
  pos : Nat
  parts : List (List Byte)
  deriving DecidableEq, Repr
/-- More bytes from the next multiple of n on, with their offset. -/
def Body.add (b : Body) (n : Nat) (x : List Byte) : Body × Nat :=
  let off := (b.pos + n - 1) / n * n
  ({ pos := off + x.length, parts := x :: List.replicate (off - b.pos) 0 :: b.parts }, off)
def Body.bytes (b : Body) : List Byte := b.parts.reverse.flatten
def Reloc.bytes (r : Reloc) : List Byte := leBytes 4 r.site ++ leBytes 1 r.sect ++ leBytes 1 r.target ++ leBytes 2 0 ++ leBytes 8 r.addend
/-- The sections, relocations and entry array of an image, and its table entry (R45). -/
def Body.image (b : Body) (i : CodeImage) : Body × List Byte :=
  let (b, ent) := if i.entries.isEmpty then (b, 0) else b.add 4 (i.entries.map (leBytes 4)).flatten
  let (b, rel) := b.add 4 (i.relocs.map Reloc.bytes).flatten
  let (b, sc) := b.add 512 i.scode
  let (b, lc) := b.add 512 i.lcode
  let (b, da) := b.add 512 i.data
  let (b, co) := b.add 512 i.course
  (b, leBytes 1 i.rev ++ leBytes 3 0 ++ ([sc, i.scode.length, lc, i.lcode.length, da, i.data.length, co, i.course.length, rel,
    i.relocs.length, ent].map (leBytes 4)).flatten)
/-- Several images, and their table. -/
def Body.images (b : Body) : List CodeImage → Body × List Byte
  | [] => (b, [])
  | i :: r =>
    let (b, e) := b.image i
    let (b, t) := b.images r
    (b, e ++ t)
def Slot.bytes (s : Slot) : List Byte := leBytes 1 s.kind ++ leBytes 7 s.value
def Rec.bytes (r : Rec) : List Byte :=
  leBytes 2 r.form ++ leBytes 1 r.slots.length ++ leBytes 1 r.pred ++ (r.slots.map Slot.bytes).flatten
/-- The string table, and the offset of each name in it. -/
def stringTable : Nat → List String → List Byte × List Nat
  | _, [] => ([], [])
  | n, s :: r =>
    let b := (codes s).map (BitVec.ofNat 8) ++ [0]
    let (t, offs) := stringTable (n + b.length) r
    (b ++ t, n :: offs)
/-- A kernel-table entry (R46). -/
def kernelEntry (name : Nat) (t : Team) : List Byte :=
  leBytes 4 name ++ leBytes 1 t.groups ++ leBytes 1 t.max ++ leBytes 1 t.regs ++ leBytes 1 t.span ++ leBytes 4 t.scratch ++
    leBytes 2 t.lanepriv ++ leBytes 2 (t.stage / 1024) ++ leBytes 8 0 ++ leBytes 8 0
/-- A module that is free of errors: the sections, the instructions in order, and what the tables hold. -/
structure Module where
  scode : List Byte
  lcode : List Byte
  data : List Byte
  course : List Byte
  relocs : List Reloc
  ins : List Placed
  kernels : List Kern
  blocks : List Block
  frames : Nat
  reserved : Bool
  deriving DecidableEq, Repr
def Module.image (m : Module) (rev : Nat) : CodeImage :=
  { rev := rev, scode := m.scode, lcode := m.lcode, data := m.data, course := m.course, relocs := m.relocs, entries := m.kernels.map (·.entry) }
/-- The records of the portable form: those of .scode, then those of .lcode (R48). -/
def Module.records (m : Module) : List Rec :=
  let all := m.ins.filter (fun x => !x.lane) ++ m.ins.filter (·.lane)
  let index (lane : Bool) (t : Nat) : Option Nat := all.findIdx? (fun x => x.lane == lane && x.at0.off == t)
  all.map (fun x => x.ready.record x.lane x.at0.off (index x.lane) (fun b => (index true b).getD 0))
/-- The portable form: its header, the records, an entry of R45 for what follows, and the data, course and relocation contents (R48;
log entry 20). -/
def Module.portable (m : Module) (b : Body) : Body × Nat :=
  let rs := m.records
  let text := (rs.map Rec.bytes).flatten
  let off := (b.pos + 511) / 512 * 512
  let head := (leBytes 4 0x00465053 ++ leBytes 4 rs.length ++ leBytes 8 0) ++ text
  let (body, entry) := ({ pos := off + head.length + 48, parts := [] } : Body).image { m.image 0 with scode := [], lcode := [] }
  ({ pos := body.pos, parts := body.parts ++ entry :: head :: List.replicate (off - b.pos) 0 :: b.parts }, off)
/-- The bundle of a module: header, image table, kernel table, strings, images, portable form (R44; their order is log entry 48). -/
def Module.bundle (m : Module) (revs : List Nat) (spf : Bool) : List Byte :=
  let (names, offs) := stringTable 0 (m.kernels.map (·.name))
  let kt := ((offs.zip m.kernels).map (fun x => kernelEntry x.1 x.2.team)).flatten
  let it := 64
  let ktOff := it + 48 * revs.length
  let (b, str) := ({ pos := ktOff + 32 * m.kernels.length, parts := [] } : Body).add 4 names
  let (b, table) := b.images (revs.map m.image)
  let (b, poff) := if spf then m.portable b else (b, 0)
  let flags := (if spf then 1 else 0) + (if m.reserved then 2 else 0)
  leBytes 4 0x00424B53 ++ leBytes 2 1 ++ leBytes 2 flags ++ leBytes 2 revs.length ++ leBytes 2 m.kernels.length ++ leBytes 4 0 ++
    leBytes 4 it ++ leBytes 4 ktOff ++ leBytes 4 poff ++ leBytes 4 (if spf then b.pos - poff else 0) ++ leBytes 4 str ++
    leBytes 4 names.length ++ leBytes 2 m.frames ++ List.replicate 22 0 ++ table ++ kt ++ b.bytes

/-! ## skas (R16, R43) -/
/-- What skas answers: a bundle, or the errors of a rejected source, for which it writes none. -/
inductive Answer where
  | bundle (b : List Byte)
  | rejected (ds : List Diag)
  deriving DecidableEq, Repr
/-- The module of a settled pass, or its errors. -/
def Pass.module (p : Pass) (revs : List Nat) : Except (List Diag) Module :=
  let (es, ds) := p.emitAll p.items.reverse
  let (frames, fs) := p.frames
  let ins := es.filterMap (fun x => x.2.ins)
  let old := (ins.filter (fun x => !revs.all x.inRev)).map (fun x => { file := x.at0.file, line := x.at0.line, col := x.col : Diag })
  let errs := p.errs.reverse ++ ds ++ fs ++ old
  let sect (s : Sect) : List Byte := (es.filterMap (fun x => if x.1 = some s then some x.2.bytes else none)).flatten
  if errs.isEmpty then
    .ok { scode := sect .scode, lcode := sect .lcode, data := sect .data, course := sect .course,
          relocs := (es.map (fun x => x.2.relocs)).flatten, ins := ins, kernels := p.kernels, blocks := p.blocks.reverse,
          frames := frames, reserved := !p.reserve.isEmpty }
  else .error errs
/-- skas on a main file: the revisions that -rev names, each once, and -spf; revision 3 where neither is given. A revision that does not
exist, a missing file, or a bundle above 4 GiB - 1 bytes is rejected without a line. -/
def skas (src : Sources) (name : FileName) (revs : List Nat) (spf : Bool) : Answer :=
  let revs := if revs.isEmpty && !spf then [3] else revs.eraseDups
  let nowhere : Answer := .rejected [{ file := name, line := 0, col := 0 }]
  match src.find? (fun s => s.1 == name) with
  | none => nowhere
  | some (_, text) =>
    if revs.all (fun r => decide (1 ≤ r) && decide (r ≤ 3)) then
      match (settle src name text (2 ^ 30) 64 [] []).module revs with
      | .error ds => .rejected ds
      | .ok m => let b := m.bundle revs spf; if b.length < 2 ^ 32 then .bundle b else nowhere
    else nowhere

end Sys2Proof.Machine.Asm
end

