-- ==== Sys2Proof/Laws/Asm.lean ====
section
/-! SUPPORT. What holds of everything skas emits: its words are legal (R16), its sections keep to 16 MiB (R35), and what a bundle adds is
aligned (R45). -/
namespace Sys2Proof.Machine.Asm

/-- A word that passes the check is one that the device decodes. -/
theorem legalWord_ok {lane : Bool} {regs w v col : Nat} (h : legalWord lane regs w col = .ok v) :
    v = w ∧ ∃ i, (if lane then Dec.decodeLane regs w else Dec.decodeScalar (w % 2 ^ 32) (w / 2 ^ 32)) = .ok i := by
  unfold legalWord at h
  generalize (if lane then Dec.decodeLane regs w else Dec.decodeScalar (w % 2 ^ 32) (w / 2 ^ 32)) = d at h ⊢
  cases d with
  | illegal sub => cases h
  | ok i => injection h with h; exact ⟨h.symm, i, rfl⟩
/-- A word that skas emits breaks no operand limit: the device decodes it. -/
theorem Ready.word_legal {r : Ready} {lane : Bool} {off regs col w : Nat} (h : r.word lane off regs col = .ok w) :
    ∃ i, (if lane then Dec.decodeLane regs w else Dec.decodeScalar (w % 2 ^ 32) (w / 2 ^ 32)) = .ok i := by
  unfold Ready.word at h
  split at h
  · cases h
  · dsimp only at h
    split at h
    · cases h
    · cases h
    · cases h
    · split at h
      · cases h
      · obtain ⟨rfl, i, hi⟩ := legalWord_ok h
        exact ⟨i, hi⟩
/-- An item that is emitted leaves its section within 16 MiB. -/
theorem Pass.emit_limit {p q : Pass} {s : Sect} {n col : Nat} {i : Item} (h : p.emit s n i col = .ok q) :
    q.offset s = p.offset s + n ∧ q.offset s ≤ 2 ^ 24 := by
  unfold Pass.emit at h
  split at h
  · cases h
  · injection h with h; subst h
    rename_i hn
    cases s <;> simp [Pass.setOffset, Pass.offset] at hn ⊢ <;> omega
/-- What a bundle adds begins at the next multiple of n. -/
theorem Body.add_aligned (b : Body) (n : Nat) (x : List Byte) (hn : 0 < n) :
    (b.add n x).2 % n = 0 ∧ b.pos ≤ (b.add n x).2 ∧ (b.add n x).1.pos = (b.add n x).2 + x.length := by
  refine ⟨Nat.mul_mod_left _ _, ?_, rfl⟩
  have h := Nat.div_add_mod (b.pos + n - 1) n
  have := Nat.mod_lt (b.pos + n - 1) hn
  have e : (b.add n x).2 = (b.pos + n - 1) / n * n := rfl
  rw [e, Nat.mul_comm]
  omega

end Sys2Proof.Machine.Asm
end

