-- ==== Sys2Proof/Laws/Tables.lean ====
section
/-! SUPPORT. What the table and cell operations do, and that they keep the canonical form. -/
namespace Sys2Proof.Machine

/-! ## Reading after deleting, inserting and putting -/
theorem tabFind_tabDel_self {α : Type} (t : Tab α) (k : Nat) : tabFind (tabDel t k) k = none := by
  induction t with
  | nil => rfl
  | cons e r ih =>
    obtain ⟨j, v⟩ := e
    by_cases h : k = j <;> simp [tabDel, tabFind, h]
    · simpa [h] using ih
    · simpa using ih

theorem tabFind_tabDel_ne {α : Type} (t : Tab α) {k j : Nat} (h : j ≠ k) : tabFind (tabDel t k) j = tabFind t j := by
  induction t with
  | nil => rfl
  | cons e r ih =>
    obtain ⟨i, v⟩ := e
    by_cases hk : k = i
    · subst hk; simp [tabDel, tabFind, h, ih]
    · by_cases hj : j = i <;> simp [tabDel, tabFind, hk, hj, ih]

theorem tabFind_tabInsert_self {α : Type} (t : Tab α) (k : Nat) (v : α) (h : tabFind t k = none) :
    tabFind (tabInsert k v t) k = some v := by
  induction t with
  | nil => simp [tabInsert, tabFind]
  | cons e r ih =>
    obtain ⟨i, w⟩ := e
    by_cases hi : k = i
    · simp [tabFind, hi] at h
    · simp only [tabFind, hi, if_false] at h
      by_cases hle : k ≤ i <;> simp [tabInsert, tabFind, hle, hi, ih h]

theorem tabFind_tabInsert_ne {α : Type} (t : Tab α) {k j : Nat} (v : α) (h : j ≠ k) :
    tabFind (tabInsert k v t) j = tabFind t j := by
  induction t with
  | nil => simp [tabInsert, tabFind, h]
  | cons e r ih =>
    obtain ⟨i, w⟩ := e
    by_cases hle : k ≤ i <;> by_cases hj : j = i <;> simp [tabInsert, tabFind, hle, hj, h, ih]
    subst hj; simp [h]

theorem tabGet_eq {α : Type} (d : α) (t : Tab α) (k : Nat) : tabGet d t k = (tabFind t k).getD d := by
  induction t with
  | nil => rfl
  | cons e r ih =>
    obtain ⟨i, w⟩ := e
    by_cases h : k = i <;> simp [tabGet, tabFind, h, ih]

@[simp] theorem tabFind_tabPut_self {α : Type} (t : Tab α) (k : Nat) (v : α) : tabFind (tabPut t k v) k = some v :=
  tabFind_tabInsert_self _ _ _ (tabFind_tabDel_self t k)

theorem tabFind_tabPut_ne {α : Type} (t : Tab α) {k j : Nat} (v : α) (h : j ≠ k) :
    tabFind (tabPut t k v) j = tabFind t j := by
  rw [tabPut, tabFind_tabInsert_ne _ _ h, tabFind_tabDel_ne _ h]

@[simp] theorem tabGet_tabPut_self {α : Type} (d : α) (t : Tab α) (k : Nat) (v : α) : tabGet d (tabPut t k v) k = v := by
  simp [tabGet_eq]

theorem tabGet_tabPut_ne {α : Type} (d : α) (t : Tab α) {k j : Nat} (v : α) (h : j ≠ k) :
    tabGet d (tabPut t k v) j = tabGet d t j := by
  simp [tabGet_eq, tabFind_tabPut_ne t v h]

theorem tabGet_tabDel_self {α : Type} (d : α) (t : Tab α) (k : Nat) : tabGet d (tabDel t k) k = d := by
  simp [tabGet_eq, tabFind_tabDel_self]

theorem tabGet_tabDel_ne {α : Type} (d : α) (t : Tab α) {k j : Nat} (h : j ≠ k) :
    tabGet d (tabDel t k) j = tabGet d t j := by
  simp [tabGet_eq, tabFind_tabDel_ne t h]

/-! ## The order of keys -/
/-- Every key lies above n, or there is none. -/
def tabAbove {α : Type} (n : Nat) (t : Tab α) : Prop := ∀ e ∈ t, n < e.1

theorem tabSorted_cons {α : Type} (j : Nat) (v : α) (r : Tab α) :
    tabSorted ((j, v) :: r) = true ↔ tabAbove j r ∧ tabSorted r = true := by
  induction r generalizing j v with
  | nil => simp [tabSorted, tabAbove]
  | cons e r ih =>
    obtain ⟨k, w⟩ := e
    have hs := ih k w
    constructor
    · intro h
      simp only [tabSorted, Bool.and_eq_true, decide_eq_true_eq] at h
      have hk : tabSorted ((k, w) :: r) = true := by simp only [tabSorted, Bool.and_eq_true]; exact h.2
      refine ⟨?_, hk⟩
      intro e he
      rcases List.mem_cons.1 he with rfl | he
      · exact h.1
      · exact Nat.lt_trans h.1 ((hs.1 hk).1 e he)
    · rintro ⟨ha, hk⟩
      simp only [tabSorted, Bool.and_eq_true, decide_eq_true_eq] at hk ⊢
      exact ⟨ha (k, w) (List.mem_cons_self ..), hk⟩

theorem mem_tabDel {α : Type} (t : Tab α) (k : Nat) (e : Nat × α) : e ∈ tabDel t k ↔ e ∈ t ∧ e.1 ≠ k := by
  induction t with
  | nil => simp [tabDel]
  | cons a r ih =>
    obtain ⟨i, w⟩ := a
    by_cases h : k = i
    · subst h; simp only [tabDel, if_true, ih, List.mem_cons]
      constructor
      · rintro ⟨h1, h2⟩; exact ⟨.inr h1, h2⟩
      · rintro ⟨rfl | h1, h2⟩
        · exact absurd rfl h2
        · exact ⟨h1, h2⟩
    · simp only [tabDel, h, if_false, List.mem_cons, ih]
      constructor
      · rintro (rfl | ⟨h1, h2⟩)
        · exact ⟨.inl rfl, fun he => h he.symm⟩
        · exact ⟨.inr h1, h2⟩
      · rintro ⟨rfl | h1, h2⟩
        · exact .inl rfl
        · exact .inr ⟨h1, h2⟩

theorem mem_tabInsert {α : Type} (t : Tab α) (k : Nat) (v : α) (e : Nat × α) :
    e ∈ tabInsert k v t ↔ e = (k, v) ∨ e ∈ t := by
  induction t with
  | nil => simp [tabInsert]
  | cons a r ih =>
    obtain ⟨i, w⟩ := a
    by_cases h : k ≤ i
    · simp [tabInsert, h]
    · simp only [tabInsert, h, if_false, List.mem_cons, ih]
      constructor
      · rintro (h1 | h1 | h1) <;> simp [h1]
      · rintro (h1 | h1 | h1) <;> simp [h1]

theorem mem_tabPut {α : Type} (t : Tab α) (k : Nat) (v : α) (e : Nat × α) :
    e ∈ tabPut t k v ↔ e = (k, v) ∨ (e ∈ t ∧ e.1 ≠ k) := by
  rw [tabPut, mem_tabInsert, mem_tabDel]

theorem tabSorted_tabDel {α : Type} (t : Tab α) (k : Nat) (h : tabSorted t = true) : tabSorted (tabDel t k) = true := by
  induction t with
  | nil => rfl
  | cons a r ih =>
    obtain ⟨i, w⟩ := a
    obtain ⟨ha, hs⟩ := (tabSorted_cons i w r).1 h
    by_cases hk : k = i
    · simp [tabDel, hk]; rw [hk] at ih; exact ih hs
    · simp only [tabDel, hk, if_false]
      exact (tabSorted_cons ..).2 ⟨fun e he => ha e ((mem_tabDel ..).1 he).1, ih hs⟩

theorem tabSorted_tabInsert {α : Type} (t : Tab α) (k : Nat) (v : α) (h : tabSorted t = true) (hk : ∀ e ∈ t, e.1 ≠ k) :
    tabSorted (tabInsert k v t) = true := by
  induction t with
  | nil => rfl
  | cons a r ih =>
    obtain ⟨i, w⟩ := a
    obtain ⟨ha, hs⟩ := (tabSorted_cons i w r).1 h
    have hki : i ≠ k := hk (i, w) (List.mem_cons_self ..)
    by_cases hle : k ≤ i
    · simp only [tabInsert, hle, if_true]
      refine (tabSorted_cons ..).2 ⟨?_, h⟩
      intro e he
      rcases List.mem_cons.1 he with rfl | he
      · show k < i; omega
      · have := ha e he; show k < e.1; omega
    · simp only [tabInsert, hle, if_false]
      refine (tabSorted_cons ..).2 ⟨?_, ih hs (fun e he => hk e (List.mem_cons_of_mem _ he))⟩
      intro e he
      rcases (mem_tabInsert ..).1 he with rfl | he
      · show i < k; omega
      · exact ha e he

theorem tabSorted_tabPut {α : Type} (t : Tab α) (k : Nat) (v : α) (h : tabSorted t = true) :
    tabSorted (tabPut t k v) = true :=
  tabSorted_tabInsert _ _ _ (tabSorted_tabDel t k h) (fun _ he => ((mem_tabDel ..).1 he).2)

/-! ## Memory cells -/
@[simp] theorem cellsWf_nil : cellsWf [] = true := rfl

theorem cellPut_wf (m : List Host.Cell) (a : Nat) (b : Byte) (h : cellsWf m = true) : cellsWf (cellPut m a b) = true := by
  simp only [cellsWf, Bool.and_eq_true, List.all_eq_true, bne_iff_ne] at h ⊢
  by_cases hb : b = 0
  · simp only [cellPut, hb, if_true]
    exact ⟨tabSorted_tabDel _ _ h.1, fun e he => h.2 e ((mem_tabDel ..).1 he).1⟩
  · simp only [cellPut, hb, if_false]
    refine ⟨tabSorted_tabPut _ _ _ h.1, fun e he => ?_⟩
    rcases (mem_tabPut ..).1 he with rfl | he
    · exact hb
    · exact h.2 e he.1

theorem cellsWrite_wf (m : List Host.Cell) (a n w : Nat) (h : cellsWf m = true) : cellsWf (cellsWrite m a n w) = true := by
  induction n generalizing m a w with
  | zero => exact h
  | succ n ih => exact ih _ _ _ (cellPut_wf _ _ _ h)

@[simp] theorem cellGet_cellPut_self (m : List Host.Cell) (a : Nat) (b : Byte) : cellGet (cellPut m a b) a = b := by
  unfold cellGet cellPut
  split
  · next hb => rw [tabGet_tabDel_self, hb]
  · rw [tabGet_tabPut_self]

theorem cellGet_cellPut_ne (m : List Host.Cell) {a c : Nat} (b : Byte) (h : c ≠ a) : cellGet (cellPut m a b) c = cellGet m c := by
  unfold cellGet cellPut
  split
  · rw [tabGet_tabDel_ne _ _ h]
  · rw [tabGet_tabPut_ne _ _ _ h]

/-- A write of n bytes leaves every byte outside them. -/
theorem cellGet_cellsWrite_out (m : List Host.Cell) (a n w c : Nat) (h : c < a ∨ a + n ≤ c) :
    cellGet (cellsWrite m a n w) c = cellGet m c := by
  induction n generalizing m a w with
  | zero => rfl
  | succ n ih =>
    rw [cellsWrite, ih _ _ _ (by omega), cellGet_cellPut_ne]
    omega

/-- Byte i of a write of n bytes. -/
theorem cellGet_cellsWrite_in (m : List Host.Cell) (a n w i : Nat) (h : i < n) :
    cellGet (cellsWrite m a n w) (a + i) = BitVec.ofNat 8 (w / 256 ^ i) := by
  induction n generalizing m a w i with
  | zero => omega
  | succ n ih =>
    cases i with
    | zero => rw [cellsWrite, cellGet_cellsWrite_out _ _ _ _ _ (by omega)]; simp
    | succ i =>
      rw [cellsWrite, show a + (i + 1) = a + 1 + i by omega, ih _ _ _ _ (by omega), Nat.pow_succ', Nat.div_div_eq_div_mul]

/-- Reading n bytes back after writing them. -/
theorem cellsRead_cellsWrite (m : List Host.Cell) (a n w : Nat) : cellsRead (cellsWrite m a n w) a n = w % 256 ^ n := by
  induction n generalizing m a w with
  | zero => simp [cellsRead, Nat.mod_one]
  | succ n ih =>
    rw [cellsRead, cellsWrite, ih, cellGet_cellsWrite_out _ _ _ _ _ (by omega), cellGet_cellPut_self, Nat.pow_succ',
      Nat.mod_mul]
    simp [BitVec.toNat_ofNat]

end Sys2Proof.Machine
end

