-- ==== Sys2Proof/Laws/State.lean ====
section
/-! SUPPORT. What each update of the state does to each field, and what the accessors read after it. -/
namespace Sys2Proof.Machine

/-! ## setGroup -/
@[simp] theorem State.setGroup_agenda (s : State) (k : Nat) (x : Group) : (s.setGroup k x).agenda = s.agenda := rfl
@[simp] theorem State.setGroup_steps (s : State) (k : Nat) (x : Group) : (s.setGroup k x).steps = s.steps := rfl
@[simp] theorem State.setGroup_freeIdx (s : State) (k : Nat) (x : Group) : (s.setGroup k x).freeIdx = s.freeIdx := rfl
@[simp] theorem State.setGroup_nextId (s : State) (k : Nat) (x : Group) : (s.setGroup k x).nextId = s.nextId := rfl
@[simp] theorem State.setGroup_cur (s : State) (k : Nat) (x : Group) : (s.setGroup k x).cur = s.cur := rfl
@[simp] theorem State.setGroup_slot (s : State) (k : Nat) (x : Group) : (s.setGroup k x).slot = s.slot := rfl
@[simp] theorem State.setGroup_evs (s : State) (k : Nat) (x : Group) : (s.setGroup k x).evs = s.evs := rfl
@[simp] theorem State.setGroup_cycle (s : State) (k : Nat) (x : Group) : (s.setGroup k x).cycle = s.cycle := rfl
@[simp] theorem State.setGroup_window (s : State) (k : Nat) (x : Group) : (s.setGroup k x).window = s.window := rfl
@[simp] theorem State.setGroup_clockMHz (s : State) (k : Nat) (x : Group) : (s.setGroup k x).clockMHz = s.clockMHz := rfl
@[simp] theorem State.setGroup_capped (s : State) (k : Nat) (x : Group) : (s.setGroup k x).capped = s.capped := rfl
@[simp] theorem State.setGroup_mem (s : State) (k : Nat) (x : Group) : (s.setGroup k x).mem = s.mem := rfl
@[simp] theorem State.setGroup_badCopies (s : State) (k : Nat) (x : Group) : (s.setGroup k x).badCopies = s.badCopies := rfl
@[simp] theorem State.setGroup_remote (s : State) (k : Nat) (x : Group) : (s.setGroup k x).remote = s.remote := rfl
@[simp] theorem State.setGroup_completions (s : State) (k : Nat) (x : Group) : (s.setGroup k x).completions = s.completions := rfl
@[simp] theorem State.setGroup_hostMem (s : State) (k : Nat) (x : Group) : (s.setGroup k x).hostMem = s.hostMem := rfl
@[simp] theorem State.setGroup_hostLines (s : State) (k : Nat) (x : Group) : (s.setGroup k x).hostLines = s.hostLines := rfl
@[simp] theorem State.setGroup_hostData (s : State) (k : Nat) (x : Group) : (s.setGroup k x).hostData = s.hostData := rfl
@[simp] theorem State.setGroup_finalised (s : State) (k : Nat) (x : Group) : (s.setGroup k x).finalised = s.finalised := rfl
@[simp] theorem State.setGroup_strap (s : State) (k : Nat) (x : Group) : (s.setGroup k x).strap = s.strap := rfl
@[simp] theorem State.setGroup_mframes (s : State) (k : Nat) (x : Group) : (s.setGroup k x).mframes = s.mframes := rfl
@[simp] theorem State.setGroup_moves (s : State) (k : Nat) (x : Group) : (s.setGroup k x).moves = s.moves := rfl
@[simp] theorem State.setGroup_tlb (s : State) (k : Nat) (x : Group) : (s.setGroup k x).tlb = s.tlb := rfl
@[simp] theorem State.setGroup_flight (s : State) (k : Nat) (x : Group) : (s.setGroup k x).flight = s.flight := rfl
@[simp] theorem State.setGroup_walkers (s : State) (k : Nat) (x : Group) : (s.setGroup k x).walkers = s.walkers := rfl
@[simp] theorem State.setGroup_exports (s : State) (k : Nat) (x : Group) : (s.setGroup k x).exports = s.exports := rfl
@[simp] theorem State.setGroup_fabricOut (s : State) (k : Nat) (x : Group) : (s.setGroup k x).fabricOut = s.fabricOut := rfl
@[simp] theorem State.setGroup_outbox (s : State) (k : Nat) (x : Group) : (s.setGroup k x).outbox = s.outbox := rfl
@[simp] theorem State.setGroup_collOut (s : State) (k : Nat) (x : Group) : (s.setGroup k x).collOut = s.collOut := rfl
@[simp] theorem State.setGroup_interrupts (s : State) (k : Nat) (x : Group) : (s.setGroup k x).interrupts = s.interrupts := rfl
@[simp] theorem State.setGroup_plugs (s : State) (k : Nat) (x : Group) : (s.setGroup k x).plugs = s.plugs := rfl
@[simp] theorem State.setGroup_requests (s : State) (k : Nat) (x : Group) : (s.setGroup k x).requests = s.requests := rfl
@[simp] theorem State.setGroup_routes (s : State) (k : Nat) (x : Group) : (s.setGroup k x).routes = s.routes := rfl
@[simp] theorem State.setGroup_device (s : State) (k : Nat) (x : Group) : (s.setGroup k x).device = s.device := rfl
@[simp] theorem State.setGroup_owners (s : State) (k : Nat) (x : Group) : (s.setGroup k x).owners = s.owners := rfl
@[simp] theorem State.setGroup_queues (s : State) (k : Nat) (x : Group) : (s.setGroup k x).queues = s.queues := rfl
@[simp] theorem State.setGroup_taken (s : State) (k : Nat) (x : Group) : (s.setGroup k x).taken = s.taken := rfl
@[simp] theorem State.setGroup_kernels (s : State) (k : Nat) (x : Group) : (s.setGroup k x).kernels = s.kernels := rfl
@[simp] theorem State.setGroup_teams (s : State) (k : Nat) (x : Group) : (s.setGroup k x).teams = s.teams := rfl
@[simp] theorem State.setGroup_waits (s : State) (k : Nat) (x : Group) : (s.setGroup k x).waits = s.waits := rfl
@[simp] theorem State.setGroup_copies (s : State) (k : Nat) (x : Group) : (s.setGroup k x).copies = s.copies := rfl
@[simp] theorem State.setGroup_colls (s : State) (k : Nat) (x : Group) : (s.setGroup k x).colls = s.colls := rfl
@[simp] theorem State.setGroup_matrix (s : State) (k : Nat) (x : Group) : (s.setGroup k x).matrix = s.matrix := rfl
@[simp] theorem State.setGroup_mirrors (s : State) (k : Nat) (x : Group) : (s.setGroup k x).mirrors = s.mirrors := rfl
@[simp] theorem State.setGroup_pushes (s : State) (k : Nat) (x : Group) : (s.setGroup k x).pushes = s.pushes := rfl
@[simp] theorem State.setGroup_walks (s : State) (k : Nat) (x : Group) : (s.setGroup k x).walks = s.walks := rfl
@[simp] theorem State.setGroup_parks (s : State) (k : Nat) (x : Group) : (s.setGroup k x).parks = s.parks := rfl
@[simp] theorem State.setGroup_transfers (s : State) (k : Nat) (x : Group) : (s.setGroup k x).transfers = s.transfers := rfl
@[simp] theorem State.setGroup_pchanges (s : State) (k : Nat) (x : Group) : (s.setGroup k x).pchanges = s.pchanges := rfl
@[simp] theorem State.setGroup_dieRegs (s : State) (k : Nat) (x : Group) : (s.setGroup k x).dieRegs = s.dieRegs := rfl
@[simp] theorem State.setGroup_groups (s : State) (k : Nat) (x : Group) : (s.setGroup k x).groups = tabPut s.groups k x := rfl
@[simp] theorem State.group_setGroup (s : State) (k : Nat) (x : Group) : (s.setGroup k x).group k = x := tabGet_tabPut_self _ _ _ _
theorem State.group_setGroup_ne (s : State) {k j : Nat} (x : Group) (h : j ≠ k) : (s.setGroup k x).group j = s.group j :=
  tabGet_tabPut_ne _ _ _ h
@[simp] theorem State.team_setGroup (s : State) (k j : Nat) (x : Group) : (s.setGroup k x).team j = s.team j := rfl
@[simp] theorem State.kernel_setGroup (s : State) (k j : Nat) (x : Group) : (s.setGroup k x).kernel j = s.kernel j := rfl
@[simp] theorem State.owner_setGroup (s : State) (k j : Nat) (x : Group) : (s.setGroup k x).owner j = s.owner j := rfl
@[simp] theorem State.queue_setGroup (s : State) (k j : Nat) (x : Group) : (s.setGroup k x).queue j = s.queue j := rfl
@[simp] theorem State.die_setGroup (s : State) (k j : Nat) (x : Group) : (s.setGroup k x).die j = s.die j := rfl

/-! ## setTeam -/
@[simp] theorem State.setTeam_agenda (s : State) (k : Nat) (x : Team) : (s.setTeam k x).agenda = s.agenda := rfl
@[simp] theorem State.setTeam_steps (s : State) (k : Nat) (x : Team) : (s.setTeam k x).steps = s.steps := rfl
@[simp] theorem State.setTeam_freeIdx (s : State) (k : Nat) (x : Team) : (s.setTeam k x).freeIdx = s.freeIdx := rfl
@[simp] theorem State.setTeam_nextId (s : State) (k : Nat) (x : Team) : (s.setTeam k x).nextId = s.nextId := rfl
@[simp] theorem State.setTeam_cur (s : State) (k : Nat) (x : Team) : (s.setTeam k x).cur = s.cur := rfl
@[simp] theorem State.setTeam_slot (s : State) (k : Nat) (x : Team) : (s.setTeam k x).slot = s.slot := rfl
@[simp] theorem State.setTeam_evs (s : State) (k : Nat) (x : Team) : (s.setTeam k x).evs = s.evs := rfl
@[simp] theorem State.setTeam_cycle (s : State) (k : Nat) (x : Team) : (s.setTeam k x).cycle = s.cycle := rfl
@[simp] theorem State.setTeam_window (s : State) (k : Nat) (x : Team) : (s.setTeam k x).window = s.window := rfl
@[simp] theorem State.setTeam_clockMHz (s : State) (k : Nat) (x : Team) : (s.setTeam k x).clockMHz = s.clockMHz := rfl
@[simp] theorem State.setTeam_capped (s : State) (k : Nat) (x : Team) : (s.setTeam k x).capped = s.capped := rfl
@[simp] theorem State.setTeam_mem (s : State) (k : Nat) (x : Team) : (s.setTeam k x).mem = s.mem := rfl
@[simp] theorem State.setTeam_badCopies (s : State) (k : Nat) (x : Team) : (s.setTeam k x).badCopies = s.badCopies := rfl
@[simp] theorem State.setTeam_remote (s : State) (k : Nat) (x : Team) : (s.setTeam k x).remote = s.remote := rfl
@[simp] theorem State.setTeam_completions (s : State) (k : Nat) (x : Team) : (s.setTeam k x).completions = s.completions := rfl
@[simp] theorem State.setTeam_hostMem (s : State) (k : Nat) (x : Team) : (s.setTeam k x).hostMem = s.hostMem := rfl
@[simp] theorem State.setTeam_hostLines (s : State) (k : Nat) (x : Team) : (s.setTeam k x).hostLines = s.hostLines := rfl
@[simp] theorem State.setTeam_hostData (s : State) (k : Nat) (x : Team) : (s.setTeam k x).hostData = s.hostData := rfl
@[simp] theorem State.setTeam_finalised (s : State) (k : Nat) (x : Team) : (s.setTeam k x).finalised = s.finalised := rfl
@[simp] theorem State.setTeam_strap (s : State) (k : Nat) (x : Team) : (s.setTeam k x).strap = s.strap := rfl
@[simp] theorem State.setTeam_mframes (s : State) (k : Nat) (x : Team) : (s.setTeam k x).mframes = s.mframes := rfl
@[simp] theorem State.setTeam_moves (s : State) (k : Nat) (x : Team) : (s.setTeam k x).moves = s.moves := rfl
@[simp] theorem State.setTeam_tlb (s : State) (k : Nat) (x : Team) : (s.setTeam k x).tlb = s.tlb := rfl
@[simp] theorem State.setTeam_flight (s : State) (k : Nat) (x : Team) : (s.setTeam k x).flight = s.flight := rfl
@[simp] theorem State.setTeam_walkers (s : State) (k : Nat) (x : Team) : (s.setTeam k x).walkers = s.walkers := rfl
@[simp] theorem State.setTeam_exports (s : State) (k : Nat) (x : Team) : (s.setTeam k x).exports = s.exports := rfl
@[simp] theorem State.setTeam_fabricOut (s : State) (k : Nat) (x : Team) : (s.setTeam k x).fabricOut = s.fabricOut := rfl
@[simp] theorem State.setTeam_outbox (s : State) (k : Nat) (x : Team) : (s.setTeam k x).outbox = s.outbox := rfl
@[simp] theorem State.setTeam_collOut (s : State) (k : Nat) (x : Team) : (s.setTeam k x).collOut = s.collOut := rfl
@[simp] theorem State.setTeam_interrupts (s : State) (k : Nat) (x : Team) : (s.setTeam k x).interrupts = s.interrupts := rfl
@[simp] theorem State.setTeam_plugs (s : State) (k : Nat) (x : Team) : (s.setTeam k x).plugs = s.plugs := rfl
@[simp] theorem State.setTeam_requests (s : State) (k : Nat) (x : Team) : (s.setTeam k x).requests = s.requests := rfl
@[simp] theorem State.setTeam_routes (s : State) (k : Nat) (x : Team) : (s.setTeam k x).routes = s.routes := rfl
@[simp] theorem State.setTeam_device (s : State) (k : Nat) (x : Team) : (s.setTeam k x).device = s.device := rfl
@[simp] theorem State.setTeam_owners (s : State) (k : Nat) (x : Team) : (s.setTeam k x).owners = s.owners := rfl
@[simp] theorem State.setTeam_queues (s : State) (k : Nat) (x : Team) : (s.setTeam k x).queues = s.queues := rfl
@[simp] theorem State.setTeam_taken (s : State) (k : Nat) (x : Team) : (s.setTeam k x).taken = s.taken := rfl
@[simp] theorem State.setTeam_kernels (s : State) (k : Nat) (x : Team) : (s.setTeam k x).kernels = s.kernels := rfl
@[simp] theorem State.setTeam_groups (s : State) (k : Nat) (x : Team) : (s.setTeam k x).groups = s.groups := rfl
@[simp] theorem State.setTeam_waits (s : State) (k : Nat) (x : Team) : (s.setTeam k x).waits = s.waits := rfl
@[simp] theorem State.setTeam_copies (s : State) (k : Nat) (x : Team) : (s.setTeam k x).copies = s.copies := rfl
@[simp] theorem State.setTeam_colls (s : State) (k : Nat) (x : Team) : (s.setTeam k x).colls = s.colls := rfl
@[simp] theorem State.setTeam_matrix (s : State) (k : Nat) (x : Team) : (s.setTeam k x).matrix = s.matrix := rfl
@[simp] theorem State.setTeam_mirrors (s : State) (k : Nat) (x : Team) : (s.setTeam k x).mirrors = s.mirrors := rfl
@[simp] theorem State.setTeam_pushes (s : State) (k : Nat) (x : Team) : (s.setTeam k x).pushes = s.pushes := rfl
@[simp] theorem State.setTeam_walks (s : State) (k : Nat) (x : Team) : (s.setTeam k x).walks = s.walks := rfl
@[simp] theorem State.setTeam_parks (s : State) (k : Nat) (x : Team) : (s.setTeam k x).parks = s.parks := rfl
@[simp] theorem State.setTeam_transfers (s : State) (k : Nat) (x : Team) : (s.setTeam k x).transfers = s.transfers := rfl
@[simp] theorem State.setTeam_pchanges (s : State) (k : Nat) (x : Team) : (s.setTeam k x).pchanges = s.pchanges := rfl
@[simp] theorem State.setTeam_dieRegs (s : State) (k : Nat) (x : Team) : (s.setTeam k x).dieRegs = s.dieRegs := rfl
@[simp] theorem State.setTeam_teams (s : State) (k : Nat) (x : Team) : (s.setTeam k x).teams = tabPut s.teams k x := rfl
@[simp] theorem State.team_setTeam (s : State) (k : Nat) (x : Team) : (s.setTeam k x).team k = x := tabGet_tabPut_self _ _ _ _
theorem State.team_setTeam_ne (s : State) {k j : Nat} (x : Team) (h : j ≠ k) : (s.setTeam k x).team j = s.team j :=
  tabGet_tabPut_ne _ _ _ h
@[simp] theorem State.group_setTeam (s : State) (k j : Nat) (x : Team) : (s.setTeam k x).group j = s.group j := rfl
@[simp] theorem State.kernel_setTeam (s : State) (k j : Nat) (x : Team) : (s.setTeam k x).kernel j = s.kernel j := rfl
@[simp] theorem State.owner_setTeam (s : State) (k j : Nat) (x : Team) : (s.setTeam k x).owner j = s.owner j := rfl
@[simp] theorem State.queue_setTeam (s : State) (k j : Nat) (x : Team) : (s.setTeam k x).queue j = s.queue j := rfl
@[simp] theorem State.die_setTeam (s : State) (k j : Nat) (x : Team) : (s.setTeam k x).die j = s.die j := rfl

/-! ## setKernel -/
@[simp] theorem State.setKernel_agenda (s : State) (k : Nat) (x : Kernel) : (s.setKernel k x).agenda = s.agenda := rfl
@[simp] theorem State.setKernel_steps (s : State) (k : Nat) (x : Kernel) : (s.setKernel k x).steps = s.steps := rfl
@[simp] theorem State.setKernel_freeIdx (s : State) (k : Nat) (x : Kernel) : (s.setKernel k x).freeIdx = s.freeIdx := rfl
@[simp] theorem State.setKernel_nextId (s : State) (k : Nat) (x : Kernel) : (s.setKernel k x).nextId = s.nextId := rfl
@[simp] theorem State.setKernel_cur (s : State) (k : Nat) (x : Kernel) : (s.setKernel k x).cur = s.cur := rfl
@[simp] theorem State.setKernel_slot (s : State) (k : Nat) (x : Kernel) : (s.setKernel k x).slot = s.slot := rfl
@[simp] theorem State.setKernel_evs (s : State) (k : Nat) (x : Kernel) : (s.setKernel k x).evs = s.evs := rfl
@[simp] theorem State.setKernel_cycle (s : State) (k : Nat) (x : Kernel) : (s.setKernel k x).cycle = s.cycle := rfl
@[simp] theorem State.setKernel_window (s : State) (k : Nat) (x : Kernel) : (s.setKernel k x).window = s.window := rfl
@[simp] theorem State.setKernel_clockMHz (s : State) (k : Nat) (x : Kernel) : (s.setKernel k x).clockMHz = s.clockMHz := rfl
@[simp] theorem State.setKernel_capped (s : State) (k : Nat) (x : Kernel) : (s.setKernel k x).capped = s.capped := rfl
@[simp] theorem State.setKernel_mem (s : State) (k : Nat) (x : Kernel) : (s.setKernel k x).mem = s.mem := rfl
@[simp] theorem State.setKernel_badCopies (s : State) (k : Nat) (x : Kernel) : (s.setKernel k x).badCopies = s.badCopies := rfl
@[simp] theorem State.setKernel_remote (s : State) (k : Nat) (x : Kernel) : (s.setKernel k x).remote = s.remote := rfl
@[simp] theorem State.setKernel_completions (s : State) (k : Nat) (x : Kernel) : (s.setKernel k x).completions = s.completions := rfl
@[simp] theorem State.setKernel_hostMem (s : State) (k : Nat) (x : Kernel) : (s.setKernel k x).hostMem = s.hostMem := rfl
@[simp] theorem State.setKernel_hostLines (s : State) (k : Nat) (x : Kernel) : (s.setKernel k x).hostLines = s.hostLines := rfl
@[simp] theorem State.setKernel_hostData (s : State) (k : Nat) (x : Kernel) : (s.setKernel k x).hostData = s.hostData := rfl
@[simp] theorem State.setKernel_finalised (s : State) (k : Nat) (x : Kernel) : (s.setKernel k x).finalised = s.finalised := rfl
@[simp] theorem State.setKernel_strap (s : State) (k : Nat) (x : Kernel) : (s.setKernel k x).strap = s.strap := rfl
@[simp] theorem State.setKernel_mframes (s : State) (k : Nat) (x : Kernel) : (s.setKernel k x).mframes = s.mframes := rfl
@[simp] theorem State.setKernel_moves (s : State) (k : Nat) (x : Kernel) : (s.setKernel k x).moves = s.moves := rfl
@[simp] theorem State.setKernel_tlb (s : State) (k : Nat) (x : Kernel) : (s.setKernel k x).tlb = s.tlb := rfl
@[simp] theorem State.setKernel_flight (s : State) (k : Nat) (x : Kernel) : (s.setKernel k x).flight = s.flight := rfl
@[simp] theorem State.setKernel_walkers (s : State) (k : Nat) (x : Kernel) : (s.setKernel k x).walkers = s.walkers := rfl
@[simp] theorem State.setKernel_exports (s : State) (k : Nat) (x : Kernel) : (s.setKernel k x).exports = s.exports := rfl
@[simp] theorem State.setKernel_fabricOut (s : State) (k : Nat) (x : Kernel) : (s.setKernel k x).fabricOut = s.fabricOut := rfl
@[simp] theorem State.setKernel_outbox (s : State) (k : Nat) (x : Kernel) : (s.setKernel k x).outbox = s.outbox := rfl
@[simp] theorem State.setKernel_collOut (s : State) (k : Nat) (x : Kernel) : (s.setKernel k x).collOut = s.collOut := rfl
@[simp] theorem State.setKernel_interrupts (s : State) (k : Nat) (x : Kernel) : (s.setKernel k x).interrupts = s.interrupts := rfl
@[simp] theorem State.setKernel_plugs (s : State) (k : Nat) (x : Kernel) : (s.setKernel k x).plugs = s.plugs := rfl
@[simp] theorem State.setKernel_requests (s : State) (k : Nat) (x : Kernel) : (s.setKernel k x).requests = s.requests := rfl
@[simp] theorem State.setKernel_routes (s : State) (k : Nat) (x : Kernel) : (s.setKernel k x).routes = s.routes := rfl
@[simp] theorem State.setKernel_device (s : State) (k : Nat) (x : Kernel) : (s.setKernel k x).device = s.device := rfl
@[simp] theorem State.setKernel_owners (s : State) (k : Nat) (x : Kernel) : (s.setKernel k x).owners = s.owners := rfl
@[simp] theorem State.setKernel_queues (s : State) (k : Nat) (x : Kernel) : (s.setKernel k x).queues = s.queues := rfl
@[simp] theorem State.setKernel_taken (s : State) (k : Nat) (x : Kernel) : (s.setKernel k x).taken = s.taken := rfl
@[simp] theorem State.setKernel_teams (s : State) (k : Nat) (x : Kernel) : (s.setKernel k x).teams = s.teams := rfl
@[simp] theorem State.setKernel_groups (s : State) (k : Nat) (x : Kernel) : (s.setKernel k x).groups = s.groups := rfl
@[simp] theorem State.setKernel_waits (s : State) (k : Nat) (x : Kernel) : (s.setKernel k x).waits = s.waits := rfl
@[simp] theorem State.setKernel_copies (s : State) (k : Nat) (x : Kernel) : (s.setKernel k x).copies = s.copies := rfl
@[simp] theorem State.setKernel_colls (s : State) (k : Nat) (x : Kernel) : (s.setKernel k x).colls = s.colls := rfl
@[simp] theorem State.setKernel_matrix (s : State) (k : Nat) (x : Kernel) : (s.setKernel k x).matrix = s.matrix := rfl
@[simp] theorem State.setKernel_mirrors (s : State) (k : Nat) (x : Kernel) : (s.setKernel k x).mirrors = s.mirrors := rfl
@[simp] theorem State.setKernel_pushes (s : State) (k : Nat) (x : Kernel) : (s.setKernel k x).pushes = s.pushes := rfl
@[simp] theorem State.setKernel_walks (s : State) (k : Nat) (x : Kernel) : (s.setKernel k x).walks = s.walks := rfl
@[simp] theorem State.setKernel_parks (s : State) (k : Nat) (x : Kernel) : (s.setKernel k x).parks = s.parks := rfl
@[simp] theorem State.setKernel_transfers (s : State) (k : Nat) (x : Kernel) : (s.setKernel k x).transfers = s.transfers := rfl
@[simp] theorem State.setKernel_pchanges (s : State) (k : Nat) (x : Kernel) : (s.setKernel k x).pchanges = s.pchanges := rfl
@[simp] theorem State.setKernel_dieRegs (s : State) (k : Nat) (x : Kernel) : (s.setKernel k x).dieRegs = s.dieRegs := rfl
@[simp] theorem State.setKernel_kernels (s : State) (k : Nat) (x : Kernel) : (s.setKernel k x).kernels = tabPut s.kernels k x := rfl
@[simp] theorem State.kernel_setKernel (s : State) (k : Nat) (x : Kernel) : (s.setKernel k x).kernel k = x := tabGet_tabPut_self _ _ _ _
theorem State.kernel_setKernel_ne (s : State) {k j : Nat} (x : Kernel) (h : j ≠ k) : (s.setKernel k x).kernel j = s.kernel j :=
  tabGet_tabPut_ne _ _ _ h
@[simp] theorem State.group_setKernel (s : State) (k j : Nat) (x : Kernel) : (s.setKernel k x).group j = s.group j := rfl
@[simp] theorem State.team_setKernel (s : State) (k j : Nat) (x : Kernel) : (s.setKernel k x).team j = s.team j := rfl
@[simp] theorem State.owner_setKernel (s : State) (k j : Nat) (x : Kernel) : (s.setKernel k x).owner j = s.owner j := rfl
@[simp] theorem State.queue_setKernel (s : State) (k j : Nat) (x : Kernel) : (s.setKernel k x).queue j = s.queue j := rfl
@[simp] theorem State.die_setKernel (s : State) (k j : Nat) (x : Kernel) : (s.setKernel k x).die j = s.die j := rfl

/-! ## setOwner -/
@[simp] theorem State.setOwner_agenda (s : State) (k : Nat) (x : Owner) : (s.setOwner k x).agenda = s.agenda := rfl
@[simp] theorem State.setOwner_steps (s : State) (k : Nat) (x : Owner) : (s.setOwner k x).steps = s.steps := rfl
@[simp] theorem State.setOwner_freeIdx (s : State) (k : Nat) (x : Owner) : (s.setOwner k x).freeIdx = s.freeIdx := rfl
@[simp] theorem State.setOwner_nextId (s : State) (k : Nat) (x : Owner) : (s.setOwner k x).nextId = s.nextId := rfl
@[simp] theorem State.setOwner_cur (s : State) (k : Nat) (x : Owner) : (s.setOwner k x).cur = s.cur := rfl
@[simp] theorem State.setOwner_slot (s : State) (k : Nat) (x : Owner) : (s.setOwner k x).slot = s.slot := rfl
@[simp] theorem State.setOwner_evs (s : State) (k : Nat) (x : Owner) : (s.setOwner k x).evs = s.evs := rfl
@[simp] theorem State.setOwner_cycle (s : State) (k : Nat) (x : Owner) : (s.setOwner k x).cycle = s.cycle := rfl
@[simp] theorem State.setOwner_window (s : State) (k : Nat) (x : Owner) : (s.setOwner k x).window = s.window := rfl
@[simp] theorem State.setOwner_clockMHz (s : State) (k : Nat) (x : Owner) : (s.setOwner k x).clockMHz = s.clockMHz := rfl
@[simp] theorem State.setOwner_capped (s : State) (k : Nat) (x : Owner) : (s.setOwner k x).capped = s.capped := rfl
@[simp] theorem State.setOwner_mem (s : State) (k : Nat) (x : Owner) : (s.setOwner k x).mem = s.mem := rfl
@[simp] theorem State.setOwner_badCopies (s : State) (k : Nat) (x : Owner) : (s.setOwner k x).badCopies = s.badCopies := rfl
@[simp] theorem State.setOwner_remote (s : State) (k : Nat) (x : Owner) : (s.setOwner k x).remote = s.remote := rfl
@[simp] theorem State.setOwner_completions (s : State) (k : Nat) (x : Owner) : (s.setOwner k x).completions = s.completions := rfl
@[simp] theorem State.setOwner_hostMem (s : State) (k : Nat) (x : Owner) : (s.setOwner k x).hostMem = s.hostMem := rfl
@[simp] theorem State.setOwner_hostLines (s : State) (k : Nat) (x : Owner) : (s.setOwner k x).hostLines = s.hostLines := rfl
@[simp] theorem State.setOwner_hostData (s : State) (k : Nat) (x : Owner) : (s.setOwner k x).hostData = s.hostData := rfl
@[simp] theorem State.setOwner_finalised (s : State) (k : Nat) (x : Owner) : (s.setOwner k x).finalised = s.finalised := rfl
@[simp] theorem State.setOwner_strap (s : State) (k : Nat) (x : Owner) : (s.setOwner k x).strap = s.strap := rfl
@[simp] theorem State.setOwner_mframes (s : State) (k : Nat) (x : Owner) : (s.setOwner k x).mframes = s.mframes := rfl
@[simp] theorem State.setOwner_moves (s : State) (k : Nat) (x : Owner) : (s.setOwner k x).moves = s.moves := rfl
@[simp] theorem State.setOwner_tlb (s : State) (k : Nat) (x : Owner) : (s.setOwner k x).tlb = s.tlb := rfl
@[simp] theorem State.setOwner_flight (s : State) (k : Nat) (x : Owner) : (s.setOwner k x).flight = s.flight := rfl
@[simp] theorem State.setOwner_walkers (s : State) (k : Nat) (x : Owner) : (s.setOwner k x).walkers = s.walkers := rfl
@[simp] theorem State.setOwner_exports (s : State) (k : Nat) (x : Owner) : (s.setOwner k x).exports = s.exports := rfl
@[simp] theorem State.setOwner_fabricOut (s : State) (k : Nat) (x : Owner) : (s.setOwner k x).fabricOut = s.fabricOut := rfl
@[simp] theorem State.setOwner_outbox (s : State) (k : Nat) (x : Owner) : (s.setOwner k x).outbox = s.outbox := rfl
@[simp] theorem State.setOwner_collOut (s : State) (k : Nat) (x : Owner) : (s.setOwner k x).collOut = s.collOut := rfl
@[simp] theorem State.setOwner_interrupts (s : State) (k : Nat) (x : Owner) : (s.setOwner k x).interrupts = s.interrupts := rfl
@[simp] theorem State.setOwner_plugs (s : State) (k : Nat) (x : Owner) : (s.setOwner k x).plugs = s.plugs := rfl
@[simp] theorem State.setOwner_requests (s : State) (k : Nat) (x : Owner) : (s.setOwner k x).requests = s.requests := rfl
@[simp] theorem State.setOwner_routes (s : State) (k : Nat) (x : Owner) : (s.setOwner k x).routes = s.routes := rfl
@[simp] theorem State.setOwner_device (s : State) (k : Nat) (x : Owner) : (s.setOwner k x).device = s.device := rfl
@[simp] theorem State.setOwner_queues (s : State) (k : Nat) (x : Owner) : (s.setOwner k x).queues = s.queues := rfl
@[simp] theorem State.setOwner_taken (s : State) (k : Nat) (x : Owner) : (s.setOwner k x).taken = s.taken := rfl
@[simp] theorem State.setOwner_kernels (s : State) (k : Nat) (x : Owner) : (s.setOwner k x).kernels = s.kernels := rfl
@[simp] theorem State.setOwner_teams (s : State) (k : Nat) (x : Owner) : (s.setOwner k x).teams = s.teams := rfl
@[simp] theorem State.setOwner_groups (s : State) (k : Nat) (x : Owner) : (s.setOwner k x).groups = s.groups := rfl
@[simp] theorem State.setOwner_waits (s : State) (k : Nat) (x : Owner) : (s.setOwner k x).waits = s.waits := rfl
@[simp] theorem State.setOwner_copies (s : State) (k : Nat) (x : Owner) : (s.setOwner k x).copies = s.copies := rfl
@[simp] theorem State.setOwner_colls (s : State) (k : Nat) (x : Owner) : (s.setOwner k x).colls = s.colls := rfl
@[simp] theorem State.setOwner_matrix (s : State) (k : Nat) (x : Owner) : (s.setOwner k x).matrix = s.matrix := rfl
@[simp] theorem State.setOwner_mirrors (s : State) (k : Nat) (x : Owner) : (s.setOwner k x).mirrors = s.mirrors := rfl
@[simp] theorem State.setOwner_pushes (s : State) (k : Nat) (x : Owner) : (s.setOwner k x).pushes = s.pushes := rfl
@[simp] theorem State.setOwner_walks (s : State) (k : Nat) (x : Owner) : (s.setOwner k x).walks = s.walks := rfl
@[simp] theorem State.setOwner_parks (s : State) (k : Nat) (x : Owner) : (s.setOwner k x).parks = s.parks := rfl
@[simp] theorem State.setOwner_transfers (s : State) (k : Nat) (x : Owner) : (s.setOwner k x).transfers = s.transfers := rfl
@[simp] theorem State.setOwner_pchanges (s : State) (k : Nat) (x : Owner) : (s.setOwner k x).pchanges = s.pchanges := rfl
@[simp] theorem State.setOwner_dieRegs (s : State) (k : Nat) (x : Owner) : (s.setOwner k x).dieRegs = s.dieRegs := rfl
@[simp] theorem State.setOwner_owners (s : State) (k : Nat) (x : Owner) : (s.setOwner k x).owners = tabPut s.owners k x := rfl
@[simp] theorem State.owner_setOwner (s : State) (k : Nat) (x : Owner) : (s.setOwner k x).owner k = x := tabGet_tabPut_self _ _ _ _
theorem State.owner_setOwner_ne (s : State) {k j : Nat} (x : Owner) (h : j ≠ k) : (s.setOwner k x).owner j = s.owner j :=
  tabGet_tabPut_ne _ _ _ h
@[simp] theorem State.group_setOwner (s : State) (k j : Nat) (x : Owner) : (s.setOwner k x).group j = s.group j := rfl
@[simp] theorem State.team_setOwner (s : State) (k j : Nat) (x : Owner) : (s.setOwner k x).team j = s.team j := rfl
@[simp] theorem State.kernel_setOwner (s : State) (k j : Nat) (x : Owner) : (s.setOwner k x).kernel j = s.kernel j := rfl
@[simp] theorem State.queue_setOwner (s : State) (k j : Nat) (x : Owner) : (s.setOwner k x).queue j = s.queue j := rfl
@[simp] theorem State.die_setOwner (s : State) (k j : Nat) (x : Owner) : (s.setOwner k x).die j = s.die j := rfl

/-! ## setQueue -/
@[simp] theorem State.setQueue_agenda (s : State) (k : Nat) (x : Queue) : (s.setQueue k x).agenda = s.agenda := rfl
@[simp] theorem State.setQueue_steps (s : State) (k : Nat) (x : Queue) : (s.setQueue k x).steps = s.steps := rfl
@[simp] theorem State.setQueue_freeIdx (s : State) (k : Nat) (x : Queue) : (s.setQueue k x).freeIdx = s.freeIdx := rfl
@[simp] theorem State.setQueue_nextId (s : State) (k : Nat) (x : Queue) : (s.setQueue k x).nextId = s.nextId := rfl
@[simp] theorem State.setQueue_cur (s : State) (k : Nat) (x : Queue) : (s.setQueue k x).cur = s.cur := rfl
@[simp] theorem State.setQueue_slot (s : State) (k : Nat) (x : Queue) : (s.setQueue k x).slot = s.slot := rfl
@[simp] theorem State.setQueue_evs (s : State) (k : Nat) (x : Queue) : (s.setQueue k x).evs = s.evs := rfl
@[simp] theorem State.setQueue_cycle (s : State) (k : Nat) (x : Queue) : (s.setQueue k x).cycle = s.cycle := rfl
@[simp] theorem State.setQueue_window (s : State) (k : Nat) (x : Queue) : (s.setQueue k x).window = s.window := rfl
@[simp] theorem State.setQueue_clockMHz (s : State) (k : Nat) (x : Queue) : (s.setQueue k x).clockMHz = s.clockMHz := rfl
@[simp] theorem State.setQueue_capped (s : State) (k : Nat) (x : Queue) : (s.setQueue k x).capped = s.capped := rfl
@[simp] theorem State.setQueue_mem (s : State) (k : Nat) (x : Queue) : (s.setQueue k x).mem = s.mem := rfl
@[simp] theorem State.setQueue_badCopies (s : State) (k : Nat) (x : Queue) : (s.setQueue k x).badCopies = s.badCopies := rfl
@[simp] theorem State.setQueue_remote (s : State) (k : Nat) (x : Queue) : (s.setQueue k x).remote = s.remote := rfl
@[simp] theorem State.setQueue_completions (s : State) (k : Nat) (x : Queue) : (s.setQueue k x).completions = s.completions := rfl
@[simp] theorem State.setQueue_hostMem (s : State) (k : Nat) (x : Queue) : (s.setQueue k x).hostMem = s.hostMem := rfl
@[simp] theorem State.setQueue_hostLines (s : State) (k : Nat) (x : Queue) : (s.setQueue k x).hostLines = s.hostLines := rfl
@[simp] theorem State.setQueue_hostData (s : State) (k : Nat) (x : Queue) : (s.setQueue k x).hostData = s.hostData := rfl
@[simp] theorem State.setQueue_finalised (s : State) (k : Nat) (x : Queue) : (s.setQueue k x).finalised = s.finalised := rfl
@[simp] theorem State.setQueue_strap (s : State) (k : Nat) (x : Queue) : (s.setQueue k x).strap = s.strap := rfl
@[simp] theorem State.setQueue_mframes (s : State) (k : Nat) (x : Queue) : (s.setQueue k x).mframes = s.mframes := rfl
@[simp] theorem State.setQueue_moves (s : State) (k : Nat) (x : Queue) : (s.setQueue k x).moves = s.moves := rfl
@[simp] theorem State.setQueue_tlb (s : State) (k : Nat) (x : Queue) : (s.setQueue k x).tlb = s.tlb := rfl
@[simp] theorem State.setQueue_flight (s : State) (k : Nat) (x : Queue) : (s.setQueue k x).flight = s.flight := rfl
@[simp] theorem State.setQueue_walkers (s : State) (k : Nat) (x : Queue) : (s.setQueue k x).walkers = s.walkers := rfl
@[simp] theorem State.setQueue_exports (s : State) (k : Nat) (x : Queue) : (s.setQueue k x).exports = s.exports := rfl
@[simp] theorem State.setQueue_fabricOut (s : State) (k : Nat) (x : Queue) : (s.setQueue k x).fabricOut = s.fabricOut := rfl
@[simp] theorem State.setQueue_outbox (s : State) (k : Nat) (x : Queue) : (s.setQueue k x).outbox = s.outbox := rfl
@[simp] theorem State.setQueue_collOut (s : State) (k : Nat) (x : Queue) : (s.setQueue k x).collOut = s.collOut := rfl
@[simp] theorem State.setQueue_interrupts (s : State) (k : Nat) (x : Queue) : (s.setQueue k x).interrupts = s.interrupts := rfl
@[simp] theorem State.setQueue_plugs (s : State) (k : Nat) (x : Queue) : (s.setQueue k x).plugs = s.plugs := rfl
@[simp] theorem State.setQueue_requests (s : State) (k : Nat) (x : Queue) : (s.setQueue k x).requests = s.requests := rfl
@[simp] theorem State.setQueue_routes (s : State) (k : Nat) (x : Queue) : (s.setQueue k x).routes = s.routes := rfl
@[simp] theorem State.setQueue_device (s : State) (k : Nat) (x : Queue) : (s.setQueue k x).device = s.device := rfl
@[simp] theorem State.setQueue_owners (s : State) (k : Nat) (x : Queue) : (s.setQueue k x).owners = s.owners := rfl
@[simp] theorem State.setQueue_taken (s : State) (k : Nat) (x : Queue) : (s.setQueue k x).taken = s.taken := rfl
@[simp] theorem State.setQueue_kernels (s : State) (k : Nat) (x : Queue) : (s.setQueue k x).kernels = s.kernels := rfl
@[simp] theorem State.setQueue_teams (s : State) (k : Nat) (x : Queue) : (s.setQueue k x).teams = s.teams := rfl
@[simp] theorem State.setQueue_groups (s : State) (k : Nat) (x : Queue) : (s.setQueue k x).groups = s.groups := rfl
@[simp] theorem State.setQueue_waits (s : State) (k : Nat) (x : Queue) : (s.setQueue k x).waits = s.waits := rfl
@[simp] theorem State.setQueue_copies (s : State) (k : Nat) (x : Queue) : (s.setQueue k x).copies = s.copies := rfl
@[simp] theorem State.setQueue_colls (s : State) (k : Nat) (x : Queue) : (s.setQueue k x).colls = s.colls := rfl
@[simp] theorem State.setQueue_matrix (s : State) (k : Nat) (x : Queue) : (s.setQueue k x).matrix = s.matrix := rfl
@[simp] theorem State.setQueue_mirrors (s : State) (k : Nat) (x : Queue) : (s.setQueue k x).mirrors = s.mirrors := rfl
@[simp] theorem State.setQueue_pushes (s : State) (k : Nat) (x : Queue) : (s.setQueue k x).pushes = s.pushes := rfl
@[simp] theorem State.setQueue_walks (s : State) (k : Nat) (x : Queue) : (s.setQueue k x).walks = s.walks := rfl
@[simp] theorem State.setQueue_parks (s : State) (k : Nat) (x : Queue) : (s.setQueue k x).parks = s.parks := rfl
@[simp] theorem State.setQueue_transfers (s : State) (k : Nat) (x : Queue) : (s.setQueue k x).transfers = s.transfers := rfl
@[simp] theorem State.setQueue_pchanges (s : State) (k : Nat) (x : Queue) : (s.setQueue k x).pchanges = s.pchanges := rfl
@[simp] theorem State.setQueue_dieRegs (s : State) (k : Nat) (x : Queue) : (s.setQueue k x).dieRegs = s.dieRegs := rfl
@[simp] theorem State.setQueue_queues (s : State) (k : Nat) (x : Queue) : (s.setQueue k x).queues = tabPut s.queues k x := rfl
@[simp] theorem State.queue_setQueue (s : State) (k : Nat) (x : Queue) : (s.setQueue k x).queue k = x := tabGet_tabPut_self _ _ _ _
theorem State.queue_setQueue_ne (s : State) {k j : Nat} (x : Queue) (h : j ≠ k) : (s.setQueue k x).queue j = s.queue j :=
  tabGet_tabPut_ne _ _ _ h
@[simp] theorem State.group_setQueue (s : State) (k j : Nat) (x : Queue) : (s.setQueue k x).group j = s.group j := rfl
@[simp] theorem State.team_setQueue (s : State) (k j : Nat) (x : Queue) : (s.setQueue k x).team j = s.team j := rfl
@[simp] theorem State.kernel_setQueue (s : State) (k j : Nat) (x : Queue) : (s.setQueue k x).kernel j = s.kernel j := rfl
@[simp] theorem State.owner_setQueue (s : State) (k j : Nat) (x : Queue) : (s.setQueue k x).owner j = s.owner j := rfl
@[simp] theorem State.die_setQueue (s : State) (k j : Nat) (x : Queue) : (s.setQueue k x).die j = s.die j := rfl

/-! ## setDie -/
@[simp] theorem State.setDie_agenda (s : State) (k : Nat) (x : Die) : (s.setDie k x).agenda = s.agenda := rfl
@[simp] theorem State.setDie_steps (s : State) (k : Nat) (x : Die) : (s.setDie k x).steps = s.steps := rfl
@[simp] theorem State.setDie_freeIdx (s : State) (k : Nat) (x : Die) : (s.setDie k x).freeIdx = s.freeIdx := rfl
@[simp] theorem State.setDie_nextId (s : State) (k : Nat) (x : Die) : (s.setDie k x).nextId = s.nextId := rfl
@[simp] theorem State.setDie_cur (s : State) (k : Nat) (x : Die) : (s.setDie k x).cur = s.cur := rfl
@[simp] theorem State.setDie_slot (s : State) (k : Nat) (x : Die) : (s.setDie k x).slot = s.slot := rfl
@[simp] theorem State.setDie_evs (s : State) (k : Nat) (x : Die) : (s.setDie k x).evs = s.evs := rfl
@[simp] theorem State.setDie_cycle (s : State) (k : Nat) (x : Die) : (s.setDie k x).cycle = s.cycle := rfl
@[simp] theorem State.setDie_window (s : State) (k : Nat) (x : Die) : (s.setDie k x).window = s.window := rfl
@[simp] theorem State.setDie_clockMHz (s : State) (k : Nat) (x : Die) : (s.setDie k x).clockMHz = s.clockMHz := rfl
@[simp] theorem State.setDie_capped (s : State) (k : Nat) (x : Die) : (s.setDie k x).capped = s.capped := rfl
@[simp] theorem State.setDie_mem (s : State) (k : Nat) (x : Die) : (s.setDie k x).mem = s.mem := rfl
@[simp] theorem State.setDie_badCopies (s : State) (k : Nat) (x : Die) : (s.setDie k x).badCopies = s.badCopies := rfl
@[simp] theorem State.setDie_remote (s : State) (k : Nat) (x : Die) : (s.setDie k x).remote = s.remote := rfl
@[simp] theorem State.setDie_completions (s : State) (k : Nat) (x : Die) : (s.setDie k x).completions = s.completions := rfl
@[simp] theorem State.setDie_hostMem (s : State) (k : Nat) (x : Die) : (s.setDie k x).hostMem = s.hostMem := rfl
@[simp] theorem State.setDie_hostLines (s : State) (k : Nat) (x : Die) : (s.setDie k x).hostLines = s.hostLines := rfl
@[simp] theorem State.setDie_hostData (s : State) (k : Nat) (x : Die) : (s.setDie k x).hostData = s.hostData := rfl
@[simp] theorem State.setDie_finalised (s : State) (k : Nat) (x : Die) : (s.setDie k x).finalised = s.finalised := rfl
@[simp] theorem State.setDie_strap (s : State) (k : Nat) (x : Die) : (s.setDie k x).strap = s.strap := rfl
@[simp] theorem State.setDie_mframes (s : State) (k : Nat) (x : Die) : (s.setDie k x).mframes = s.mframes := rfl
@[simp] theorem State.setDie_moves (s : State) (k : Nat) (x : Die) : (s.setDie k x).moves = s.moves := rfl
@[simp] theorem State.setDie_tlb (s : State) (k : Nat) (x : Die) : (s.setDie k x).tlb = s.tlb := rfl
@[simp] theorem State.setDie_flight (s : State) (k : Nat) (x : Die) : (s.setDie k x).flight = s.flight := rfl
@[simp] theorem State.setDie_walkers (s : State) (k : Nat) (x : Die) : (s.setDie k x).walkers = s.walkers := rfl
@[simp] theorem State.setDie_exports (s : State) (k : Nat) (x : Die) : (s.setDie k x).exports = s.exports := rfl
@[simp] theorem State.setDie_fabricOut (s : State) (k : Nat) (x : Die) : (s.setDie k x).fabricOut = s.fabricOut := rfl
@[simp] theorem State.setDie_outbox (s : State) (k : Nat) (x : Die) : (s.setDie k x).outbox = s.outbox := rfl
@[simp] theorem State.setDie_collOut (s : State) (k : Nat) (x : Die) : (s.setDie k x).collOut = s.collOut := rfl
@[simp] theorem State.setDie_interrupts (s : State) (k : Nat) (x : Die) : (s.setDie k x).interrupts = s.interrupts := rfl
@[simp] theorem State.setDie_plugs (s : State) (k : Nat) (x : Die) : (s.setDie k x).plugs = s.plugs := rfl
@[simp] theorem State.setDie_requests (s : State) (k : Nat) (x : Die) : (s.setDie k x).requests = s.requests := rfl
@[simp] theorem State.setDie_routes (s : State) (k : Nat) (x : Die) : (s.setDie k x).routes = s.routes := rfl
@[simp] theorem State.setDie_device (s : State) (k : Nat) (x : Die) : (s.setDie k x).device = s.device := rfl
@[simp] theorem State.setDie_owners (s : State) (k : Nat) (x : Die) : (s.setDie k x).owners = s.owners := rfl
@[simp] theorem State.setDie_queues (s : State) (k : Nat) (x : Die) : (s.setDie k x).queues = s.queues := rfl
@[simp] theorem State.setDie_taken (s : State) (k : Nat) (x : Die) : (s.setDie k x).taken = s.taken := rfl
@[simp] theorem State.setDie_kernels (s : State) (k : Nat) (x : Die) : (s.setDie k x).kernels = s.kernels := rfl
@[simp] theorem State.setDie_teams (s : State) (k : Nat) (x : Die) : (s.setDie k x).teams = s.teams := rfl
@[simp] theorem State.setDie_groups (s : State) (k : Nat) (x : Die) : (s.setDie k x).groups = s.groups := rfl
@[simp] theorem State.setDie_waits (s : State) (k : Nat) (x : Die) : (s.setDie k x).waits = s.waits := rfl
@[simp] theorem State.setDie_copies (s : State) (k : Nat) (x : Die) : (s.setDie k x).copies = s.copies := rfl
@[simp] theorem State.setDie_colls (s : State) (k : Nat) (x : Die) : (s.setDie k x).colls = s.colls := rfl
@[simp] theorem State.setDie_matrix (s : State) (k : Nat) (x : Die) : (s.setDie k x).matrix = s.matrix := rfl
@[simp] theorem State.setDie_mirrors (s : State) (k : Nat) (x : Die) : (s.setDie k x).mirrors = s.mirrors := rfl
@[simp] theorem State.setDie_pushes (s : State) (k : Nat) (x : Die) : (s.setDie k x).pushes = s.pushes := rfl
@[simp] theorem State.setDie_walks (s : State) (k : Nat) (x : Die) : (s.setDie k x).walks = s.walks := rfl
@[simp] theorem State.setDie_parks (s : State) (k : Nat) (x : Die) : (s.setDie k x).parks = s.parks := rfl
@[simp] theorem State.setDie_transfers (s : State) (k : Nat) (x : Die) : (s.setDie k x).transfers = s.transfers := rfl
@[simp] theorem State.setDie_pchanges (s : State) (k : Nat) (x : Die) : (s.setDie k x).pchanges = s.pchanges := rfl
@[simp] theorem State.setDie_dieRegs (s : State) (k : Nat) (x : Die) : (s.setDie k x).dieRegs = tabPut s.dieRegs k x := rfl
@[simp] theorem State.die_setDie (s : State) (k : Nat) (x : Die) : (s.setDie k x).die k = x := tabGet_tabPut_self _ _ _ _
theorem State.die_setDie_ne (s : State) {k j : Nat} (x : Die) (h : j ≠ k) : (s.setDie k x).die j = s.die j :=
  tabGet_tabPut_ne _ _ _ h
@[simp] theorem State.group_setDie (s : State) (k j : Nat) (x : Die) : (s.setDie k x).group j = s.group j := rfl
@[simp] theorem State.team_setDie (s : State) (k j : Nat) (x : Die) : (s.setDie k x).team j = s.team j := rfl
@[simp] theorem State.kernel_setDie (s : State) (k j : Nat) (x : Die) : (s.setDie k x).kernel j = s.kernel j := rfl
@[simp] theorem State.owner_setDie (s : State) (k j : Nat) (x : Die) : (s.setDie k x).owner j = s.owner j := rfl
@[simp] theorem State.queue_setDie (s : State) (k j : Nat) (x : Die) : (s.setDie k x).queue j = s.queue j := rfl

/-! ## Updates by a function are updates by a value -/
theorem State.updGroup_eq (s : State) (k : Nat) (f : Group → Group) : s.updGroup k f = s.setGroup k (f (s.group k)) := rfl
@[simp] theorem State.group_updGroup (s : State) (k : Nat) (f : Group → Group) : (s.updGroup k f).group k = f (s.group k) :=
  tabGet_tabPut_self _ _ _ _
theorem State.group_updGroup_ne (s : State) {k j : Nat} (f : Group → Group) (h : j ≠ k) : (s.updGroup k f).group j = s.group j :=
  tabGet_tabPut_ne _ _ _ h
theorem State.updTeam_eq (s : State) (k : Nat) (f : Team → Team) : s.updTeam k f = s.setTeam k (f (s.team k)) := rfl
@[simp] theorem State.team_updTeam (s : State) (k : Nat) (f : Team → Team) : (s.updTeam k f).team k = f (s.team k) :=
  tabGet_tabPut_self _ _ _ _
theorem State.team_updTeam_ne (s : State) {k j : Nat} (f : Team → Team) (h : j ≠ k) : (s.updTeam k f).team j = s.team j :=
  tabGet_tabPut_ne _ _ _ h
theorem State.updOwner_eq (s : State) (k : Nat) (f : Owner → Owner) : s.updOwner k f = s.setOwner k (f (s.owner k)) := rfl
@[simp] theorem State.owner_updOwner (s : State) (k : Nat) (f : Owner → Owner) : (s.updOwner k f).owner k = f (s.owner k) :=
  tabGet_tabPut_self _ _ _ _
theorem State.owner_updOwner_ne (s : State) {k j : Nat} (f : Owner → Owner) (h : j ≠ k) : (s.updOwner k f).owner j = s.owner j :=
  tabGet_tabPut_ne _ _ _ h
theorem State.updDie_eq (s : State) (k : Nat) (f : Die → Die) : s.updDie k f = s.setDie k (f (s.die k)) := rfl
@[simp] theorem State.die_updDie (s : State) (k : Nat) (f : Die → Die) : (s.updDie k f).die k = f (s.die k) :=
  tabGet_tabPut_self _ _ _ _
theorem State.die_updDie_ne (s : State) {k j : Nat} (f : Die → Die) (h : j ≠ k) : (s.updDie k f).die j = s.die j :=
  tabGet_tabPut_ne _ _ _ h
theorem State.updG_eq (s : State) (f : Group → Group) : s.updG f = s.setGroup s.cur (f s.g) := rfl
theorem State.setSr_eq (s : State) (r : SRegs) : s.setSr r = s.setGroup s.cur { s.g with sr := r } := rfl
@[simp] theorem State.g_updG (s : State) (f : Group → Group) : (s.updG f).g = f s.g := tabGet_tabPut_self _ _ _ _
@[simp] theorem State.g_setSr (s : State) (r : SRegs) : (s.setSr r).g = { s.g with sr := r } := tabGet_tabPut_self _ _ _ _
@[simp] theorem State.group_updG_ne (s : State) {j : Nat} (f : Group → Group) (h : j ≠ s.cur) : (s.updG f).group j = s.group j :=
  tabGet_tabPut_ne _ _ _ h

/-! ## Registers -/
@[simp] theorem SRegs.get_zero (r : SRegs) : r.get 0 = 0 := rfl
@[simp] theorem SRegs.bad_zero (r : SRegs) : r.bad 0 = false := rfl
@[simp] theorem SRegs.put_zero (r : SRegs) (v : DWord) (p : Bool) : r.put 0 v p = r := rfl
theorem SRegs.get_put_self (r : SRegs) {n : Nat} (v : DWord) (p : Bool) (h : n ≠ 0) : (r.put n v p).get n = v := by
  simp [SRegs.get, SRegs.put, h]
theorem SRegs.get_put_ne (r : SRegs) {n m : Nat} (v : DWord) (p : Bool) (h : m ≠ n) : (r.put n v p).get m = r.get m := by
  by_cases h0 : n = 0 <;> simp [SRegs.get, SRegs.put, h0, tabGet_tabPut_ne _ _ _ h]
theorem setBit64_self (x : DWord) {n : Nat} (b : Bool) (h : n < 64) : (setBit64 x n b).getLsbD n = b := by
  cases b <;> simp [setBit64, h]
theorem setBit64_ne (x : DWord) {n m : Nat} (b : Bool) (h : m ≠ n) : (setBit64 x n b).getLsbD m = x.getLsbD m := by
  cases b <;> by_cases hm : m < 64 <;> simp [setBit64, hm] <;> by_cases hlt : m < n <;> simp_all <;> omega
theorem SRegs.bad_put_self (r : SRegs) {n : Nat} (v : DWord) (p : Bool) (h : n ≠ 0) (h' : n < 64) : (r.put n v p).bad n = p := by
  simp [SRegs.bad, SRegs.put, h, setBit64_self _ _ h']
theorem SRegs.bad_put_ne (r : SRegs) {n m : Nat} (v : DWord) (p : Bool) (h : m ≠ n) : (r.put n v p).bad m = r.bad m := by
  by_cases h0 : n = 0 <;> simp [SRegs.bad, SRegs.put, h0, setBit64_ne _ _ h]
@[simp] theorem SRegs.flag_put (r : SRegs) (n m : Nat) (v : DWord) (p : Bool) : (r.put n v p).flag m = r.flag m := by
  by_cases h0 : n = 0 <;> simp [SRegs.flag, SRegs.put, h0]
@[simp] theorem SRegs.get_putFlag (r : SRegs) (n m : Nat) (b : Bool) : (r.putFlag n b).get m = r.get m := rfl
@[simp] theorem SRegs.bad_putFlag (r : SRegs) (n m : Nat) (b : Bool) : (r.putFlag n b).bad m = r.bad m := rfl
@[simp] theorem Group.mask_zero (x : Group) : x.mask 0 = -1 := rfl
@[simp] theorem LRegs.pred_zero (r : LRegs) : r.pred 0 = -1 := rfl
@[simp] theorem LRegs.get_put_self (r : LRegs) (n l : Nat) (v : Word) (p : Bool) : (r.put n l v p).get n l = (v, p) :=
  tabGet_tabPut_self _ _ _ _
/-- Lane registers are numbered by register and lane. -/
theorem LRegs.get_put_ne (r : LRegs) {n m l k : Nat} (v : Word) (p : Bool) (hl : l < 32) (hk : k < 32) (h : ¬(m = n ∧ k = l)) :
    (r.put n l v p).get m k = r.get m k := by
  unfold LRegs.get LRegs.put
  exact tabGet_tabPut_ne _ _ _ (by omega)

end Sys2Proof.Machine
end

