-- ==== Sys2Proof/Laws/Memory.lean ====
section
/-! SUPPORT. Words of a store: read after write, the frame of a write, and the canonical form of memory. -/
namespace Sys2Proof.Machine

/-- The code of the zero word depends on the word's number alone. -/
theorem checkCode_word (w : Word) (a : Nat) : checkCode w (a / 4 * 4 % 65536) = checkCode w (a % 65536) := by
  unfold checkCode
  rw [show a / 4 * 4 % 65536 / 4 % 2 ^ 14 = a % 65536 / 4 % 2 ^ 14 by omega]

/-- What the canonical form of a store says. -/
theorem Store.wf_iff (m : Store) : m.wf = true ↔ cellsWf m.cells = true ∧ tabSorted m.codes = true ∧
    (∀ e ∈ m.codes, e.2 ≠ checkCode 0 (e.1 * 4 % 65536)) ∧ tabSorted m.free = true ∧
    (∀ e ∈ m.free, (∀ i, i < 4 → cellGet m.cells (e.1 * 4 + i) = 0) ∧ tabFind m.codes e.1 = none) := by
  simp [Store.wf, and_assoc]
theorem Store.write_wf (m : Store) (a : Nat) (w : Word) (c : Byte) (h : m.wf = true) : (m.write a w c).wf = true := by
  obtain ⟨hc, hs, hv, hf, hz⟩ := (Store.wf_iff m).1 h
  refine (Store.wf_iff _).2 ⟨cellsWrite_wf _ _ _ _ hc, ?_, ?_, tabSorted_tabDel _ _ hf, ?_⟩
  · simp only [Store.write]
    split
    · exact tabSorted_tabDel _ _ hs
    · exact tabSorted_tabPut _ _ _ hs
  · intro e he
    simp only [Store.write] at he
    split at he
    · exact hv e ((mem_tabDel ..).1 he).1
    · next hne =>
      rcases (mem_tabPut ..).1 he with rfl | he
      · rw [checkCode_word]; exact hne
      · exact hv e he.1
  · intro e he
    obtain ⟨he, hne⟩ := (mem_tabDel ..).1 he
    obtain ⟨h0, h1⟩ := hz e he
    refine ⟨fun i hi => ?_, ?_⟩
    · simp only [Store.write]
      rw [cellGet_cellsWrite_out _ _ _ _ _ (by omega)]
      exact h0 i hi
    · simp only [Store.write]
      split
      · rw [tabFind_tabDel_ne _ hne, h1]
      · rw [tabFind_tabPut_ne _ _ hne, h1]
theorem Store.lay_wf (m : Store) (a k : Nat) (h : m.wf = true) : (m.lay a k).wf = true := by
  obtain ⟨hc, hs, hv, hf, hz⟩ := (Store.wf_iff m).1 h
  refine (Store.wf_iff _).2 ⟨cellsWrite_wf _ _ _ _ hc, tabSorted_tabDel _ _ hs, fun e he => hv e ((mem_tabDel ..).1 he).1, tabSorted_tabPut _ _ _ hf, ?_⟩
  intro e he
  rcases (mem_tabPut ..).1 he with rfl | ⟨he, hne⟩
  · refine ⟨fun i hi => ?_, tabFind_tabDel_self _ _⟩
    simp only [Store.lay]
    rw [cellGet_cellsWrite_in _ _ _ _ _ hi]
    simp
  · obtain ⟨h0, h1⟩ := hz e he
    refine ⟨fun i hi => ?_, ?_⟩
    · simp only [Store.lay]
      rw [cellGet_cellsWrite_out _ _ _ _ _ (by omega)]
      exact h0 i hi
    · simp only [Store.lay]
      rw [tabFind_tabDel_ne _ hne, h1]

@[simp] theorem Store.zero_wf : Store.zero.wf = true := rfl

/-- The word written is the word read. -/
theorem Store.read_write (m : Store) (a : Nat) (w : Word) (c : Byte) : (m.write a w c).read a = (w, c) := by
  have hf : tabFind (m.write a w c).free (a / 4) = none := tabFind_tabDel_self _ _
  unfold Store.read
  rw [hf]
  simp only [Store.write]
  refine Prod.ext ?_ ?_
  · simp only [cellsRead_cellsWrite]
    apply BitVec.eq_of_toNat_eq
    have := w.isLt
    simp [BitVec.toNat_ofNat]
    omega
  · simp only
    split
    · next h => rw [tabGet_tabDel_self, h]
    · rw [tabGet_tabPut_self]

/-- A byte outside the written word is as before. -/
theorem Store.byte_write_out (m : Store) (a c : Nat) (w : Word) (x : Byte) (h : c / 4 ≠ a / 4) :
    (m.write a w x).byte c = m.byte c := by
  unfold Store.byte Store.write
  rw [tabFind_tabDel_ne _ h, cellGet_cellsWrite_out _ _ _ _ _ (by omega)]

/-- The bytes of the written word. -/
theorem Store.byte_write_in (m : Store) (a i : Nat) (w : Word) (x : Byte) (h : i < 4) :
    (m.write a w x).byte (a / 4 * 4 + i) = BitVec.ofNat 8 (w.toNat / 256 ^ i) := by
  unfold Store.byte Store.write
  rw [show (a / 4 * 4 + i) / 4 = a / 4 by omega, tabFind_tabDel_self]
  exact cellGet_cellsWrite_in _ _ _ _ _ h

theorem Store.loseFrom_wf (m : Store) (a k n : Nat) (h : m.wf = true) : (m.loseFrom a k n).wf = true := by
  induction n generalizing m a k with
  | zero => exact h
  | succ n ih => exact ih _ _ _ (Store.lay_wf _ _ _ h)

/-! ## Memory.wf under the updates of the state -/
@[simp] theorem Memory.wf_setGroup (s : State) (k : Nat) (x : Group) : Memory.wf (s.setGroup k x) = Memory.wf s := rfl
@[simp] theorem Memory.wf_setTeam (s : State) (k : Nat) (x : Team) : Memory.wf (s.setTeam k x) = Memory.wf s := rfl
@[simp] theorem Memory.wf_setKernel (s : State) (k : Nat) (x : Kernel) : Memory.wf (s.setKernel k x) = Memory.wf s := rfl
@[simp] theorem Memory.wf_setOwner (s : State) (k : Nat) (x : Owner) : Memory.wf (s.setOwner k x) = Memory.wf s := rfl
@[simp] theorem Memory.wf_setQueue (s : State) (k : Nat) (x : Queue) : Memory.wf (s.setQueue k x) = Memory.wf s := rfl
@[simp] theorem Memory.wf_setDie (s : State) (k : Nat) (x : Die) : Memory.wf (s.setDie k x) = Memory.wf s := rfl
@[simp] theorem Memory.wf_updGroup (s : State) (k : Nat) (f : Group → Group) : Memory.wf (s.updGroup k f) = Memory.wf s := rfl
@[simp] theorem Memory.wf_updTeam (s : State) (k : Nat) (f : Team → Team) : Memory.wf (s.updTeam k f) = Memory.wf s := rfl
@[simp] theorem Memory.wf_updOwner (s : State) (k : Nat) (f : Owner → Owner) : Memory.wf (s.updOwner k f) = Memory.wf s := rfl
@[simp] theorem Memory.wf_updDie (s : State) (k : Nat) (f : Die → Die) : Memory.wf (s.updDie k f) = Memory.wf s := rfl
@[simp] theorem Memory.wf_updG (s : State) (f : Group → Group) : Memory.wf (s.updG f) = Memory.wf s := rfl
@[simp] theorem Memory.wf_setSr (s : State) (r : SRegs) : Memory.wf (s.setSr r) = Memory.wf s := rfl

theorem Memory.wf_iff (s : State) : Memory.wf s = true ↔ s.mem.wf = true ∧ cellsWf s.hostMem = true := by
  simp [Memory.wf]

/-- A word stored at any place keeps the form of memory. -/
theorem State.putLoc_wf (s : State) (l : Loc) (w : Word) (c : Byte) (h : Memory.wf s = true) : Memory.wf (s.putLoc l w c) = true := by
  obtain ⟨hm, hh⟩ := (Memory.wf_iff s).1 h
  cases l with
  | dev ma => exact (Memory.wf_iff _).2 ⟨Store.write_wf _ _ _ _ hm, hh⟩
  | host ha k => exact (Memory.wf_iff _).2 ⟨hm, cellsWrite_wf _ _ _ _ hh⟩
  | window f o => exact h
  | regs f o => exact h
  | sram t o => exact h
  | priv g k o => exact h
  | chip o a => exact h
  | closed ma x => exact h

end Sys2Proof.Machine
end

