-- ==== Sys2Proof/Laws/Ops.lean ====
section
/-! SUPPORT. What each shared operation answers: the ends of a scalar instruction, its checks, and the end of a lane word. -/
namespace Sys2Proof.Machine

/-! ## Scalar instructions -/
theorem scalarJump_ok (i : Instr) (m : M Unit) {s t : State} (h : m s = .ok () t) : scalarJump i m s = .next t.flush := by
  simp [scalarJump, scalarEnd, h]
theorem scalarJump_wait (i : Instr) (m : M Unit) {s t : State} (h : m s = .error .wait t) (hp : t.g.gstate ≠ .parked) :
    scalarJump i m s = .next { t with evs := s.evs }.flush := by
  have hp' : (t.group t.cur).gstate ≠ .parked := hp
  simp [scalarJump, scalarEnd, h, hp']
theorem scalarJump_park (i : Instr) (m : M Unit) {s t : State} (h : m s = .error .wait t) (hp : t.g.gstate = .parked) :
    scalarJump i m s = .next t.flush := by
  have hp' : (t.group t.cur).gstate = .parked := hp
  simp [scalarJump, scalarEnd, h, hp']
theorem scalarJump_trap (i : Instr) (m : M Unit) {s t : State} {c a : Nat} (h : m s = .error (.trap c a) t) :
    scalarJump i m s = .next (t.takeTrap t.cur (scalarTrap (t.group t.cur).pc (encodeWord i) (wordBytes i) c a)).flush := by
  simp [scalarJump, scalarEnd, h]
theorem scalarJump_fault (i : Instr) (m : M Unit) {s t : State} {f : FaultInfo} (h : m s = .error (.tfault f) t) :
    scalarJump i m s = .next (t.takeFault t.cur { f with size := wordBytes i }).flush := by
  simp [scalarJump, scalarEnd, h]
theorem scalarJump_reserve (i : Instr) (m : M Unit) {s t : State} {f : FaultInfo} (h : m s = .error (.reserve f) t) :
    scalarJump i m s = .next (t.takeReserve t.cur f).flush := by
  simp [scalarJump, scalarEnd, h]

theorem bind_ok {α β : Type} {m : M α} {f : α → M β} {s t : State} {a : α} (h : m s = .ok a t) : (m >>= f) s = f a t := by
  show EStateM.bind m f s = f a t
  simp [EStateM.bind, h]
theorem bind_error {α β : Type} {m : M α} {f : α → M β} {s t : State} {e : Stop} (h : m s = .error e t) : (m >>= f) s = .error e t := by
  show EStateM.bind m f s = .error e t
  simp [EStateM.bind, h]

theorem get_ok (s : State) : (get : M State) s = .ok s s := rfl
theorem upd_ok (f : State → State) (s : State) : upd f s = .ok () (f s) := rfl

/-- An instruction that completes goes past itself. -/
theorem scalarOp_ok (i : Instr) (m : M Unit) {s t : State} (h : m s = .ok () t) :
    scalarOp i m s = .next (t.updG (fun x => x.advance (wordBytes i))).flush :=
  scalarJump_ok i _ (by rw [bind_ok h]; rfl)
/-- An instruction that traps does nothing else. -/
theorem scalarOp_trap (i : Instr) (m : M Unit) {s t : State} {c a : Nat} (h : m s = .error (.trap c a) t) :
    scalarOp i m s = .next (t.takeTrap t.cur (scalarTrap (t.group t.cur).pc (encodeWord i) (wordBytes i) c a)).flush :=
  scalarJump_trap i _ (bind_error h)
theorem scalarOp_wait (i : Instr) (m : M Unit) {s t : State} (h : m s = .error .wait t) (hp : t.g.gstate ≠ .parked) :
    scalarOp i m s = .next { t with evs := s.evs }.flush :=
  scalarJump_wait i _ (bind_error h) hp
theorem scalarOp_park (i : Instr) (m : M Unit) {s t : State} (h : m s = .error .wait t) (hp : t.g.gstate = .parked) :
    scalarOp i m s = .next t.flush :=
  scalarJump_park i _ (bind_error h) hp
theorem scalarOp_fault (i : Instr) (m : M Unit) {s t : State} {f : FaultInfo} (h : m s = .error (.tfault f) t) :
    scalarOp i m s = .next (t.takeFault t.cur { f with size := wordBytes i }).flush :=
  scalarJump_fault i _ (bind_error h)
/-- An instruction that only computes always completes. -/
theorem aluOp_next (i : Instr) (f : SRegs → SRegs) (s : State) :
    aluOp i f s = .next ((s.setSr (f s.g.sr)).updG (fun x => x.advance (wordBytes i))).flush := rfl
theorem aluCheck_some (i : Instr) (f : SRegs → Option SRegs) {s : State} {r : SRegs} (h : f s.g.sr = some r) :
    aluCheck i f s = .next ((s.setSr r).updG (fun x => x.advance (wordBytes i))).flush :=
  scalarOp_ok i _ (by simp [h])
theorem aluCheck_none (i : Instr) (f : SRegs → Option SRegs) {s : State} (h : f s.g.sr = none) :
    aluCheck i f s = .next (s.takeTrap s.cur (scalarTrap s.g.pc (encodeWord i) (wordBytes i) 3 0)).flush :=
  scalarOp_trap i _ (by simp [h])

/-! ## Checks of scalar instructions -/
theorem useReg_ok {s : State} {a : Nat} (h : s.g.sr.bad a = false) : useReg a s = .ok (s.g.sr.get a) s := by
  show EStateM.bind (clean a) (fun _ => sval a) s = _
  simp [EStateM.bind, clean, sval, h]
theorem useReg_bad {s : State} {a : Nat} (h : s.g.sr.bad a = true) : useReg a s = .error (.trap 3 0) s := by
  show EStateM.bind (clean a) (fun _ => sval a) s = _
  simp [EStateM.bind, clean, h]
theorem clean_ok {s : State} {a : Nat} (h : s.g.sr.bad a = false) : clean a s = .ok () s := by simp [clean, h]
theorem need_true (x : Stop) (s : State) : need true x s = .ok () s := rfl
theorem need_false (x : Stop) (s : State) : need false x s = .error x s := rfl
theorem needLanes_ok {s : State} (h : s.g.lanesIdle = true) : needLanes s = .ok () s := by simp [needLanes, h]
theorem needHandler_user {s : State} (h : s.g.level = 0) : needHandler s = .error (.trap 2 0) s := by simp [needHandler, h]
theorem needHandler_ok {s : State} (h : s.g.level ≠ 0) : needHandler s = .ok () s := by simp [needHandler, h]
theorem needOwner_ok {s : State} (h : s.g.level ≠ 3) : needOwner s = .ok () s := by simp [needOwner, h]
theorem needService_ok {s : State} (h : s.g.level = 3) : needService s = .ok () s := by simp [needService, h]
theorem needUser_ok {s : State} (h : s.g.level = 0) (h' : s.g.tr.tctl.getLsbD 1 = false) : needUser s = .ok () s := by
  simp only [needUser, h, h']
  rfl

/-! ## Acquires (R254, R257) -/
theorem acquireWait_ok {s : State} {sc : MScope} (h : (scSys sc && s.g.replies.any (fun r => r.got.isNone)) = false) :
    acquireWait sc s = .ok () s := by simp [acquireWait, h]
theorem acquireWait_wait {s : State} {sc : MScope} (h : (scSys sc && s.g.replies.any (fun r => r.got.isNone)) = true) :
    acquireWait sc s = .error .wait s := by simp [acquireWait, h]
theorem acquire_ok {s : State} {sc : MScope} (h : (scSys sc && s.g.replies.any (fun r => r.got.isNone)) = false) :
    acquire sc s = .ok () (s.acquired sc) := by rw [acquire, bind_ok (acquireWait_ok h)]; rfl
theorem acquire_wait {s : State} {sc : MScope} (h : (scSys sc && s.g.replies.any (fun r => r.got.isNone)) = true) :
    acquire sc s = .error .wait s := by rw [acquire, bind_error (acquireWait_wait h)]
/-- An acquire below .dev changes nothing, and one from .dev up only the copies of the group's die. -/
@[simp] theorem acquired_narrow (s : State) {sc : MScope} (h : scDev sc = false) : s.acquired sc = s := by simp [State.acquired, h]
theorem acquired_wide (s : State) {sc : MScope} (h : scDev sc = true) : s.acquired sc = s.dropCopies (s.dieOf s.cur) := by
  simp [State.acquired, h]

/-! ## Events -/
theorem flush_none {s : State} (h : s.evs = []) : s.flush = s := by
  cases s
  simp only at h
  subst h
  rfl

end Sys2Proof.Machine
end

