-- ==== Sys2Proof/Laws/Lanes.lean ====
section
/-! SUPPORT. What a lane word answers: the shared operation laneOp when every active lane completes, and what a completed word writes. -/
namespace Sys2Proof.Machine

theorem needQueues_ok {s : State} {qs : List Nat} {d : LaneDst} (hq : qs.all (fun q => !(tabGet [] s.g.lane.q q).isEmpty) = true)
    (hd : (match d.queue with | some k => decide ((tabGet [] s.g.lane.y k).length < Config.queueDepth) | none => true) = true) :
    needQueues qs d s = .ok () s := by
  unfold needQueues
  have h1 : qs.any (fun q => (tabGet [] s.g.lane.q q).isEmpty) = false := by
    rw [List.any_eq_false]
    intro q hm
    have := List.all_eq_true.1 hq q hm
    simpa using this
  have h2 : (match d.queue with | some k => decide (Config.queueDepth ≤ (tabGet [] s.g.lane.y k).length) | none => false) = false := by
    cases hk : d.queue with
    | none => rfl
    | some k =>
      rw [hk] at hd
      simp only [decide_eq_true_eq] at hd
      simp only [decide_eq_false_iff_not]
      omega
  rw [h1]
  cases hk : d.queue with
  | none => rfl
  | some k =>
    rw [hk] at h2
    simp only at h2
    simp only [h2]
    rfl

/-- A result that raises no enabled exception stays as it is. -/
theorem laneQuiet_iff (s : State) (d : LaneDst) (r : LRes) : laneQuiet s d r = true ↔ r.isDone = true ∧ enabled s.g.fpen d r = r := by
  simp [laneQuiet]

theorem LRes.isDone_not {r : LRes} (h : r.isDone = true) : r.isFault = false ∧ r.isTrap = false := by
  cases r <;> simp_all [LRes.isDone, LRes.isFault, LRes.isTrap]

theorem enabled_map {s : State} {d : LaneDst} {res : List (Nat × LRes)} (h : res.all (fun e => laneQuiet s d e.2) = true) :
    res.map (fun e => (e.1, enabled s.g.fpen d e.2)) = res := by
  induction res with
  | nil => rfl
  | cons e r ih =>
    simp only [List.all_cons, Bool.and_eq_true] at h
    rw [List.map_cons, ih h.2, ((laneQuiet_iff ..).1 h.1).2]

theorem no_fault_trap {s : State} {d : LaneDst} {res : List (Nat × LRes)} (h : res.all (fun e => laneQuiet s d e.2) = true) :
    res.any (fun e => e.2.isFault) = false ∧ res.any (fun e => e.2.isTrap) = false := by
  constructor <;> rw [List.any_eq_false] <;> intro e he
  · have := (LRes.isDone_not ((laneQuiet_iff ..).1 (List.all_eq_true.1 h e he)).1).1
    simp [this]
  · have := (LRes.isDone_not ((laneQuiet_iff ..).1 (List.all_eq_true.1 h e he)).1).2
    simp [this]

/-- A word whose lanes all complete ends with their results. -/
theorem laneEnd_done {s : State} {bits : Nat} {w : LaneWord} {srcs : List LSrc} {d : LaneDst} {a b c : Nat} {res : List (Nat × LRes)}
    (hr : w.redo = none) (h : res.all (fun e => laneQuiet s d e.2) = true) :
    s.laneEnd bits w (queuesOf srcs) d a b c res = laneDone s w srcs d res := by
  unfold State.laneEnd laneDone
  simp only [enabled_map h, (no_fault_trap h).1, (no_fault_trap h).2, hr, Bool.false_eq_true, if_false]

/-- Every lane that executes has its sources. -/
theorem laneArgs_map {s : State} {imm : Word} {srcs : List LSrc} {m : Mask}
    (h : (lanesOf m).all (fun l => match s.g.laneArgs imm l srcs with | .ok _ => true | .error _ => false) = true) :
    (lanesOf m).map (fun l => (l, s.g.laneArgs imm l srcs)) =
      (lanesOf m).map (fun l => (l, (Except.ok (laneIn s imm srcs l) : LaneArgs))) := by
  apply List.map_congr_left
  intro l hl
  have := List.all_eq_true.1 h l hl
  unfold laneIn
  cases hx : s.g.laneArgs imm l srcs with
  | ok as => rfl
  | error r => rw [hx] at this; simp at this

/-- A lane instruction whose body gives every active lane a complete result. -/
theorem laneOp_done (i : Instr) {p : LPred} {srcs : List LSrc} {imm : Word} {d : LaneDst} {access width : Nat}
    {body : LaneWord → List (Nat × LaneArgs) → M (List (Nat × LRes))} {s t : State} {res : List (Nat × LRes)}
    (hr : laneReady s p imm srcs d = true)
    (hb : body (s.laneWord p) ((lanesOf (s.laneWord p).run).map (fun l => (l, .ok (laneIn s imm srcs l)))) s = .ok res t)
    (hq : res.all (fun e => laneQuiet t d e.2) = true) :
    laneOp i p srcs imm d access width body s = .next (laneDone t (s.laneWord p) srcs d res).flush := by
  simp only [laneReady, Bool.and_eq_true] at hr
  obtain ⟨⟨⟨hredo, hqs⟩, hd⟩, hargs⟩ := hr
  have hredo : (s.laneWord p).redo = none := by simpa using hredo
  rw [← laneArgs_map hargs] at hb
  have hn := needQueues_ok hqs hd
  have hf : res.find? (fun e => e.2.isFault) = none := by
    rw [List.find?_eq_none]
    intro e he
    have := (no_fault_trap hq).1
    rw [List.any_eq_false] at this
    simpa using this e he
  unfold laneOp
  simp only [hredo]
  rw [bind_ok hn]
  simp only [Option.isSome_none, Bool.false_eq_true, if_false]
  rw [bind_ok (get_ok s), bind_ok hb]
  simp only [pure, EStateM.pure, hf]
  rw [laneEnd_done hredo hq]

/-- An instruction that works lane by lane. -/
theorem laneMap_done (i : Instr) {p : LPred} {srcs : List LSrc} {imm : Word} {d : LaneDst} {f : Nat → List (Word × Bool) → LRes} {s : State}
    (hr : laneReady s p imm srcs d = true) (hq : (laneResults s p imm srcs f).all (fun e => laneQuiet s d e.2) = true) :
    laneMap i p srcs imm d f s = .next (laneDone s (s.laneWord p) srcs d (laneResults s p imm srcs f)).flush := by
  refine laneOp_done i hr ?_ hq
  simp [laneEach, laneResults, LaneArgs.res, pure, EStateM.pure, Function.comp_def]

end Sys2Proof.Machine
end

