-- ==== Sys2Proof/Laws/PerInstr.lean ====
section
/-! SUPPORT. For every instruction that has a word: how many bytes it is long (R50, R54, R65). -/
namespace Sys2Proof.Laws.Size
set_option Elab.async false
set_option linter.unusedSimpArgs false
open Dec

/-- Bytes of an instruction's encoding: 8 with an extension word, 12 for a lane word, 4 otherwise. -/
def bytes : Instr → Nat
  | .aluWide _ _ _ _ | .lih _ _ | .lrun _ _ | .ldX _ _ _ _ _ _ _ | .stX _ _ _ _ _ _ _ | .amo _ _ _ _ _ _ _ _ _ _ | .rld _ _ _ _ | .rst _ _ _ _ | .ramo _ _ _ _ _ _ _ => 8
  | .vadd _ _ _ _ _ | .vsub _ _ _ _ _ | .vmul _ _ _ _ _ | .vmulh _ _ _ _ _ _ | .vmad _ _ _ _ _ _ | .vmin _ _ _ _ _ _
  | .vmax _ _ _ _ _ _ | .vand _ _ _ _ _ | .vor _ _ _ _ _ | .vxor _ _ _ _ _ | .vnot _ _ _ _ | .vshl _ _ _ _ _
  | .vshr _ _ _ _ _ | .vsar _ _ _ _ _ | .vpopc _ _ _ _ | .vclz _ _ _ _ | .vcmp _ _ _ _ _ _ | .vsel _ _ _ _ _ _ _
  | .vmov _ _ _ _ | .vfadd _ _ _ _ _ _ | .vfsub _ _ _ _ _ _ | .vfmul _ _ _ _ _ _ | .vffma _ _ _ _ _ _ _ | .vfmin _ _ _ _ _
  | .vfmax _ _ _ _ _ | .vfcmp _ _ _ _ _ _ | .vfrcp _ _ _ _ | .vfrsq _ _ _ _ | .vfsqrt _ _ _ _ _ | .vfex2 _ _ _ _
  | .vflg2 _ _ _ _ | .vfsin _ _ _ _ | .vfcos _ _ _ _ | .vcvt _ _ _ _ _ _ _ | .vdot4 _ _ _ _ _ _ _ | .vdot8 _ _ _ _ _ _ _
  | .vscacc _ _ _ _ _ _ _ _ | .vshfl _ _ _ _ _ _ | .vvote _ _ _ _ _ | .vred _ _ _ _ _ | .vscan _ _ _ _ | .vbr _ _ _
  | .vjoin _ _ | .vend | .vld _ _ _ _ _ _ _ _ _ | .vst _ _ _ _ _ _ _ _ | .vamo _ _ _ _ _ _ _ _ _ _ | .vldc _ _ _ _ _ _ _ _
  | .vstc _ _ _ _ _ _ _ | .vcupd _ _ _ _ _ _ | .vmma _ _ _ _ _ _ | .vmmas _ _ _ _ _ _ _ _ | .vmmap _ _ _ _ _ _
  | .vptest _ _ _ _ | .vpoison _ _ _ _ => 12
  | _ => 4

/-- A well-formed instruction with a word is as long as its form says. -/
def Statement (i : Instr) : Prop := WellFormed i = true → hasWord i = true → wordBytes i = bytes i

theorem narrow {i : Instr} (m l : Nat) (h : encodeWord i = m * 2 ^ 25 + l) (hl : l < 2 ^ 25) (hm : m < 128)
    (hw : isWide (m * 2 ^ 25) = false) : wordBytes i = 4 := by
  have h1 : isLane i = false := by unfold isLane; rw [h]; simp; omega
  have h2 : bits (encodeWord i) 25 7 = bits (m * 2 ^ 25) 25 7 := by rw [h]; unfold bits; omega
  have h3 : isWide (encodeWord i) = false := by unfold isWide at hw ⊢; rw [h2]; exact hw
  unfold wordBytes; rw [h1, h3]; rfl
theorem wide {i : Instr} (m l e : Nat) (h : encodeWord i = m * 2 ^ 25 + l + e * 2 ^ 32) (hl : l < 2 ^ 25) (he : e < 2 ^ 32) (hm : m < 128)
    (hw : isWide (m * 2 ^ 25) = true) : wordBytes i = 8 := by
  have h1 : isLane i = false := by unfold isLane; rw [h]; simp; omega
  have h2 : bits (encodeWord i) 25 7 = bits (m * 2 ^ 25) 25 7 := by rw [h]; unfold bits; omega
  have h3 : isWide (encodeWord i) = true := by unfold isWide at hw ⊢; rw [h2]; exact hw
  unfold wordBytes; rw [h1, h3]; rfl
theorem lane {i : Instr} (op r : Nat) (h : encodeWord i = op * 2 ^ 84 + r) (ho : 1 ≤ op) : wordBytes i = 12 := by
  have h1 : isLane i = true := by unfold isLane; rw [h]; simp; omega
  unfold wordBytes; rw [h1]; rfl
theorem lane_op (op dst sa sb sc p md imm : Nat) : ∃ r, wordL op dst sa sb sc p md imm = op * 2 ^ 84 + r :=
  ⟨dst * 2 ^ 72 + sa * 2 ^ 63 + sb * 2 ^ 54 + sc * 2 ^ 45 + p * 2 ^ 41 + md * 2 ^ 32 + imm, by unfold wordL; omega⟩
theorem condCode_lt (c : Cond) : condCode c < 8 := by cases c <;> decide
theorem aopCode_lt (c : AOp) : aopCode c < 8 := by cases c <;> decide
theorem wideCode_lt (c : WideOp) : wideCode c < 64 := by cases c <;> simp [wideCode]
theorem attr_lt (o : MOrder) (sc : MScope) (ms : Space) (wd : MWidth) (op : Nat) (h : op < 8) : attr o sc ms wd op < 8192 := by
  cases o <;> cases sc <;> cases ms <;> cases wd <;> simp [attr, orderCode, scopeCode, spaceCode, widthCode] <;> omega
theorem creg_lt {n : Nat} (h : WF.creg n = true) : n < 4096 := by
  simp only [WF.creg, Bool.or_eq_true, Bool.and_eq_true, decide_eq_true_eq] at h; omega
theorem orderCode_lt (c : MOrder) : orderCode c < 4 := by cases c <;> decide
theorem scopeCode_lt (c : MScope) : scopeCode c < 8 := by cases c <;> decide
theorem wideDest_lt (op : WideOp) (d : Nat) (h : d < 64) (h' : ∀ cc, op = .cmp cc → d < 8) : wideDest op d < 64 := by
  cases op <;> simp only [wideDest] <;> try exact h
  next cc => have := h' cc rfl; have := condCode_lt cc; omega

theorem add (d a b : Nat) : Statement (.add d a b) := by
  intro h _
  simp only [WellFormed, WF.s, WF.o, WF.m, WF.opC, Bool.and_eq_true, decide_eq_true_eq] at h
  exact narrow 1 (d * 2 ^ 19 + a * 2 ^ 13 + b * 2 ^ 7 + 0x00) (by simp only [encodeWord, wordR]; try omega) (by omega) (by decide) (by decide)
theorem sub (d a b : Nat) : Statement (.sub d a b) := by
  intro h _
  simp only [WellFormed, WF.s, WF.o, WF.m, WF.opC, Bool.and_eq_true, decide_eq_true_eq] at h
  exact narrow 1 (d * 2 ^ 19 + a * 2 ^ 13 + b * 2 ^ 7 + 0x01) (by simp only [encodeWord, wordR]; try omega) (by omega) (by decide) (by decide)
theorem mul (d a b : Nat) : Statement (.mul d a b) := by
  intro h _
  simp only [WellFormed, WF.s, WF.o, WF.m, WF.opC, Bool.and_eq_true, decide_eq_true_eq] at h
  exact narrow 1 (d * 2 ^ 19 + a * 2 ^ 13 + b * 2 ^ 7 + 0x02) (by simp only [encodeWord, wordR]; try omega) (by omega) (by decide) (by decide)
theorem mulh (d a b : Nat) : Statement (.mulh d a b) := by
  intro h _
  simp only [WellFormed, WF.s, WF.o, WF.m, WF.opC, Bool.and_eq_true, decide_eq_true_eq] at h
  exact narrow 1 (d * 2 ^ 19 + a * 2 ^ 13 + b * 2 ^ 7 + 0x03) (by simp only [encodeWord, wordR]; try omega) (by omega) (by decide) (by decide)
theorem div (d a b : Nat) : Statement (.div d a b) := by
  intro h _
  simp only [WellFormed, WF.s, WF.o, WF.m, WF.opC, Bool.and_eq_true, decide_eq_true_eq] at h
  exact narrow 1 (d * 2 ^ 19 + a * 2 ^ 13 + b * 2 ^ 7 + 0x04) (by simp only [encodeWord, wordR]; try omega) (by omega) (by decide) (by decide)
theorem divu (d a b : Nat) : Statement (.divu d a b) := by
  intro h _
  simp only [WellFormed, WF.s, WF.o, WF.m, WF.opC, Bool.and_eq_true, decide_eq_true_eq] at h
  exact narrow 1 (d * 2 ^ 19 + a * 2 ^ 13 + b * 2 ^ 7 + 0x05) (by simp only [encodeWord, wordR]; try omega) (by omega) (by decide) (by decide)
theorem and (d a b : Nat) : Statement (.and d a b) := by
  intro h _
  simp only [WellFormed, WF.s, WF.o, WF.m, WF.opC, Bool.and_eq_true, decide_eq_true_eq] at h
  exact narrow 1 (d * 2 ^ 19 + a * 2 ^ 13 + b * 2 ^ 7 + 0x06) (by simp only [encodeWord, wordR]; try omega) (by omega) (by decide) (by decide)
theorem or (d a b : Nat) : Statement (.or d a b) := by
  intro h _
  simp only [WellFormed, WF.s, WF.o, WF.m, WF.opC, Bool.and_eq_true, decide_eq_true_eq] at h
  exact narrow 1 (d * 2 ^ 19 + a * 2 ^ 13 + b * 2 ^ 7 + 0x07) (by simp only [encodeWord, wordR]; try omega) (by omega) (by decide) (by decide)
theorem xor (d a b : Nat) : Statement (.xor d a b) := by
  intro h _
  simp only [WellFormed, WF.s, WF.o, WF.m, WF.opC, Bool.and_eq_true, decide_eq_true_eq] at h
  exact narrow 1 (d * 2 ^ 19 + a * 2 ^ 13 + b * 2 ^ 7 + 0x08) (by simp only [encodeWord, wordR]; try omega) (by omega) (by decide) (by decide)
theorem shl (d a b : Nat) : Statement (.shl d a b) := by
  intro h _
  simp only [WellFormed, WF.s, WF.o, WF.m, WF.opC, Bool.and_eq_true, decide_eq_true_eq] at h
  exact narrow 1 (d * 2 ^ 19 + a * 2 ^ 13 + b * 2 ^ 7 + 0x09) (by simp only [encodeWord, wordR]; try omega) (by omega) (by decide) (by decide)
theorem shr (d a b : Nat) : Statement (.shr d a b) := by
  intro h _
  simp only [WellFormed, WF.s, WF.o, WF.m, WF.opC, Bool.and_eq_true, decide_eq_true_eq] at h
  exact narrow 1 (d * 2 ^ 19 + a * 2 ^ 13 + b * 2 ^ 7 + 0x0A) (by simp only [encodeWord, wordR]; try omega) (by omega) (by decide) (by decide)
theorem sar (d a b : Nat) : Statement (.sar d a b) := by
  intro h _
  simp only [WellFormed, WF.s, WF.o, WF.m, WF.opC, Bool.and_eq_true, decide_eq_true_eq] at h
  exact narrow 1 (d * 2 ^ 19 + a * 2 ^ 13 + b * 2 ^ 7 + 0x0B) (by simp only [encodeWord, wordR]; try omega) (by omega) (by decide) (by decide)
theorem min (d a b : Nat) : Statement (.min d a b) := by
  intro h _
  simp only [WellFormed, WF.s, WF.o, WF.m, WF.opC, Bool.and_eq_true, decide_eq_true_eq] at h
  exact narrow 1 (d * 2 ^ 19 + a * 2 ^ 13 + b * 2 ^ 7 + 0x0C) (by simp only [encodeWord, wordR]; try omega) (by omega) (by decide) (by decide)
theorem max (d a b : Nat) : Statement (.max d a b) := by
  intro h _
  simp only [WellFormed, WF.s, WF.o, WF.m, WF.opC, Bool.and_eq_true, decide_eq_true_eq] at h
  exact narrow 1 (d * 2 ^ 19 + a * 2 ^ 13 + b * 2 ^ 7 + 0x0D) (by simp only [encodeWord, wordR]; try omega) (by omega) (by decide) (by decide)
theorem minu (d a b : Nat) : Statement (.minu d a b) := by
  intro h _
  simp only [WellFormed, WF.s, WF.o, WF.m, WF.opC, Bool.and_eq_true, decide_eq_true_eq] at h
  exact narrow 1 (d * 2 ^ 19 + a * 2 ^ 13 + b * 2 ^ 7 + 0x0E) (by simp only [encodeWord, wordR]; try omega) (by omega) (by decide) (by decide)
theorem maxu (d a b : Nat) : Statement (.maxu d a b) := by
  intro h _
  simp only [WellFormed, WF.s, WF.o, WF.m, WF.opC, Bool.and_eq_true, decide_eq_true_eq] at h
  exact narrow 1 (d * 2 ^ 19 + a * 2 ^ 13 + b * 2 ^ 7 + 0x0F) (by simp only [encodeWord, wordR]; try omega) (by omega) (by decide) (by decide)
theorem mov (d a : Nat) : Statement (.mov d a) := by
  intro h _
  simp only [WellFormed, WF.s, WF.o, WF.m, WF.opC, Bool.and_eq_true, decide_eq_true_eq] at h
  exact narrow 1 (d * 2 ^ 19 + a * 2 ^ 13 + 0 * 2 ^ 7 + 0x10) (by simp only [encodeWord, wordR]; try omega) (by omega) (by decide) (by decide)
theorem movY (d y : Nat) : Statement (.movY d y) := by
  intro h _
  simp only [WellFormed, WF.s, WF.o, WF.m, WF.opC, Bool.and_eq_true, decide_eq_true_eq] at h
  exact narrow 1 (d * 2 ^ 19 + y * 2 ^ 13 + 0 * 2 ^ 7 + 0x11) (by simp only [encodeWord, wordR]; try omega) (by omega) (by decide) (by decide)
theorem clz (d a : Nat) : Statement (.clz d a) := by
  intro h _
  simp only [WellFormed, WF.s, WF.o, WF.m, WF.opC, Bool.and_eq_true, decide_eq_true_eq] at h
  exact narrow 1 (d * 2 ^ 19 + a * 2 ^ 13 + 0 * 2 ^ 7 + 0x12) (by simp only [encodeWord, wordR]; try omega) (by omega) (by decide) (by decide)
theorem popc (d a : Nat) : Statement (.popc d a) := by
  intro h _
  simp only [WellFormed, WF.s, WF.o, WF.m, WF.opC, Bool.and_eq_true, decide_eq_true_eq] at h
  exact narrow 1 (d * 2 ^ 19 + a * 2 ^ 13 + 0 * 2 ^ 7 + 0x13) (by simp only [encodeWord, wordR]; try omega) (by omega) (by decide) (by decide)
theorem extB (d a : Nat) : Statement (.extB d a) := by
  intro h _
  simp only [WellFormed, WF.s, WF.o, WF.m, WF.opC, Bool.and_eq_true, decide_eq_true_eq] at h
  exact narrow 1 (d * 2 ^ 19 + a * 2 ^ 13 + 0 * 2 ^ 7 + 0x14) (by simp only [encodeWord, wordR]; try omega) (by omega) (by decide) (by decide)
theorem extH (d a : Nat) : Statement (.extH d a) := by
  intro h _
  simp only [WellFormed, WF.s, WF.o, WF.m, WF.opC, Bool.and_eq_true, decide_eq_true_eq] at h
  exact narrow 1 (d * 2 ^ 19 + a * 2 ^ 13 + 0 * 2 ^ 7 + 0x15) (by simp only [encodeWord, wordR]; try omega) (by omega) (by decide) (by decide)
theorem extW (d a : Nat) : Statement (.extW d a) := by
  intro h _
  simp only [WellFormed, WF.s, WF.o, WF.m, WF.opC, Bool.and_eq_true, decide_eq_true_eq] at h
  exact narrow 1 (d * 2 ^ 19 + a * 2 ^ 13 + 0 * 2 ^ 7 + 0x16) (by simp only [encodeWord, wordR]; try omega) (by omega) (by decide) (by decide)
theorem sel (d a b f : Nat) : Statement (.sel d a b f) := by
  intro h _
  simp only [WellFormed, WF.s, WF.o, WF.m, WF.opC, Bool.and_eq_true, decide_eq_true_eq] at h
  exact narrow 1 (d * 2 ^ 19 + a * 2 ^ 13 + b * 2 ^ 7 + (0x18 + f)) (by simp only [encodeWord, wordR]; try omega) (by omega) (by decide) (by decide)
theorem cmp (cc : Cond) (f a b : Nat) : Statement (.cmp cc f a b) := by
  intro h _
  simp only [WellFormed, WF.s, WF.o, WF.m, WF.opC, Bool.and_eq_true, decide_eq_true_eq] at h
  have := condCode_lt cc
  exact narrow 1 ((condCode cc * 8 + f) * 2 ^ 19 + a * 2 ^ 13 + b * 2 ^ 7 + 0x20) (by simp only [encodeWord, wordR]; try omega) (by omega) (by decide) (by decide)
theorem addImm (d a : Nat) (k : BitVec 13) : Statement (.addImm d a k) := by
  intro h _
  simp only [WellFormed, WF.s, WF.o, WF.m, WF.opC, Bool.and_eq_true, decide_eq_true_eq] at h
  have := k.isLt
  exact narrow 3 (d * 2 ^ 19 + a * 2 ^ 13 + k.toNat) (by simp only [encodeWord, wordI]; try omega) (by omega) (by decide) (by decide)
theorem mulImm (d a : Nat) (k : BitVec 13) : Statement (.mulImm d a k) := by
  intro h _
  simp only [WellFormed, WF.s, WF.o, WF.m, WF.opC, Bool.and_eq_true, decide_eq_true_eq] at h
  have := k.isLt
  exact narrow 4 (d * 2 ^ 19 + a * 2 ^ 13 + k.toNat) (by simp only [encodeWord, wordI]; try omega) (by omega) (by decide) (by decide)
theorem andImm (d a : Nat) (k : BitVec 13) : Statement (.andImm d a k) := by
  intro h _
  simp only [WellFormed, WF.s, WF.o, WF.m, WF.opC, Bool.and_eq_true, decide_eq_true_eq] at h
  have := k.isLt
  exact narrow 5 (d * 2 ^ 19 + a * 2 ^ 13 + k.toNat) (by simp only [encodeWord, wordI]; try omega) (by omega) (by decide) (by decide)
theorem orImm (d a : Nat) (k : BitVec 13) : Statement (.orImm d a k) := by
  intro h _
  simp only [WellFormed, WF.s, WF.o, WF.m, WF.opC, Bool.and_eq_true, decide_eq_true_eq] at h
  have := k.isLt
  exact narrow 6 (d * 2 ^ 19 + a * 2 ^ 13 + k.toNat) (by simp only [encodeWord, wordI]; try omega) (by omega) (by decide) (by decide)
theorem xorImm (d a : Nat) (k : BitVec 13) : Statement (.xorImm d a k) := by
  intro h _
  simp only [WellFormed, WF.s, WF.o, WF.m, WF.opC, Bool.and_eq_true, decide_eq_true_eq] at h
  have := k.isLt
  exact narrow 7 (d * 2 ^ 19 + a * 2 ^ 13 + k.toNat) (by simp only [encodeWord, wordI]; try omega) (by omega) (by decide) (by decide)
theorem shlImm (d a k : Nat) : Statement (.shlImm d a k) := by
  intro h _
  simp only [WellFormed, WF.s, WF.o, WF.m, WF.opC, Bool.and_eq_true, decide_eq_true_eq] at h
  exact narrow 8 (d * 2 ^ 19 + a * 2 ^ 13 + (0 * 2 ^ 11 + k)) (by simp only [encodeWord, wordI]; try omega) (by omega) (by decide) (by decide)
theorem shrImm (d a k : Nat) : Statement (.shrImm d a k) := by
  intro h _
  simp only [WellFormed, WF.s, WF.o, WF.m, WF.opC, Bool.and_eq_true, decide_eq_true_eq] at h
  exact narrow 8 (d * 2 ^ 19 + a * 2 ^ 13 + (1 * 2 ^ 11 + k)) (by simp only [encodeWord, wordI]; try omega) (by omega) (by decide) (by decide)
theorem sarImm (d a k : Nat) : Statement (.sarImm d a k) := by
  intro h _
  simp only [WellFormed, WF.s, WF.o, WF.m, WF.opC, Bool.and_eq_true, decide_eq_true_eq] at h
  exact narrow 8 (d * 2 ^ 19 + a * 2 ^ 13 + (2 * 2 ^ 11 + k)) (by simp only [encodeWord, wordI]; try omega) (by omega) (by decide) (by decide)
theorem minImm (d a : Nat) (k : BitVec 13) : Statement (.minImm d a k) := by
  intro h _
  simp only [WellFormed, WF.s, WF.o, WF.m, WF.opC, Bool.and_eq_true, decide_eq_true_eq] at h
  have := k.isLt
  exact narrow 9 (d * 2 ^ 19 + a * 2 ^ 13 + k.toNat) (by simp only [encodeWord, wordI]; try omega) (by omega) (by decide) (by decide)
theorem maxImm (d a : Nat) (k : BitVec 13) : Statement (.maxImm d a k) := by
  intro h _
  simp only [WellFormed, WF.s, WF.o, WF.m, WF.opC, Bool.and_eq_true, decide_eq_true_eq] at h
  have := k.isLt
  exact narrow 10 (d * 2 ^ 19 + a * 2 ^ 13 + k.toNat) (by simp only [encodeWord, wordI]; try omega) (by omega) (by decide) (by decide)
theorem minuImm (d a : Nat) (k : BitVec 13) : Statement (.minuImm d a k) := by
  intro h _
  simp only [WellFormed, WF.s, WF.o, WF.m, WF.opC, Bool.and_eq_true, decide_eq_true_eq] at h
  have := k.isLt
  exact narrow 11 (d * 2 ^ 19 + a * 2 ^ 13 + k.toNat) (by simp only [encodeWord, wordI]; try omega) (by omega) (by decide) (by decide)
theorem maxuImm (d a : Nat) (k : BitVec 13) : Statement (.maxuImm d a k) := by
  intro h _
  simp only [WellFormed, WF.s, WF.o, WF.m, WF.opC, Bool.and_eq_true, decide_eq_true_eq] at h
  have := k.isLt
  exact narrow 12 (d * 2 ^ 19 + a * 2 ^ 13 + k.toNat) (by simp only [encodeWord, wordI]; try omega) (by omega) (by decide) (by decide)
theorem li (d : Nat) (k : BitVec 13) : Statement (.li d k) := by
  intro h _
  simp only [WellFormed, WF.s, WF.o, WF.m, WF.opC, Bool.and_eq_true, decide_eq_true_eq] at h
  have := k.isLt
  exact narrow 0x0D (d * 2 ^ 19 + 0 * 2 ^ 13 + k.toNat) (by simp only [encodeWord, wordI]; try omega) (by omega) (by decide) (by decide)
theorem cmpImm (cc : Cond) (f a : Nat) (k : BitVec 13) : Statement (.cmpImm cc f a k) := by
  intro h _
  simp only [WellFormed, WF.s, WF.o, WF.m, WF.opC, Bool.and_eq_true, decide_eq_true_eq] at h
  have := condCode_lt cc
  have := k.isLt
  exact narrow 0x0E ((condCode cc * 8 + f) * 2 ^ 19 + a * 2 ^ 13 + k.toNat) (by simp only [encodeWord, wordI]; try omega) (by omega) (by decide) (by decide)
theorem aluWide (op : WideOp) (d a : Nat) (k : Word) : Statement (.aluWide op d a k) := by
  intro h _
  have hd : d < 64 ∧ (∀ cc, op = .cmp cc → d < 8) ∧ a < 64 := by
    cases op <;> simp only [WellFormed, WF.s, WF.o, Bool.and_eq_true, decide_eq_true_eq] at h <;> refine ⟨by omega, ?_, h.2⟩ <;>
      intro cc hc <;> first | exact h.1 | cases hc
  have h1 := wideDest_lt op d hd.1 hd.2.1
  have h2 := wideCode_lt op
  exact wide 0x0F (wideDest op d * 2 ^ 19 + a * 2 ^ 13 + wideCode op) k.toNat (by simp only [encodeWord, wordX, wordI]; omega) (by omega) k.isLt (by decide) (by decide)
theorem lih (d : Nat) (k : Word) : Statement (.lih d k) := by
  intro h _
  simp only [WellFormed, WF.s, WF.o, WF.m, WF.opC, Bool.and_eq_true, decide_eq_true_eq] at h
  exact wide 0x10 (d * 2 ^ 19) k.toNat (by simp only [encodeWord, wordX, wordI]; omega) (by omega) k.isLt (by decide) (by decide)
theorem br (disp : BitVec 21) : Statement (.br disp) := by
  intro h _
  simp only [WellFormed, WF.s, WF.o, WF.m, WF.opC, Bool.and_eq_true, decide_eq_true_eq] at h
  have := disp.isLt
  exact narrow 0x11 (0 * 2 ^ 21 + disp.toNat) (by simp only [encodeWord, wordB]; try omega) (by omega) (by decide) (by decide)
theorem bc (f : Nat) (neg : Bool) (disp : BitVec 21) : Statement (.bc f neg disp) := by
  intro h _
  simp only [WellFormed, WF.s, WF.o, WF.m, WF.opC, Bool.and_eq_true, decide_eq_true_eq] at h
  have := disp.isLt
  have : neg.toNat ≤ 1 := Bool.toNat_le neg
  exact narrow 0x12 ((f * 2 + neg.toNat) * 2 ^ 21 + disp.toNat) (by simp only [encodeWord, wordB]; try omega) (by omega) (by decide) (by decide)
theorem call (disp : BitVec 21) : Statement (.call disp) := by
  intro h _
  simp only [WellFormed, WF.s, WF.o, WF.m, WF.opC, Bool.and_eq_true, decide_eq_true_eq] at h
  have := disp.isLt
  exact narrow 0x13 (0 * 2 ^ 21 + disp.toNat) (by simp only [encodeWord, wordB]; try omega) (by omega) (by decide) (by decide)
theorem loop (d : Nat) (disp : BitVec 13) : Statement (.loop d disp) := by
  intro h _
  simp only [WellFormed, WF.s, WF.o, WF.m, WF.opC, Bool.and_eq_true, decide_eq_true_eq] at h
  have := disp.isLt
  exact narrow 0x14 (d * 2 ^ 19 + 0 * 2 ^ 13 + disp.toNat) (by simp only [encodeWord, wordI]; try omega) (by omega) (by decide) (by decide)
theorem lrun (m : Nat) (off : Word) : Statement (.lrun m off) := by
  intro h _
  simp only [WellFormed, WF.s, WF.o, WF.m, WF.opC, Bool.and_eq_true, decide_eq_true_eq] at h
  exact wide 0x15 (m * 2 ^ 19) off.toNat (by simp only [encodeWord, wordX, wordI]; omega) (by omega) off.isLt (by decide) (by decide)
theorem ldB (d a : Nat) (k : BitVec 13) : Statement (.ldB d a k) := by
  intro h _
  simp only [WellFormed, WF.s, WF.o, WF.m, WF.opC, Bool.and_eq_true, decide_eq_true_eq] at h
  have := k.isLt
  exact narrow 0x16 (d * 2 ^ 19 + a * 2 ^ 13 + k.toNat) (by simp only [encodeWord, wordI]; try omega) (by omega) (by decide) (by decide)
theorem ldH (d a : Nat) (k : BitVec 13) : Statement (.ldH d a k) := by
  intro h _
  simp only [WellFormed, WF.s, WF.o, WF.m, WF.opC, Bool.and_eq_true, decide_eq_true_eq] at h
  have := k.isLt
  exact narrow 0x17 (d * 2 ^ 19 + a * 2 ^ 13 + k.toNat) (by simp only [encodeWord, wordI]; try omega) (by omega) (by decide) (by decide)
theorem ldW (d a : Nat) (k : BitVec 13) : Statement (.ldW d a k) := by
  intro h _
  simp only [WellFormed, WF.s, WF.o, WF.m, WF.opC, Bool.and_eq_true, decide_eq_true_eq] at h
  have := k.isLt
  exact narrow 0x18 (d * 2 ^ 19 + a * 2 ^ 13 + k.toNat) (by simp only [encodeWord, wordI]; try omega) (by omega) (by decide) (by decide)
theorem ldD (d a : Nat) (k : BitVec 13) : Statement (.ldD d a k) := by
  intro h _
  simp only [WellFormed, WF.s, WF.o, WF.m, WF.opC, Bool.and_eq_true, decide_eq_true_eq] at h
  have := k.isLt
  exact narrow 0x19 (d * 2 ^ 19 + a * 2 ^ 13 + k.toNat) (by simp only [encodeWord, wordI]; try omega) (by omega) (by decide) (by decide)
theorem stB (d a : Nat) (k : BitVec 13) : Statement (.stB d a k) := by
  intro h _
  simp only [WellFormed, WF.s, WF.o, WF.m, WF.opC, Bool.and_eq_true, decide_eq_true_eq] at h
  have := k.isLt
  exact narrow 0x1A (d * 2 ^ 19 + a * 2 ^ 13 + k.toNat) (by simp only [encodeWord, wordI]; try omega) (by omega) (by decide) (by decide)
theorem stH (d a : Nat) (k : BitVec 13) : Statement (.stH d a k) := by
  intro h _
  simp only [WellFormed, WF.s, WF.o, WF.m, WF.opC, Bool.and_eq_true, decide_eq_true_eq] at h
  have := k.isLt
  exact narrow 0x1B (d * 2 ^ 19 + a * 2 ^ 13 + k.toNat) (by simp only [encodeWord, wordI]; try omega) (by omega) (by decide) (by decide)
theorem stW (d a : Nat) (k : BitVec 13) : Statement (.stW d a k) := by
  intro h _
  simp only [WellFormed, WF.s, WF.o, WF.m, WF.opC, Bool.and_eq_true, decide_eq_true_eq] at h
  have := k.isLt
  exact narrow 0x1C (d * 2 ^ 19 + a * 2 ^ 13 + k.toNat) (by simp only [encodeWord, wordI]; try omega) (by omega) (by decide) (by decide)
theorem stD (d a : Nat) (k : BitVec 13) : Statement (.stD d a k) := by
  intro h _
  simp only [WellFormed, WF.s, WF.o, WF.m, WF.opC, Bool.and_eq_true, decide_eq_true_eq] at h
  have := k.isLt
  exact narrow 0x1D (d * 2 ^ 19 + a * 2 ^ 13 + k.toNat) (by simp only [encodeWord, wordI]; try omega) (by omega) (by decide) (by decide)
theorem ldX (wd : MWidth) (o : MOrder) (sc : MScope) (ms : Space) (d a : Nat) (k : Word) : Statement (.ldX wd o sc ms d a k) := by
  intro h _
  simp only [WellFormed, WF.s, WF.o, WF.m, WF.opC, Bool.and_eq_true, decide_eq_true_eq] at h
  have h1 := attr_lt o sc ms wd 0 (by decide)
  exact wide 0x1E (d * 2 ^ 19 + a * 2 ^ 13 + attr o sc ms wd 0) k.toNat (by simp only [encodeWord, wordX, wordI]; omega) (by omega) k.isLt (by decide) (by decide)
theorem stX (wd : MWidth) (o : MOrder) (sc : MScope) (ms : Space) (d a : Nat) (k : Word) : Statement (.stX wd o sc ms d a k) := by
  intro h _
  simp only [WellFormed, WF.s, WF.o, WF.m, WF.opC, Bool.and_eq_true, decide_eq_true_eq] at h
  have h1 := attr_lt o sc ms wd 0 (by decide)
  exact wide 0x1F (d * 2 ^ 19 + a * 2 ^ 13 + attr o sc ms wd 0) k.toNat (by simp only [encodeWord, wordX, wordI]; omega) (by omega) k.isLt (by decide) (by decide)
theorem amo (op : AOp) (wd : MWidth) (o : MOrder) (sc : MScope) (ms : Space) (d a b c : Nat) (k : BitVec 20) : Statement (.amo op wd o sc ms d a b c k) := by
  intro h _
  simp only [WellFormed, WF.s, WF.o, WF.m, WF.opC, Bool.and_eq_true, decide_eq_true_eq] at h
  have h1 := attr_lt o sc ms wd (aopCode op) (aopCode_lt op)
  have h2 := k.isLt
  exact wide 0x20 (d * 2 ^ 19 + a * 2 ^ 13 + attr o sc ms wd (aopCode op)) (b * 2 ^ 26 + c * 2 ^ 20 + k.toNat) (by simp only [encodeWord, wordX, wordI]; omega) (by omega) (by omega) (by decide) (by decide)
theorem ldq (q a : Nat) (k : BitVec 13) : Statement (.ldq q a k) := by
  intro h _
  simp only [WellFormed, WF.s, WF.o, WF.m, WF.opC, Bool.and_eq_true, decide_eq_true_eq] at h
  have := k.isLt
  exact narrow 0x21 (q * 2 ^ 19 + a * 2 ^ 13 + k.toNat) (by simp only [encodeWord, wordI]; try omega) (by omega) (by decide) (by decide)
theorem ldk (d a : Nat) (k : BitVec 13) : Statement (.ldk d a k) := by
  intro h _
  simp only [WellFormed, WF.s, WF.o, WF.m, WF.opC, Bool.and_eq_true, decide_eq_true_eq] at h
  have := k.isLt
  exact narrow 0x22 (d * 2 ^ 19 + a * 2 ^ 13 + k.toNat) (by simp only [encodeWord, wordI]; try omega) (by omega) (by decide) (by decide)
theorem stk (d a : Nat) (k : BitVec 13) : Statement (.stk d a k) := by
  intro h _
  simp only [WellFormed, WF.s, WF.o, WF.m, WF.opC, Bool.and_eq_true, decide_eq_true_eq] at h
  have := k.isLt
  exact narrow 0x23 (d * 2 ^ 19 + a * 2 ^ 13 + k.toNat) (by simp only [encodeWord, wordI]; try omega) (by omega) (by decide) (by decide)
theorem crd (d n : Nat) : Statement (.crd d n) := by
  intro h _
  simp only [WellFormed, WF.s, WF.o, WF.m, WF.opC, Bool.and_eq_true, decide_eq_true_eq] at h
  have := creg_lt h.2
  exact narrow 0x24 (d * 2 ^ 19 + 0 * 2 ^ 13 + n) (by simp only [encodeWord, wordI]; try omega) (by omega) (by decide) (by decide)
theorem cwr (n a : Nat) : Statement (.cwr n a) := by
  intro h _
  simp only [WellFormed, WF.s, WF.o, WF.m, WF.opC, Bool.and_eq_true, decide_eq_true_eq] at h
  have := creg_lt h.1
  exact narrow 0x25 (0 * 2 ^ 19 + a * 2 ^ 13 + n) (by simp only [encodeWord, wordI]; try omega) (by omega) (by decide) (by decide)
theorem trap (k : Nat) : Statement (.trap k) := by
  intro h _
  simp only [WellFormed, WF.s, WF.o, WF.m, WF.opC, Bool.and_eq_true, decide_eq_true_eq] at h
  exact narrow 0x26 (0 * 2 ^ 19 + 0 * 2 ^ 13 + k) (by simp only [encodeWord, wordI]; try omega) (by omega) (by decide) (by decide)
theorem rld (wd : MWidth) (d a : Nat) (k : Word) : Statement (.rld wd d a k) := by
  intro h _
  simp only [WellFormed, WF.s, WF.o, WF.m, WF.opC, Bool.and_eq_true, decide_eq_true_eq] at h
  have h1 := attr_lt .rlx .none .gl wd 0 (by decide)
  exact wide 0x27 (d * 2 ^ 19 + a * 2 ^ 13 + attr .rlx .none .gl wd 0) k.toNat (by simp only [encodeWord, wordX, wordI]; omega) (by omega) k.isLt (by decide) (by decide)
theorem rst (wd : MWidth) (d a : Nat) (k : Word) : Statement (.rst wd d a k) := by
  intro h _
  simp only [WellFormed, WF.s, WF.o, WF.m, WF.opC, Bool.and_eq_true, decide_eq_true_eq] at h
  have h1 := attr_lt .rlx .none .gl wd 0 (by decide)
  exact wide 0x28 (d * 2 ^ 19 + a * 2 ^ 13 + attr .rlx .none .gl wd 0) k.toNat (by simp only [encodeWord, wordX, wordI]; omega) (by omega) k.isLt (by decide) (by decide)
theorem ramo (op : AOp) (wd : MWidth) (d a b c : Nat) (k : BitVec 20) : Statement (.ramo op wd d a b c k) := by
  intro h _
  simp only [WellFormed, WF.s, WF.o, WF.m, WF.opC, Bool.and_eq_true, decide_eq_true_eq] at h
  have h1 := attr_lt .rlx .none .gl wd (aopCode op) (aopCode_lt op)
  have h2 := k.isLt
  exact wide 0x29 (d * 2 ^ 19 + a * 2 ^ 13 + attr .rlx .none .gl wd (aopCode op)) (b * 2 ^ 26 + c * 2 ^ 20 + k.toNat) (by simp only [encodeWord, wordX, wordI]; omega) (by omega) (by omega) (by decide) (by decide)
theorem nop : Statement .nop := by
  intro h _
  simp only [WellFormed, WF.s, WF.o, WF.m, WF.opC, Bool.and_eq_true, decide_eq_true_eq] at h
  exact narrow 2 (0 * 2 ^ 19 + 0 * 2 ^ 13 + 0 * 2 ^ 7 + 0x00) (by simp only [encodeWord, wordR]; try omega) (by omega) (by decide) (by decide)
theorem lsync : Statement .lsync := by
  intro h _
  simp only [WellFormed, WF.s, WF.o, WF.m, WF.opC, Bool.and_eq_true, decide_eq_true_eq] at h
  exact narrow 2 (0 * 2 ^ 19 + 0 * 2 ^ 13 + 0 * 2 ^ 7 + 0x01) (by simp only [encodeWord, wordR]; try omega) (by omega) (by decide) (by decide)
theorem fence (o : MOrder) (sc : MScope) : Statement (.fence o sc) := by
  intro h _
  simp only [WellFormed, WF.s, WF.o, WF.m, WF.opC, Bool.and_eq_true, decide_eq_true_eq] at h
  have := orderCode_lt o
  have := scopeCode_lt sc
  exact narrow 2 (0 * 2 ^ 19 + 0 * 2 ^ 13 + (orderCode o * 16 + scopeCode sc * 2) * 2 ^ 7 + 0x02) (by simp only [encodeWord, wordR]; try omega) (by omega) (by decide) (by decide)
theorem commit : Statement .commit := by
  intro h _
  simp only [WellFormed, WF.s, WF.o, WF.m, WF.opC, Bool.and_eq_true, decide_eq_true_eq] at h
  exact narrow 2 (0 * 2 ^ 19 + 0 * 2 ^ 13 + 0 * 2 ^ 7 + 0x03) (by simp only [encodeWord, wordR]; try omega) (by omega) (by decide) (by decide)
theorem gexit : Statement .gexit := by
  intro h _
  simp only [WellFormed, WF.s, WF.o, WF.m, WF.opC, Bool.and_eq_true, decide_eq_true_eq] at h
  exact narrow 2 (0 * 2 ^ 19 + 0 * 2 ^ 13 + 0 * 2 ^ 7 + 0x04) (by simp only [encodeWord, wordR]; try omega) (by omega) (by decide) (by decide)
theorem texit : Statement .texit := by
  intro h _
  simp only [WellFormed, WF.s, WF.o, WF.m, WF.opC, Bool.and_eq_true, decide_eq_true_eq] at h
  exact narrow 2 (0 * 2 ^ 19 + 0 * 2 ^ 13 + 0 * 2 ^ 7 + 0x05) (by simp only [encodeWord, wordR]; try omega) (by omega) (by decide) (by decide)
theorem cwait : Statement .cwait := by
  intro h _
  simp only [WellFormed, WF.s, WF.o, WF.m, WF.opC, Bool.and_eq_true, decide_eq_true_eq] at h
  exact narrow 2 (0 * 2 ^ 19 + 0 * 2 ^ 13 + 0 * 2 ^ 7 + 0x06) (by simp only [encodeWord, wordR]; try omega) (by omega) (by decide) (by decide)
theorem ret (a : Nat) : Statement (.ret a) := by
  intro h _
  simp only [WellFormed, WF.s, WF.o, WF.m, WF.opC, Bool.and_eq_true, decide_eq_true_eq] at h
  exact narrow 2 (0 * 2 ^ 19 + a * 2 ^ 13 + 0 * 2 ^ 7 + 0x07) (by simp only [encodeWord, wordR]; try omega) (by omega) (by decide) (by decide)
theorem tret : Statement .tret := by
  intro h _
  simp only [WellFormed, WF.s, WF.o, WF.m, WF.opC, Bool.and_eq_true, decide_eq_true_eq] at h
  exact narrow 2 (0 * 2 ^ 19 + 0 * 2 ^ 13 + 0 * 2 ^ 7 + 0x08) (by simp only [encodeWord, wordR]; try omega) (by omega) (by decide) (by decide)
theorem hret : Statement .hret := by
  intro h _
  simp only [WellFormed, WF.s, WF.o, WF.m, WF.opC, Bool.and_eq_true, decide_eq_true_eq] at h
  exact narrow 2 (0 * 2 ^ 19 + 0 * 2 ^ 13 + 0 * 2 ^ 7 + 0x09) (by simp only [encodeWord, wordR]; try omega) (by omega) (by decide) (by decide)
theorem pdone : Statement .pdone := by
  intro h _
  simp only [WellFormed, WF.s, WF.o, WF.m, WF.opC, Bool.and_eq_true, decide_eq_true_eq] at h
  exact narrow 2 (0 * 2 ^ 19 + 0 * 2 ^ 13 + 0 * 2 ^ 7 + 0x0A) (by simp only [encodeWord, wordR]; try omega) (by omega) (by decide) (by decide)
theorem replay : Statement .replay := by
  intro h _
  simp only [WellFormed, WF.s, WF.o, WF.m, WF.opC, Bool.and_eq_true, decide_eq_true_eq] at h
  exact narrow 2 (0 * 2 ^ 19 + 0 * 2 ^ 13 + 0 * 2 ^ 7 + 0x0B) (by simp only [encodeWord, wordR]; try omega) (by omega) (by decide) (by decide)
theorem ostop (a : Nat) : Statement (.ostop a) := by
  intro h _
  simp only [WellFormed, WF.s, WF.o, WF.m, WF.opC, Bool.and_eq_true, decide_eq_true_eq] at h
  exact narrow 2 (0 * 2 ^ 19 + a * 2 ^ 13 + 0 * 2 ^ 7 + 0x0C) (by simp only [encodeWord, wordR]; try omega) (by omega) (by decide) (by decide)
theorem tinv (a b : Nat) : Statement (.tinv a b) := by
  intro h _
  simp only [WellFormed, WF.s, WF.o, WF.m, WF.opC, Bool.and_eq_true, decide_eq_true_eq] at h
  exact narrow 2 (0 * 2 ^ 19 + a * 2 ^ 13 + b * 2 ^ 7 + 0x0D) (by simp only [encodeWord, wordR]; try omega) (by omega) (by decide) (by decide)
theorem fgrow (a b : Nat) : Statement (.fgrow a b) := by
  intro h _
  simp only [WellFormed, WF.s, WF.o, WF.m, WF.opC, Bool.and_eq_true, decide_eq_true_eq] at h
  exact narrow 2 (0 * 2 ^ 19 + a * 2 ^ 13 + b * 2 ^ 7 + 0x0E) (by simp only [encodeWord, wordR]; try omega) (by omega) (by decide) (by decide)
theorem frel (a b : Nat) : Statement (.frel a b) := by
  intro h _
  simp only [WellFormed, WF.s, WF.o, WF.m, WF.opC, Bool.and_eq_true, decide_eq_true_eq] at h
  exact narrow 2 (0 * 2 ^ 19 + a * 2 ^ 13 + b * 2 ^ 7 + 0x0F) (by simp only [encodeWord, wordR]; try omega) (by omega) (by decide) (by decide)
theorem ckinj (a b : Nat) : Statement (.ckinj a b) := by
  intro h _
  simp only [WellFormed, WF.s, WF.o, WF.m, WF.opC, Bool.and_eq_true, decide_eq_true_eq] at h
  exact narrow 2 (0 * 2 ^ 19 + a * 2 ^ 13 + b * 2 ^ 7 + 0x10) (by simp only [encodeWord, wordR]; try omega) (by omega) (by decide) (by decide)
theorem pair : Statement .pair := by
  intro h _
  simp only [WellFormed, WF.s, WF.o, WF.m, WF.opC, Bool.and_eq_true, decide_eq_true_eq] at h
  exact narrow 2 (0 * 2 ^ 19 + 0 * 2 ^ 13 + 0 * 2 ^ 7 + 0x11) (by simp only [encodeWord, wordR]; try omega) (by omega) (by decide) (by decide)
theorem launch (a : Nat) : Statement (.launch a) := by
  intro h _
  simp only [WellFormed, WF.s, WF.o, WF.m, WF.opC, Bool.and_eq_true, decide_eq_true_eq] at h
  exact narrow 2 (0 * 2 ^ 19 + a * 2 ^ 13 + 0 * 2 ^ 7 + 0x12) (by simp only [encodeWord, wordR]; try omega) (by omega) (by decide) (by decide)
theorem spawn (d a b : Nat) : Statement (.spawn d a b) := by
  intro h _
  simp only [WellFormed, WF.s, WF.o, WF.m, WF.opC, Bool.and_eq_true, decide_eq_true_eq] at h
  exact narrow 2 (d * 2 ^ 19 + a * 2 ^ 13 + b * 2 ^ 7 + 0x13) (by simp only [encodeWord, wordR]; try omega) (by omega) (by decide) (by decide)
theorem qpost (d a b : Nat) : Statement (.qpost d a b) := by
  intro h _
  simp only [WellFormed, WF.s, WF.o, WF.m, WF.opC, Bool.and_eq_true, decide_eq_true_eq] at h
  exact narrow 2 (d * 2 ^ 19 + a * 2 ^ 13 + b * 2 ^ 7 + 0x14) (by simp only [encodeWord, wordR]; try omega) (by omega) (by decide) (by decide)
theorem waitk (a : Nat) : Statement (.waitk a) := by
  intro h _
  simp only [WellFormed, WF.s, WF.o, WF.m, WF.opC, Bool.and_eq_true, decide_eq_true_eq] at h
  exact narrow 2 (0 * 2 ^ 19 + a * 2 ^ 13 + 0 * 2 ^ 7 + 0x15) (by simp only [encodeWord, wordR]; try omega) (by omega) (by decide) (by decide)
theorem coll (d a : Nat) : Statement (.coll d a) := by
  intro h _
  simp only [WellFormed, WF.s, WF.o, WF.m, WF.opC, Bool.and_eq_true, decide_eq_true_eq] at h
  exact narrow 2 (d * 2 ^ 19 + a * 2 ^ 13 + 0 * 2 ^ 7 + 0x16) (by simp only [encodeWord, wordR]; try omega) (by omega) (by decide) (by decide)
theorem pset (a b : Nat) : Statement (.pset a b) := by
  intro h _
  simp only [WellFormed, WF.s, WF.o, WF.m, WF.opC, Bool.and_eq_true, decide_eq_true_eq] at h
  exact narrow 2 (0 * 2 ^ 19 + a * 2 ^ 13 + b * 2 ^ 7 + 0x17) (by simp only [encodeWord, wordR]; try omega) (by omega) (by decide) (by decide)
theorem fxfer (a b : Nat) : Statement (.fxfer a b) := by
  intro h _
  simp only [WellFormed, WF.s, WF.o, WF.m, WF.opC, Bool.and_eq_true, decide_eq_true_eq] at h
  exact narrow 2 (0 * 2 ^ 19 + a * 2 ^ 13 + b * 2 ^ 7 + 0x18) (by simp only [encodeWord, wordR]; try omega) (by omega) (by decide) (by decide)
theorem aset (n a b : Nat) : Statement (.aset n a b) := by
  intro h _
  simp only [WellFormed, WF.s, WF.o, WF.m, WF.opC, Bool.and_eq_true, decide_eq_true_eq] at h
  exact narrow 2 (n * 2 ^ 19 + a * 2 ^ 13 + b * 2 ^ 7 + 0x20) (by simp only [encodeWord, wordR]; try omega) (by omega) (by decide) (by decide)
theorem astep (n a : Nat) : Statement (.astep n a) := by
  intro h _
  simp only [WellFormed, WF.s, WF.o, WF.m, WF.opC, Bool.and_eq_true, decide_eq_true_eq] at h
  exact narrow 2 (n * 2 ^ 19 + a * 2 ^ 13 + 0 * 2 ^ 7 + 0x21) (by simp only [encodeWord, wordR]; try omega) (by omega) (by decide) (by decide)
theorem aload (q n : Nat) : Statement (.aload q n) := by
  intro h _
  simp only [WellFormed, WF.s, WF.o, WF.m, WF.opC, Bool.and_eq_true, decide_eq_true_eq] at h
  exact narrow 2 (q * 2 ^ 19 + n * 2 ^ 13 + 0 * 2 ^ 7 + 0x22) (by simp only [encodeWord, wordR]; try omega) (by omega) (by decide) (by decide)
theorem mset (m a : Nat) : Statement (.mset m a) := by
  intro h _
  simp only [WellFormed, WF.s, WF.o, WF.m, WF.opC, Bool.and_eq_true, decide_eq_true_eq] at h
  exact narrow 2 (m * 2 ^ 19 + a * 2 ^ 13 + 0 * 2 ^ 7 + 0x28) (by simp only [encodeWord, wordR]; try omega) (by omega) (by decide) (by decide)
theorem mand (m i j : Nat) : Statement (.mand m i j) := by
  intro h _
  simp only [WellFormed, WF.s, WF.o, WF.m, WF.opC, Bool.and_eq_true, decide_eq_true_eq] at h
  exact narrow 2 (m * 2 ^ 19 + i * 2 ^ 13 + j * 2 ^ 7 + 0x29) (by simp only [encodeWord, wordR]; try omega) (by omega) (by decide) (by decide)
theorem mor (m i j : Nat) : Statement (.mor m i j) := by
  intro h _
  simp only [WellFormed, WF.s, WF.o, WF.m, WF.opC, Bool.and_eq_true, decide_eq_true_eq] at h
  exact narrow 2 (m * 2 ^ 19 + i * 2 ^ 13 + j * 2 ^ 7 + 0x2A) (by simp only [encodeWord, wordR]; try omega) (by omega) (by decide) (by decide)
theorem mxor (m i j : Nat) : Statement (.mxor m i j) := by
  intro h _
  simp only [WellFormed, WF.s, WF.o, WF.m, WF.opC, Bool.and_eq_true, decide_eq_true_eq] at h
  exact narrow 2 (m * 2 ^ 19 + i * 2 ^ 13 + j * 2 ^ 7 + 0x2B) (by simp only [encodeWord, wordR]; try omega) (by omega) (by decide) (by decide)
theorem mnot (m i : Nat) : Statement (.mnot m i) := by
  intro h _
  simp only [WellFormed, WF.s, WF.o, WF.m, WF.opC, Bool.and_eq_true, decide_eq_true_eq] at h
  exact narrow 2 (m * 2 ^ 19 + i * 2 ^ 13 + 0 * 2 ^ 7 + 0x2C) (by simp only [encodeWord, wordR]; try omega) (by omega) (by decide) (by decide)
theorem mcnt (d m : Nat) : Statement (.mcnt d m) := by
  intro h _
  simp only [WellFormed, WF.s, WF.o, WF.m, WF.opC, Bool.and_eq_true, decide_eq_true_eq] at h
  exact narrow 2 (d * 2 ^ 19 + m * 2 ^ 13 + 0 * 2 ^ 7 + 0x2D) (by simp only [encodeWord, wordR]; try omega) (by omega) (by decide) (by decide)
theorem mfirst (d m : Nat) : Statement (.mfirst d m) := by
  intro h _
  simp only [WellFormed, WF.s, WF.o, WF.m, WF.opC, Bool.and_eq_true, decide_eq_true_eq] at h
  exact narrow 2 (d * 2 ^ 19 + m * 2 ^ 13 + 0 * 2 ^ 7 + 0x2E) (by simp only [encodeWord, wordR]; try omega) (by omega) (by decide) (by decide)
theorem cpy (d a b : Nat) : Statement (.cpy d a b) := by
  intro h _
  simp only [WellFormed, WF.s, WF.o, WF.m, WF.opC, Bool.and_eq_true, decide_eq_true_eq] at h
  exact narrow 2 (d * 2 ^ 19 + a * 2 ^ 13 + b * 2 ^ 7 + 0x30) (by simp only [encodeWord, wordR]; try omega) (by omega) (by decide) (by decide)
theorem cpy2 (d a b : Nat) : Statement (.cpy2 d a b) := by
  intro h _
  simp only [WellFormed, WF.s, WF.o, WF.m, WF.opC, Bool.and_eq_true, decide_eq_true_eq] at h
  exact narrow 2 (d * 2 ^ 19 + a * 2 ^ 13 + b * 2 ^ 7 + 0x31) (by simp only [encodeWord, wordR]; try omega) (by omega) (by decide) (by decide)
theorem cpy3 (d a b : Nat) : Statement (.cpy3 d a b) := by
  intro h _
  simp only [WellFormed, WF.s, WF.o, WF.m, WF.opC, Bool.and_eq_true, decide_eq_true_eq] at h
  exact narrow 2 (d * 2 ^ 19 + a * 2 ^ 13 + b * 2 ^ 7 + 0x32) (by simp only [encodeWord, wordR]; try omega) (by omega) (by decide) (by decide)
theorem bclose (d : Nat) : Statement (.bclose d) := by
  intro h _
  simp only [WellFormed, WF.s, WF.o, WF.m, WF.opC, Bool.and_eq_true, decide_eq_true_eq] at h
  exact narrow 2 (d * 2 ^ 19 + 0 * 2 ^ 13 + 0 * 2 ^ 7 + 0x33) (by simp only [encodeWord, wordR]; try omega) (by omega) (by decide) (by decide)
theorem waitb (a : Nat) : Statement (.waitb a) := by
  intro h _
  simp only [WellFormed, WF.s, WF.o, WF.m, WF.opC, Bool.and_eq_true, decide_eq_true_eq] at h
  exact narrow 2 (0 * 2 ^ 19 + a * 2 ^ 13 + 0 * 2 ^ 7 + 0x34) (by simp only [encodeWord, wordR]; try omega) (by omega) (by decide) (by decide)
theorem barinit (a b : Nat) : Statement (.barinit a b) := by
  intro h _
  simp only [WellFormed, WF.s, WF.o, WF.m, WF.opC, Bool.and_eq_true, decide_eq_true_eq] at h
  exact narrow 2 (0 * 2 ^ 19 + a * 2 ^ 13 + b * 2 ^ 7 + 0x38) (by simp only [encodeWord, wordR]; try omega) (by omega) (by decide) (by decide)
theorem arrive (a b : Nat) : Statement (.arrive a b) := by
  intro h _
  simp only [WellFormed, WF.s, WF.o, WF.m, WF.opC, Bool.and_eq_true, decide_eq_true_eq] at h
  exact narrow 2 (0 * 2 ^ 19 + a * 2 ^ 13 + b * 2 ^ 7 + 0x39) (by simp only [encodeWord, wordR]; try omega) (by omega) (by decide) (by decide)
theorem bwait (a : Nat) : Statement (.bwait a) := by
  intro h _
  simp only [WellFormed, WF.s, WF.o, WF.m, WF.opC, Bool.and_eq_true, decide_eq_true_eq] at h
  exact narrow 2 (0 * 2 ^ 19 + a * 2 ^ 13 + 0 * 2 ^ 7 + 0x3A) (by simp only [encodeWord, wordR]; try omega) (by omega) (by decide) (by decide)
theorem arrivew (a b : Nat) : Statement (.arrivew a b) := by
  intro h _
  simp only [WellFormed, WF.s, WF.o, WF.m, WF.opC, Bool.and_eq_true, decide_eq_true_eq] at h
  exact narrow 2 (0 * 2 ^ 19 + a * 2 ^ 13 + b * 2 ^ 7 + 0x3B) (by simp only [encodeWord, wordR]; try omega) (by omega) (by decide) (by decide)
theorem bmin (k a b : Nat) : Statement (.bmin k a b) := by
  intro h _
  simp only [WellFormed, WF.s, WF.o, WF.m, WF.opC, Bool.and_eq_true, decide_eq_true_eq] at h
  exact narrow 2 (k * 2 ^ 19 + a * 2 ^ 13 + b * 2 ^ 7 + 0x3C) (by simp only [encodeWord, wordR]; try omega) (by omega) (by decide) (by decide)
theorem bread (d k : Nat) : Statement (.bread d k) := by
  intro h _
  simp only [WellFormed, WF.s, WF.o, WF.m, WF.opC, Bool.and_eq_true, decide_eq_true_eq] at h
  exact narrow 2 (d * 2 ^ 19 + 0 * 2 ^ 13 + k * 2 ^ 7 + 0x3D) (by simp only [encodeWord, wordR]; try omega) (by omega) (by decide) (by decide)
theorem vwait (d a b : Nat) : Statement (.vwait d a b) := by
  intro h _
  simp only [WellFormed, WF.s, WF.o, WF.m, WF.opC, Bool.and_eq_true, decide_eq_true_eq] at h
  exact narrow 2 (d * 2 ^ 19 + a * 2 ^ 13 + b * 2 ^ 7 + 0x3E) (by simp only [encodeWord, wordR]; try omega) (by omega) (by decide) (by decide)
theorem vwake (d a b : Nat) : Statement (.vwake d a b) := by
  intro h _
  simp only [WellFormed, WF.s, WF.o, WF.m, WF.opC, Bool.and_eq_true, decide_eq_true_eq] at h
  exact narrow 2 (d * 2 ^ 19 + a * 2 ^ 13 + b * 2 ^ 7 + 0x3F) (by simp only [encodeWord, wordR]; try omega) (by omega) (by decide) (by decide)
theorem dqpush (f a b : Nat) : Statement (.dqpush f a b) := by
  intro h _
  simp only [WellFormed, WF.s, WF.o, WF.m, WF.opC, Bool.and_eq_true, decide_eq_true_eq] at h
  exact narrow 2 (f * 2 ^ 19 + a * 2 ^ 13 + b * 2 ^ 7 + 0x40) (by simp only [encodeWord, wordR]; try omega) (by omega) (by decide) (by decide)
theorem dqpop (d a f : Nat) : Statement (.dqpop d a f) := by
  intro h _
  simp only [WellFormed, WF.s, WF.o, WF.m, WF.opC, Bool.and_eq_true, decide_eq_true_eq] at h
  exact narrow 2 (d * 2 ^ 19 + a * 2 ^ 13 + f * 2 ^ 7 + 0x41) (by simp only [encodeWord, wordR]; try omega) (by omega) (by decide) (by decide)
theorem dqsteal (d a f : Nat) : Statement (.dqsteal d a f) := by
  intro h _
  simp only [WellFormed, WF.s, WF.o, WF.m, WF.opC, Bool.and_eq_true, decide_eq_true_eq] at h
  exact narrow 2 (d * 2 ^ 19 + a * 2 ^ 13 + f * 2 ^ 7 + 0x42) (by simp only [encodeWord, wordR]; try omega) (by omega) (by decide) (by decide)
theorem vadd (d : LDest) (a b : LSrc) (p : LPred) (imm : Word) : Statement (.vadd d a b p imm) := by
  intro _ _
  obtain ⟨r', hr⟩ := lane_op _ _ _ _ _ _ _ _
  exact lane _ _ hr (by omega)
theorem vsub (d : LDest) (a b : LSrc) (p : LPred) (imm : Word) : Statement (.vsub d a b p imm) := by
  intro _ _
  obtain ⟨r', hr⟩ := lane_op _ _ _ _ _ _ _ _
  exact lane _ _ hr (by omega)
theorem vmul (d : LDest) (a b : LSrc) (p : LPred) (imm : Word) : Statement (.vmul d a b p imm) := by
  intro _ _
  obtain ⟨r', hr⟩ := lane_op _ _ _ _ _ _ _ _
  exact lane _ _ hr (by omega)
theorem vmulh (uns : Bool) (d : LDest) (a b : LSrc) (p : LPred) (imm : Word) : Statement (.vmulh uns d a b p imm) := by
  intro _ _
  obtain ⟨r', hr⟩ := lane_op _ _ _ _ _ _ _ _
  exact lane _ _ hr (by omega)
theorem vmad (d : LDest) (a b c : LSrc) (p : LPred) (imm : Word) : Statement (.vmad d a b c p imm) := by
  intro _ _
  obtain ⟨r', hr⟩ := lane_op _ _ _ _ _ _ _ _
  exact lane _ _ hr (by omega)
theorem vmin (uns : Bool) (d : LDest) (a b : LSrc) (p : LPred) (imm : Word) : Statement (.vmin uns d a b p imm) := by
  intro _ _
  obtain ⟨r', hr⟩ := lane_op _ _ _ _ _ _ _ _
  exact lane _ _ hr (by omega)
theorem vmax (uns : Bool) (d : LDest) (a b : LSrc) (p : LPred) (imm : Word) : Statement (.vmax uns d a b p imm) := by
  intro _ _
  obtain ⟨r', hr⟩ := lane_op _ _ _ _ _ _ _ _
  exact lane _ _ hr (by omega)
theorem vand (d : LDest) (a b : LSrc) (p : LPred) (imm : Word) : Statement (.vand d a b p imm) := by
  intro _ _
  obtain ⟨r', hr⟩ := lane_op _ _ _ _ _ _ _ _
  exact lane _ _ hr (by omega)
theorem vor (d : LDest) (a b : LSrc) (p : LPred) (imm : Word) : Statement (.vor d a b p imm) := by
  intro _ _
  obtain ⟨r', hr⟩ := lane_op _ _ _ _ _ _ _ _
  exact lane _ _ hr (by omega)
theorem vxor (d : LDest) (a b : LSrc) (p : LPred) (imm : Word) : Statement (.vxor d a b p imm) := by
  intro _ _
  obtain ⟨r', hr⟩ := lane_op _ _ _ _ _ _ _ _
  exact lane _ _ hr (by omega)
theorem vnot (d : LDest) (a : LSrc) (p : LPred) (imm : Word) : Statement (.vnot d a p imm) := by
  intro _ _
  obtain ⟨r', hr⟩ := lane_op _ _ _ _ _ _ _ _
  exact lane _ _ hr (by omega)
theorem vshl (d : LDest) (a b : LSrc) (p : LPred) (imm : Word) : Statement (.vshl d a b p imm) := by
  intro _ _
  obtain ⟨r', hr⟩ := lane_op _ _ _ _ _ _ _ _
  exact lane _ _ hr (by omega)
theorem vshr (d : LDest) (a b : LSrc) (p : LPred) (imm : Word) : Statement (.vshr d a b p imm) := by
  intro _ _
  obtain ⟨r', hr⟩ := lane_op _ _ _ _ _ _ _ _
  exact lane _ _ hr (by omega)
theorem vsar (d : LDest) (a b : LSrc) (p : LPred) (imm : Word) : Statement (.vsar d a b p imm) := by
  intro _ _
  obtain ⟨r', hr⟩ := lane_op _ _ _ _ _ _ _ _
  exact lane _ _ hr (by omega)
theorem vpopc (d : LDest) (a : LSrc) (p : LPred) (imm : Word) : Statement (.vpopc d a p imm) := by
  intro _ _
  obtain ⟨r', hr⟩ := lane_op _ _ _ _ _ _ _ _
  exact lane _ _ hr (by omega)
theorem vclz (d : LDest) (a : LSrc) (p : LPred) (imm : Word) : Statement (.vclz d a p imm) := by
  intro _ _
  obtain ⟨r', hr⟩ := lane_op _ _ _ _ _ _ _ _
  exact lane _ _ hr (by omega)
theorem vcmp (cc : Cond) (d : Nat) (a b : LSrc) (p : LPred) (imm : Word) : Statement (.vcmp cc d a b p imm) := by
  intro _ _
  obtain ⟨r', hr⟩ := lane_op _ _ _ _ _ _ _ _
  exact lane _ _ hr (by omega)
theorem vsel (neg : Bool) (k : Nat) (d : LDest) (a b : LSrc) (p : LPred) (imm : Word) : Statement (.vsel neg k d a b p imm) := by
  intro _ _
  obtain ⟨r', hr⟩ := lane_op _ _ _ _ _ _ _ _
  exact lane _ _ hr (by omega)
theorem vmov (d : LDest) (a : LSrc) (p : LPred) (imm : Word) : Statement (.vmov d a p imm) := by
  intro _ _
  obtain ⟨r', hr⟩ := lane_op _ _ _ _ _ _ _ _
  exact lane _ _ hr (by omega)
theorem vfadd (r : Rnd) (d : LDest) (a b : LSrc) (p : LPred) (imm : Word) : Statement (.vfadd r d a b p imm) := by
  intro _ _
  obtain ⟨r', hr⟩ := lane_op _ _ _ _ _ _ _ _
  exact lane _ _ hr (by omega)
theorem vfsub (r : Rnd) (d : LDest) (a b : LSrc) (p : LPred) (imm : Word) : Statement (.vfsub r d a b p imm) := by
  intro _ _
  obtain ⟨r', hr⟩ := lane_op _ _ _ _ _ _ _ _
  exact lane _ _ hr (by omega)
theorem vfmul (r : Rnd) (d : LDest) (a b : LSrc) (p : LPred) (imm : Word) : Statement (.vfmul r d a b p imm) := by
  intro _ _
  obtain ⟨r', hr⟩ := lane_op _ _ _ _ _ _ _ _
  exact lane _ _ hr (by omega)
theorem vffma (r : Rnd) (d : LDest) (a b c : LSrc) (p : LPred) (imm : Word) : Statement (.vffma r d a b c p imm) := by
  intro _ _
  obtain ⟨r', hr⟩ := lane_op _ _ _ _ _ _ _ _
  exact lane _ _ hr (by omega)
theorem vfmin (d : LDest) (a b : LSrc) (p : LPred) (imm : Word) : Statement (.vfmin d a b p imm) := by
  intro _ _
  obtain ⟨r', hr⟩ := lane_op _ _ _ _ _ _ _ _
  exact lane _ _ hr (by omega)
theorem vfmax (d : LDest) (a b : LSrc) (p : LPred) (imm : Word) : Statement (.vfmax d a b p imm) := by
  intro _ _
  obtain ⟨r', hr⟩ := lane_op _ _ _ _ _ _ _ _
  exact lane _ _ hr (by omega)
theorem vfcmp (cc : FCond) (d : Nat) (a b : LSrc) (p : LPred) (imm : Word) : Statement (.vfcmp cc d a b p imm) := by
  intro _ _
  obtain ⟨r', hr⟩ := lane_op _ _ _ _ _ _ _ _
  exact lane _ _ hr (by omega)
theorem vfrcp (d : LDest) (a : LSrc) (p : LPred) (imm : Word) : Statement (.vfrcp d a p imm) := by
  intro _ _
  obtain ⟨r', hr⟩ := lane_op _ _ _ _ _ _ _ _
  exact lane _ _ hr (by omega)
theorem vfrsq (d : LDest) (a : LSrc) (p : LPred) (imm : Word) : Statement (.vfrsq d a p imm) := by
  intro _ _
  obtain ⟨r', hr⟩ := lane_op _ _ _ _ _ _ _ _
  exact lane _ _ hr (by omega)
theorem vfsqrt (r : Rnd) (d : LDest) (a : LSrc) (p : LPred) (imm : Word) : Statement (.vfsqrt r d a p imm) := by
  intro _ _
  obtain ⟨r', hr⟩ := lane_op _ _ _ _ _ _ _ _
  exact lane _ _ hr (by omega)
theorem vfex2 (d : LDest) (a : LSrc) (p : LPred) (imm : Word) : Statement (.vfex2 d a p imm) := by
  intro _ _
  obtain ⟨r', hr⟩ := lane_op _ _ _ _ _ _ _ _
  exact lane _ _ hr (by omega)
theorem vflg2 (d : LDest) (a : LSrc) (p : LPred) (imm : Word) : Statement (.vflg2 d a p imm) := by
  intro _ _
  obtain ⟨r', hr⟩ := lane_op _ _ _ _ _ _ _ _
  exact lane _ _ hr (by omega)
theorem vfsin (d : LDest) (a : LSrc) (p : LPred) (imm : Word) : Statement (.vfsin d a p imm) := by
  intro _ _
  obtain ⟨r', hr⟩ := lane_op _ _ _ _ _ _ _ _
  exact lane _ _ hr (by omega)
theorem vfcos (d : LDest) (a : LSrc) (p : LPred) (imm : Word) : Statement (.vfcos d a p imm) := by
  intro _ _
  obtain ⟨r', hr⟩ := lane_op _ _ _ _ _ _ _ _
  exact lane _ _ hr (by omega)
theorem vcvt (tf frm : Fmt) (r : Rnd) (d : LDest) (a : LSrc) (e : Nat) (p : LPred) : Statement (.vcvt tf frm r d a e p) := by
  intro _ _
  obtain ⟨r', hr⟩ := lane_op _ _ _ _ _ _ _ _
  exact lane _ _ hr (by omega)
theorem vdot4 (f : Fmt) (d : LDest) (a b c : LSrc) (p : LPred) (imm : Word) : Statement (.vdot4 f d a b c p imm) := by
  intro _ _
  obtain ⟨r', hr⟩ := lane_op _ _ _ _ _ _ _ _
  exact lane _ _ hr (by omega)
theorem vdot8 (f : Fmt) (d : LDest) (a b c : LSrc) (p : LPred) (imm : Word) : Statement (.vdot8 f d a b c p imm) := by
  intro _ _
  obtain ⟨r', hr⟩ := lane_op _ _ _ _ _ _ _ _
  exact lane _ _ hr (by omega)
theorem vscacc (d : LDest) (a b c : LSrc) (abyte bbyte blane : Nat) (p : LPred) : Statement (.vscacc d a b c abyte bbyte blane p) := by
  intro _ _
  obtain ⟨r', hr⟩ := lane_op _ _ _ _ _ _ _ _
  exact lane _ _ hr (by omega)
theorem vshfl (mode : ShflMode) (d : LDest) (a b : LSrc) (p : LPred) (imm : Word) : Statement (.vshfl mode d a b p imm) := by
  intro _ _
  obtain ⟨r', hr⟩ := lane_op _ _ _ _ _ _ _ _
  exact lane _ _ hr (by omega)
theorem vvote (mode : VoteMode) (d : LDest) (a : LSrc) (p : LPred) (imm : Word) : Statement (.vvote mode d a p imm) := by
  intro _ _
  obtain ⟨r', hr⟩ := lane_op _ _ _ _ _ _ _ _
  exact lane _ _ hr (by omega)
theorem vred (op : RedOp) (d : LDest) (a : LSrc) (p : LPred) (imm : Word) : Statement (.vred op d a p imm) := by
  intro _ _
  obtain ⟨r', hr⟩ := lane_op _ _ _ _ _ _ _ _
  exact lane _ _ hr (by omega)
theorem vscan (d : LDest) (a : LSrc) (p : LPred) (imm : Word) : Statement (.vscan d a p imm) := by
  intro _ _
  obtain ⟨r', hr⟩ := lane_op _ _ _ _ _ _ _ _
  exact lane _ _ hr (by omega)
theorem vbr (p : LPred) (target join : BitVec 16) : Statement (.vbr p target join) := by
  intro _ _
  obtain ⟨r', hr⟩ := lane_op _ _ _ _ _ _ _ _
  exact lane _ _ hr (by omega)
theorem vjoin (p : LPred) (target : BitVec 16) : Statement (.vjoin p target) := by
  intro _ _
  obtain ⟨r', hr⟩ := lane_op _ _ _ _ _ _ _ _
  exact lane _ _ hr (by omega)
theorem vend : Statement .vend := by
  intro _ _
  rfl
theorem vld (wd : MWidth) (sx : Bool) (o : MOrder) (sc : MScope) (ms : Space) (d : LDest) (a : Nat) (p : LPred) (k : Word) : Statement (.vld wd sx o sc ms d a p k) := by
  intro _ _
  obtain ⟨r', hr⟩ := lane_op _ _ _ _ _ _ _ _
  exact lane _ _ hr (by omega)
theorem vst (wd : MWidth) (o : MOrder) (sc : MScope) (ms : Space) (a : Nat) (b : LSrc) (p : LPred) (k : Word) : Statement (.vst wd o sc ms a b p k) := by
  intro _ _
  obtain ⟨r', hr⟩ := lane_op _ _ _ _ _ _ _ _
  exact lane _ _ hr (by omega)
theorem vamo (op : AOp) (o : MOrder) (sc : MScope) (ms : Space) (d : LDest) (a : Nat) (b c : LSrc) (p : LPred) (k : Word) : Statement (.vamo op o sc ms d a b c p k) := by
  intro _ _
  obtain ⟨r', hr⟩ := lane_op _ _ _ _ _ _ _ _
  exact lane _ _ hr (by omega)
theorem vldc (fam : Fam) (n : Nat) (rn : Bool) (ms : Space) (d : LDest) (a : Nat) (p : LPred) (k : Word) : Statement (.vldc fam n rn ms d a p k) := by
  intro _ _
  obtain ⟨r', hr⟩ := lane_op _ _ _ _ _ _ _ _
  exact lane _ _ hr (by omega)
theorem vstc (fam : Fam) (n : Nat) (ms : Space) (a b : Nat) (p : LPred) (k : Word) : Statement (.vstc fam n ms a b p k) := by
  intro _ _
  obtain ⟨r', hr⟩ := lane_op _ _ _ _ _ _ _ _
  exact lane _ _ hr (by omega)
theorem vcupd (fam : Fam) (ms : Space) (a b : Nat) (p : LPred) (k : Word) : Statement (.vcupd fam ms a b p k) := by
  intro _ _
  obtain ⟨r', hr⟩ := lane_op _ _ _ _ _ _ _ _
  exact lane _ _ hr (by omega)
theorem vmma (fa fb : Fmt) (d a b : Nat) (p : LPred) : Statement (.vmma fa fb d a b p) := by
  intro _ _
  obtain ⟨r', hr⟩ := lane_op _ _ _ _ _ _ _ _
  exact lane _ _ hr (by omega)
theorem vmmas (fa fb : Fmt) (d sA sDA sB sDB : Nat) (p : LPred) : Statement (.vmmas fa fb d sA sDA sB sDB p) := by
  intro _ _
  obtain ⟨r', hr⟩ := lane_op _ _ _ _ _ _ _ _
  exact lane _ _ hr (by omega)
theorem vmmap (fa fb : Fmt) (d a b : Nat) (p : LPred) : Statement (.vmmap fa fb d a b p) := by
  intro _ _
  obtain ⟨r', hr⟩ := lane_op _ _ _ _ _ _ _ _
  exact lane _ _ hr (by omega)
theorem vptest (d : Nat) (a : LSrc) (p : LPred) (imm : Word) : Statement (.vptest d a p imm) := by
  intro _ _
  obtain ⟨r', hr⟩ := lane_op _ _ _ _ _ _ _ _
  exact lane _ _ hr (by omega)
theorem vpoison (d : LDest) (a : LSrc) (p : LPred) (imm : Word) : Statement (.vpoison d a p imm) := by
  intro _ _
  obtain ⟨r', hr⟩ := lane_op _ _ _ _ _ _ _ _
  exact lane _ _ hr (by omega)
theorem laneBlockStart (g : Nat) : Statement (.laneBlockStart g) := by intro _ h; simp [hasWord] at h
theorem activeSetFill (core : Nat) : Statement (.activeSetFill core) := by intro _ h; simp [hasWord] at h
theorem pathRotation (g : Nat) : Statement (.pathRotation g) := by intro _ h; simp [hasWord] at h
theorem preemptBudgetExpiry (g : Nat) : Statement (.preemptBudgetExpiry g) := by intro _ h; simp [hasWord] at h
theorem pairTimeout (g : Nat) : Statement (.pairTimeout g) := by intro _ h; simp [hasWord] at h
theorem vmmapTimeout (g : Nat) : Statement (.vmmapTimeout g) := by intro _ h; simp [hasWord] at h
theorem matrixComplete (m : Nat) : Statement (.matrixComplete m) := by intro _ h; simp [hasWord] at h
theorem mirrorPush (n : Nat) : Statement (.mirrorPush n) := by intro _ h; simp [hasWord] at h
theorem checkRetry (g : Nat) : Statement (.checkRetry g) := by intro _ h; simp [hasWord] at h
theorem walk (o : Nat) (va : DWord) (kind : Nat) (lvl : Nat) : Statement (.walk o va kind lvl) := by intro _ h; simp [hasWord] at h
theorem walkCycleLimit (o : Nat) (va : DWord) : Statement (.walkCycleLimit o va) := by intro _ h; simp [hasWord] at h
theorem parkSlotAcquired (g : Nat) : Statement (.parkSlotAcquired g) := by intro _ h; simp [hasWord] at h
theorem engineFaultDelivery (g : Nat) : Statement (.engineFaultDelivery g) := by intro _ h; simp [hasWord] at h
theorem copyChunk (c : Nat) : Statement (.copyChunk c) := by intro _ h; simp [hasWord] at h
theorem collectiveTimeout (c : Nat) : Statement (.collectiveTimeout c) := by intro _ h; simp [hasWord] at h
theorem takeLaunchRecord (die : Nat) : Statement (.takeLaunchRecord die) := by intro _ h; simp [hasWord] at h
theorem kernelPlacementCheck (k : Nat) : Statement (.kernelPlacementCheck k) := by intro _ h; simp [hasWord] at h
theorem placeTeamSet (k die clus : Nat) (cores : List Nat) : Statement (.placeTeamSet k die clus cores) := by intro _ h; simp [hasWord] at h
theorem sliceStart (o : Nat) : Statement (.sliceStart o) := by intro _ h; simp [hasWord] at h
theorem sliceEnd (o : Nat) : Statement (.sliceEnd o) := by intro _ h; simp [hasWord] at h
theorem ownerCreate (o : Nat) (spec : OwnerSpec) : Statement (.ownerCreate o spec) := by intro _ h; simp [hasWord] at h
theorem stopSequenceComplete (o : Nat) : Statement (.stopSequenceComplete o) := by intro _ h; simp [hasWord] at h
theorem vreqActivate (o : Nat) : Statement (.vreqActivate o) := by intro _ h; simp [hasWord] at h
theorem vreqStop (o : Nat) : Statement (.vreqStop o) := by intro _ h; simp [hasWord] at h
theorem vreqResume (o : Nat) : Statement (.vreqResume o) := by intro _ h; simp [hasWord] at h
theorem vreqTeardown (o : Nat) : Statement (.vreqTeardown o) := by intro _ h; simp [hasWord] at h
theorem qbind (o : Nat) (desc : DWord) (q : Nat) : Statement (.qbind o desc q) := by intro _ h; simp [hasWord] at h
theorem queueUnbind (q : Nat) : Statement (.queueUnbind q) := by intro _ h; simp [hasWord] at h
theorem communicatorSetup (o : Nat) (desc : DWord) (contexts : Nat) : Statement (.communicatorSetup o desc contexts) := by intro _ h; simp [hasWord] at h
theorem communicatorDelete (o : Nat) (desc : DWord) : Statement (.communicatorDelete o desc) := by intro _ h; simp [hasWord] at h
theorem exportRequest (o : Nat) (desc : DWord) (first : Nat) : Statement (.exportRequest o desc first) := by intro _ h; simp [hasWord] at h
theorem importRequest (o : Nat) (desc : DWord) : Statement (.importRequest o desc) := by intro _ h; simp [hasWord] at h
theorem revokeRequest (o : Nat) (desc : DWord) : Statement (.revokeRequest o desc) := by intro _ h; simp [hasWord] at h
theorem wsetup (o : Nat) (desc : DWord) : Statement (.wsetup o desc) := by intro _ h; simp [hasWord] at h
theorem walkSetupLoaded (o : Nat) : Statement (.walkSetupLoaded o) := by intro _ h; simp [hasWord] at h
theorem voctxWrite (o i : Nat) (v : DWord) : Statement (.voctxWrite o i v) := by intro _ h; simp [hasWord] at h
theorem vfRegisterWrite (o off : Nat) (v : DWord) : Statement (.vfRegisterWrite o off v) := by intro _ h; simp [hasWord] at h
theorem hostWrite (o : Nat) (va : DWord) (wd : MWidth) (v : DWord) : Statement (.hostWrite o va wd v) := by intro _ h; simp [hasWord] at h
theorem hostRead (o : Nat) (va : DWord) (wd : MWidth) : Statement (.hostRead o va wd) := by intro _ h; simp [hasWord] at h
theorem hostAtomic (o : Nat) (va : DWord) (op : AOp) (wd : MWidth) (b c : DWord) : Statement (.hostAtomic o va op wd b c) := by intro _ h; simp [hasWord] at h
theorem fabricRead (m : FabricMsg) : Statement (.fabricRead m) := by intro _ h; simp [hasWord] at h
theorem fabricWrite (m : FabricMsg) : Statement (.fabricWrite m) := by intro _ h; simp [hasWord] at h
theorem fabricAtomic (m : FabricMsg) : Statement (.fabricAtomic m) := by intro _ h; simp [hasWord] at h
theorem readReply (m : FabricMsg) : Statement (.readReply m) := by intro _ h; simp [hasWord] at h
theorem writeAcknowledgement (m : FabricMsg) : Statement (.writeAcknowledgement m) := by intro _ h; simp [hasWord] at h
theorem atomicReply (m : FabricMsg) : Statement (.atomicReply m) := by intro _ h; simp [hasWord] at h
theorem collectiveContribution (m : CollMsg) : Statement (.collectiveContribution m) := by intro _ h; simp [hasWord] at h
theorem collectiveResult (m : CollMsg) : Statement (.collectiveResult m) := by intro _ h; simp [hasWord] at h
theorem portTrain (die n : Nat) : Statement (.portTrain die n) := by intro _ h; simp [hasWord] at h
theorem portDown (die n : Nat) : Statement (.portDown die n) := by intro _ h; simp [hasWord] at h
theorem bothLanesLock (die n : Nat) : Statement (.bothLanesLock die n) := by intro _ h; simp [hasWord] at h
theorem oneLaneLocks (die n : Nat) : Statement (.oneLaneLocks die n) := by intro _ h; simp [hasWord] at h
theorem portTrainingTimeout (die n : Nat) : Statement (.portTrainingTimeout die n) := by intro _ h; simp [hasWord] at h
theorem laneLost (die n : Nat) : Statement (.laneLost die n) := by intro _ h; simp [hasWord] at h
theorem flitGroupRetry (die n : Nat) : Statement (.flitGroupRetry die n) := by intro _ h; simp [hasWord] at h
theorem fabricPathLost (die n : Nat) : Statement (.fabricPathLost die n) := by intro _ h; simp [hasWord] at h
theorem fgrowAnswer (o : Nat) (ans : GrowAnswer) : Statement (.fgrowAnswer o ans) := by intro _ h; simp [hasWord] at h
theorem frameMoveStart (o ofi target : Nat) (retire : Bool) : Statement (.frameMoveStart o ofi target retire) := by intro _ h; simp [hasWord] at h
theorem lineCopyComplete (mv line : Nat) : Statement (.lineCopyComplete mv line) := by intro _ h; simp [hasWord] at h
theorem scrubComplete (frame : Nat) : Statement (.scrubComplete frame) := by intro _ h; simp [hasWord] at h
theorem partitionMerge (die : Nat) : Statement (.partitionMerge die) := by intro _ h; simp [hasWord] at h
theorem partitionSplit (die : Nat) (forced : Bool) : Statement (.partitionSplit die forced) := by intro _ h; simp [hasWord] at h
theorem quiesceComplete (die : Nat) : Statement (.quiesceComplete die) := by intro _ h; simp [hasWord] at h
theorem quiesceTimeout (die : Nat) : Statement (.quiesceTimeout die) := by intro _ h; simp [hasWord] at h
theorem servicePairHalt (die : Nat) : Statement (.servicePairHalt die) := by intro _ h; simp [hasWord] at h
theorem timingReplay (core : Nat) : Statement (.timingReplay core) := by intro _ h; simp [hasWord] at h
theorem packageReset (strap : Nat) (images : List BootImage) : Statement (.packageReset strap images) := by intro _ h; simp [hasWord] at h
theorem bundleLoad (o : Nat) (bundle : List Byte) (scode lcode data course kdesc : Nat) : Statement (.bundleLoad o bundle scode lcode data course kdesc) := by intro _ h; simp [hasWord] at h
theorem portableFinalise (o : Nat) (bundle : List Byte) : Statement (.portableFinalise o bundle) := by intro _ h; simp [hasWord] at h
theorem hostSnoop (addr : Nat) (invalidate : Bool) : Statement (.hostSnoop addr invalidate) := by intro _ h; simp [hasWord] at h
theorem matrixStart (m : Nat) : Statement (.matrixStart m) := by intro _ h; simp [hasWord] at h
theorem budgetWindowStart : Statement .budgetWindowStart := by intro _ h; exact absurd h (by decide)
theorem heartbeat : Statement .heartbeat := by intro _ h; exact absurd h (by decide)
theorem takeover : Statement .takeover := by intro _ h; exact absurd h (by decide)
theorem powerLimit : Statement .powerLimit := by intro _ h; exact absurd h (by decide)

end Sys2Proof.Laws.Size
end

