-- ==== Sys2Proof/Laws/Turns.lean ====
section
/-! SUPPORT. What a turn that a budget holds back, a line that lands ahead of a commit, and an acquire of what it has read can do. -/
namespace Sys2Proof.Machine

/-- A turn's outcome is taken as it is, or its accesses are held back, and then only free values and saved walk budgets have changed. -/
theorem State.carried_next {s t : State} {o : Host.Outcome State Fault Refusal} (h : s.carried o = .next t) :
    (o = .next t ∧ s.heldOwners t = []) ∨
      ∃ u, o = .next u ∧ s.heldOwners u ≠ [] ∧ t = { s with freeIdx := u.freeIdx, owners := t.owners } := by
  cases o with
  | next u =>
    by_cases e : (s.heldOwners u).isEmpty
    · simp only [State.carried, e, if_true, Host.Outcome.next.injEq] at h
      subst h
      exact .inl ⟨rfl, List.isEmpty_iff.mp e⟩
    · simp only [State.carried, e] at h
      simp only [Bool.false_eq_true, if_false, Host.Outcome.next.injEq] at h
      exact .inr ⟨u, rfl, fun c => e (List.isEmpty_iff.mpr c), by subst h; rfl⟩
  | fault f => simp [State.carried] at h
  | refused r => simp [State.carried] at h
theorem State.carried_free {s u : State} (h : s.heldOwners u = []) : s.carried (.next u) = .next u := by simp [State.carried, h]

/-- A line lands ahead of a turn that commits its team, and nothing else happens in that step (R258). -/
theorem landTurn_next {s v : State} {t line : Nat} {o : Host.Outcome State Fault Refusal} (h : landTurn s t line o = .next v) :
    v = (s.landLine t line).flush ∧ (s.team t).held.any (fun x => x.1 / 128 == line) = true ∧
      ∃ u, o = .next u ∧ (s.team t).commits < (u.team t).commits := by
  cases o with
  | next u =>
    simp only [landTurn] at h
    split at h
    · rename_i c
      simp only [Bool.and_eq_true, decide_eq_true_eq] at c
      exact ⟨(Host.Outcome.next.inj h).symm, c.1, u, rfl, c.2⟩
    · cases h
  | fault f => cases h
  | refused r => cases h

/-- An acquire that reads a completion value joins its operation at every scope (R264). -/
theorem State.acquiredFrom_join (s : State) (sc : MScope) (home : Bool) {ls : List Loc} (h : ls.any (fun l => s.readsCompletion home l) = true) :
    s.acquiredFrom sc home ls = s.dropCopies (s.dieOf s.cur) := by simp [State.acquiredFrom, h]
theorem State.acquiredFrom_wide (s : State) {sc : MScope} (home : Bool) (ls : List Loc) (h : scDev sc = true) :
    s.acquiredFrom sc home ls = s.dropCopies (s.dieOf s.cur) := by simp [State.acquiredFrom, h]
theorem State.acquiredFrom_none (s : State) {sc : MScope} (home : Bool) {ls : List Loc} (h : scDev sc = false)
    (hl : ls.any (fun l => s.readsCompletion home l) = false) : s.acquiredFrom sc home ls = s := by simp [State.acquiredFrom, h, hl]

end Sys2Proof.Machine
end

