-- ==== Sys2Proof/Laws/Writes.lean ====
section
/-! SUPPORT. Every write of the device, and every commit, keeps the form of memory: lemmas from the walks up to State.homeWrite, State.commit and State.putWords. -/
namespace Sys2Proof.Machine

/-! ## Updates that leave memory alone -/
@[simp] theorem Memory.wf_count (s : State) (d o i n : Nat) : Memory.wf (s.count d o i n) = Memory.wf s := by
  unfold State.count; dsimp only; split <;> rfl
@[simp] theorem Memory.wf_reportFor (s : State) (c u o m x d : Nat) : Memory.wf (s.reportFor c u o m x d) = Memory.wf s := rfl
@[simp] theorem Memory.wf_dropLine (s : State) (ma : Nat) : Memory.wf (s.dropLine ma) = Memory.wf s := rfl
@[simp] theorem Memory.wf_dropHeld (s : State) (ma : Nat) : Memory.wf (s.dropHeld ma) = Memory.wf s := rfl
@[simp] theorem Memory.wf_dropCopies (s : State) (d : Nat) : Memory.wf (s.dropCopies d) = Memory.wf s := rfl
@[simp] theorem Memory.wf_dropCopy (s : State) (d ma : Nat) : Memory.wf (s.dropCopy d ma) = Memory.wf s := rfl
@[simp] theorem Memory.wf_fillCopy (s : State) (d ma : Nat) : Memory.wf (s.fillCopy d ma) = Memory.wf s := rfl
@[simp] theorem Memory.wf_copyPut (s : State) (d : Nat) (l : Loc) (w : Word) (c : Byte) : Memory.wf (s.copyPut d l w c) = Memory.wf s := by
  cases l <;> simp only [State.copyPut]
  split <;> rfl
theorem Memory.wf_copyHeld (s : State) (d : Nat) (h : List (Nat × (Word × Byte))) : Memory.wf (s.copyHeld d h) = Memory.wf s := by
  induction h generalizing s with
  | nil => rfl
  | cons e r ih => exact (ih _).trans (Memory.wf_copyPut _ _ _ _ _)

/-- The second part of a pair keeps the form where the pair's does. -/
theorem wf_snd {α : Type} {x : α × State} {a : α} {s t : State} (h : x = (a, t)) (w : Memory.wf x.2 = Memory.wf s) : Memory.wf t = Memory.wf s := by
  rw [h] at w; exact w
theorem wf_snd_true {α : Type} {x : α × State} {a : α} {t : State} (h : x = (a, t)) (w : Memory.wf x.2 = true) : Memory.wf t = true := by
  rw [h] at w; exact w

/-! ## Walks (R276 to R279) -/
theorem walkLoad_wf (s : State) (o : Nat) (ea : DWord) (n : Nat) : Memory.wf (walkLoad s o ea n).2 = Memory.wf s := by
  induction n generalizing s ea with
  | zero => rfl
  | succ n ih =>
    unfold walkLoad
    split
    · rfl
    · split
      · rfl
      · dsimp only
        split
        · split <;> simp
        · split
          all_goals
            rename_i h
            refine wf_snd h ((ih _ _).trans ?_)
            split <;> simp
theorem walkExec_wf (s : State) (o : Nat) (w : Walker) (i : Instr) : Memory.wf (walkExec s o w i).2 = Memory.wf s := by
  unfold walkExec
  dsimp only
  split
  · rfl
  · split
    all_goals first
      | rfl
      | (split
         · rfl
         · split
           · rfl
           · split
             all_goals
               rename_i h
               exact wf_snd h (walkLoad_wf _ _ _ _))
      | (split <;> first | rfl | (split <;> rfl))
theorem walkRun_wf (s : State) (o : Nat) (rt : Routine) (w : Walker) (n : Nat) : Memory.wf (walkRun s o rt w n).2.2 = Memory.wf s := by
  induction n generalizing s w with
  | zero => rfl
  | succ n ih =>
    unfold walkRun
    split
    · rfl
    · dsimp only
      split
      · rfl
      · split
        · rfl
        · split
          · exact walkExec_wf _ _ _ _
          · split
            · exact (ih _ _).trans (walkExec_wf _ _ _ _)
            · exact walkExec_wf _ _ _ _
theorem State.payWalk_wf (s : State) (o p n : Nat) : Memory.wf (s.payWalk o p n).2 = Memory.wf s := by
  unfold State.payWalk
  dsimp only
  split <;> simp
@[simp] theorem State.oweWalk_wf (s : State) (o n : Nat) : Memory.wf (s.oweWalk o n) = Memory.wf s := by
  simp [State.oweWalk]
theorem State.runWalk_wf (s : State) (o va kind lvl : Nat) : Memory.wf (s.runWalk o va kind lvl).2.2 = Memory.wf s := by
  unfold State.runWalk
  split
  · rfl
  · exact walkRun_wf _ _ _ _ _
theorem State.fillWait_wf (s : State) (o : Nat) : Memory.wf (s.fillWait o).2 = Memory.wf s := by
  unfold State.fillWait
  split <;> rfl
theorem State.fillHeld_wf (s : State) (o : Nat) (l : Loc) : Memory.wf (s.fillHeld o l).2 = Memory.wf s := by
  cases l with
  | dev _ => exact State.fillWait_wf _ _
  | host _ _ => rfl
  | window _ _ => rfl
  | regs _ _ => rfl
  | sram _ _ => rfl
  | priv _ _ _ => rfl
  | chip _ _ => rfl
  | closed _ _ => rfl
theorem State.noteWait_wf (s : State) (o : Nat) (w : Bool) : Memory.wf (s.noteWait o w) = Memory.wf s := by
  unfold State.noteWait
  split <;> simp
theorem State.fillOwn_wf (s : State) (o : Nat) (r : XRes) : Memory.wf (s.fillOwn o r) = Memory.wf s := by
  cases r with
  | ok l _ _ _ => exact (State.noteWait_wf _ _ _).trans (State.fillHeld_wf _ _ _)
  | fault _ _ => exact Memory.wf_count _ _ _ _ _
  | beyond => exact Memory.wf_count _ _ _ _ _
  | range => rfl
  | wait => rfl
theorem State.walkFor_wf (s : State) (o va kind lvl : Nat) : Memory.wf (s.walkFor o va kind lvl).2 = Memory.wf s := by
  unfold State.walkFor
  dsimp only
  split
  · exact State.runWalk_wf _ _ _ _ _
  · split
    · exact State.fillWait_wf _ _
    · split
      · exact (State.payWalk_wf _ _ _ _).trans (State.runWalk_wf _ _ _ _ _)
      · exact State.payWalk_wf _ _ _ _
theorem State.walkFor_wf_of {s t : State} {o va kind lvl : Nat} {r : Option WalkEnd} (h : s.walkFor o va kind lvl = (r, t)) : Memory.wf t = Memory.wf s :=
  wf_snd h (State.walkFor_wf _ _ _ _ _)
theorem State.sharedWalk_wf (s : State) (o va kind lvl me : Nat) : Memory.wf (s.sharedWalk o va kind lvl me).2 = Memory.wf s := by
  unfold State.sharedWalk
  split
  · rfl
  · split
    · rename_i h
      have e := State.walkFor_wf_of h
      exact e
    · rename_i h
      have e := State.walkFor_wf_of h
      unfold State.awaitWalk
      split <;> exact e
theorem State.cachePage_wf (s : State) (us : List Nat) (o p : Nat) (r : DWord) : Memory.wf (s.cachePage us o p r) = Memory.wf s := by
  unfold State.cachePage
  induction us generalizing s with
  | nil => rfl
  | cons u us ih => exact ih _
theorem State.endWalk_wf (s : State) (us : List Nat) (o va kind lvl : Nat) (e : WalkEnd) : Memory.wf (s.endWalk us o va kind lvl e).2 = Memory.wf s := by
  unfold State.endWalk
  split
  · rfl
  · rfl
  · dsimp only
    split
    · rfl
    · split
      · rfl
      · split
        · exact State.cachePage_wf _ _ _ _ _
        all_goals rfl
theorem State.xlate_wf (s : State) (us : List Nat) (o va kind lvl : Nat) : Memory.wf (s.xlate us o va kind lvl).2 = Memory.wf s := by
  have hw (r : Option WalkEnd) (t : State) (h : s.sharedWalk o va kind lvl (s.walker us) = (r, t)) : Memory.wf t = Memory.wf s :=
    wf_snd h (State.sharedWalk_wf _ _ _ _ _ _)
  unfold State.xlate
  split
  · rfl
  · split
    · rfl
    · split
      · exact hw _ _ (by assumption)
      · exact (State.endWalk_wf _ _ _ _ _ _ _).trans (hw _ _ (by assumption))
theorem State.xlateNow_wf (s : State) (o va kind lvl : Nat) : Memory.wf (s.xlateNow o va kind lvl).2 = Memory.wf s := by
  unfold State.xlateNow
  split
  · exact State.fillOwn_wf _ _ _
  · dsimp only
    rw [State.fillOwn_wf, State.endWalk_wf, State.oweWalk_wf, State.noteWait_wf]
    split
    · exact State.runWalk_wf _ _ _ _ _
    · exact (State.fillWait_wf _ _).trans (State.runWalk_wf _ _ _ _ _)
theorem State.xlateFor_wf (s : State) (o va kind : Nat) : Memory.wf (s.xlateFor o va kind).2 = Memory.wf s := State.xlateNow_wf _ _ _ _ _

/-! ## Writes (R105, R235) -/
theorem State.layReserve_wf (s : State) (o va : Nat) (w : Word) (p : Bool) (h : Memory.wf s = true) : Memory.wf (s.layReserve o va w p) = true := by
  unfold State.layReserve
  dsimp only
  apply State.putLoc_wf
  split
  · exact h
  · exact h
theorem State.layReserve64_wf (s : State) (o va : Nat) (v : DWord) (h : Memory.wf s = true) : Memory.wf (s.layReserve64 o va v) = true :=
  State.layReserve_wf _ _ _ _ _ (State.layReserve_wf _ _ _ _ _ h)
theorem State.wakeGroup_wf (s : State) (g n : Nat) : Memory.wf (s.wakeGroup g n) = Memory.wf s := by
  unfold State.wakeGroup
  dsimp only
  split <;> rfl
theorem State.wakeWaiter_wf (s : State) (x : Waiter) (h : Memory.wf s = true) : Memory.wf (s.wakeWaiter x) = true := by
  unfold State.wakeWaiter
  split
  · exact State.layReserve64_wf _ _ _ _ h
  · rw [State.wakeGroup_wf]; exact h
/-- A fold of steps that keep the form keeps it. -/
theorem foldl_wf {α : Type} (f : State → α → State) (hf : ∀ s a, Memory.wf s = true → Memory.wf (f s a) = true) (l : List α) (s : State)
    (h : Memory.wf s = true) : Memory.wf (l.foldl f s) = true := by
  induction l generalizing s with
  | nil => exact h
  | cons a r ih => exact ih _ (hf _ _ h)
theorem State.wakeArmed_wf (s : State) (ma : Nat) (h : Memory.wf s = true) : Memory.wf (s.wakeArmed ma) = true :=
  foldl_wf _ State.wakeWaiter_wf _ _ h
theorem State.wakeWords_wf (s : State) (l : List Nat) (n : Nat) (h : Memory.wf s = true) : Memory.wf (s.wakeWords l n) = true := by
  induction n generalizing s l with
  | zero => cases l <;> exact h
  | succ n ih =>
    cases l with
    | nil => exact h
    | cons a r => exact ih _ _ (State.wakeArmed_wf _ _ h)
theorem State.wakeWord_wf (s : State) (ma : Nat) (h : Memory.wf s = true) : Memory.wf (s.wakeWord ma) = true := State.wakeWords_wf _ _ _ h
theorem State.devWrite_wf (s : State) (l : Loc) (w : Word) (c : Byte) (h : Memory.wf s = true) : Memory.wf (s.devWrite l w c) = true := by
  cases l with
  | dev ma => exact State.wakeWord_wf _ _ (State.putLoc_wf _ _ _ _ h)
  | host ha k => exact State.putLoc_wf _ _ _ _ h
  | window f o => exact State.putLoc_wf _ _ _ _ h
  | regs f o => exact State.putLoc_wf _ _ _ _ h
  | sram t o => exact State.putLoc_wf _ _ _ _ h
  | priv g k o => exact State.putLoc_wf _ _ _ _ h
  | chip o a => exact State.putLoc_wf _ _ _ _ h
  | closed ma b => exact h
theorem State.ownRead_wf (s : State) (o va src : Nat) : Memory.wf (s.ownRead o va src).2 = Memory.wf s := by
  have hx (r : XRes) (t : State) (h : s.xlateFor o va 0 = (r, t)) : Memory.wf t = Memory.wf s :=
    wf_snd h (State.xlateFor_wf _ _ _ _)
  unfold State.ownRead
  split
  · refine Eq.trans ?_ (hx _ _ (by assumption))
    dsimp only
    split <;> split <;> simp
  all_goals exact hx _ _ (by assumption)
theorem State.ownWrite_wf (s : State) (o va : Nat) (v : DWord) (h : Memory.wf s = true) : Memory.wf (s.ownWrite o va v).2 = true := by
  have hx (r : XRes) (t : State) (e : s.xlateFor o va 1 = (r, t)) : Memory.wf t = true :=
    (wf_snd e (State.xlateFor_wf _ _ _ _)).trans h
  unfold State.ownWrite
  split
  · exact State.devWrite_wf _ _ _ _ (State.devWrite_wf _ _ _ _ (hx _ _ (by assumption)))
  all_goals exact hx _ _ (by assumption)
theorem State.putQueue_wf (s : State) (q : Nat) (x : Queue) (h : Memory.wf s = true) : Memory.wf (s.putQueue q x) = true := by
  unfold State.putQueue
  dsimp only
  split
  · exact State.ownWrite_wf _ _ _ _ (State.ownWrite_wf _ _ _ _ h)
  · rw [Memory.wf_setQueue]
    exact State.ownWrite_wf _ _ _ _ (State.ownWrite_wf _ _ _ _ h)
theorem State.queueFault_wf (s : State) (q k va : Nat) (h : Memory.wf s = true) : Memory.wf (s.queueFault q k va) = true :=
  State.putQueue_wf _ _ _ h
theorem State.published_wf (s : State) (q : Nat) (h : Memory.wf s = true) : Memory.wf (s.published q).2 = true := by
  have hr (s : State) (o va src : Nat) (r : Option (DWord × Bool)) (t : State) (h : Memory.wf s = true) (e : s.ownRead o va src = (r, t)) :
      Memory.wf t = true := (wf_snd e (State.ownRead_wf _ _ _ _)).trans h
  unfold State.published
  dsimp only
  split
  · exact State.queueFault_wf _ _ _ _ (hr _ _ _ _ _ _ h (by assumption))
  · rename_i h1
    have w1 := hr _ _ _ _ _ _ h h1
    split
    · exact State.queueFault_wf _ _ _ _ (hr _ _ _ _ _ _ w1 (by assumption))
    · exact hr _ _ _ _ _ _ w1 (by assumption)
theorem State.examine_wf (s : State) (q : Nat) (h : Memory.wf s = true) : Memory.wf (s.examine q) = true := by
  have hp (r : Option Bool) (t : State) (e : s.published q = (r, t)) : Memory.wf t = true := by
    have p := State.published_wf s q h
    rw [e] at p
    exact p
  unfold State.examine
  split
  · exact hp _ _ (by assumption)
  · exact State.putQueue_wf _ _ _ (hp _ _ (by assumption))
  · split
    · exact hp _ _ (by assumption)
    · exact State.putQueue_wf _ _ _ (hp _ _ (by assumption))
@[simp] theorem State.publish_wf (s : State) (q : Nat) : Memory.wf (s.publish q) = Memory.wf s := by
  unfold State.publish
  dsimp only
  split <;> rfl
theorem State.pokeQueues_wf (s : State) (ma : Nat) (h : Memory.wf s = true) : Memory.wf (s.pokeQueues ma) = true := by
  refine foldl_wf _ (fun s q h => ?_) _ _ h
  dsimp only
  split
  · exact State.examine_wf _ _ ((State.publish_wf _ _).trans h)
  · exact (State.publish_wf _ _).trans h
/-- A write of any agent at its home keeps the form of memory. -/
theorem State.homeWrite_wf (s : State) (l : Loc) (w : Word) (c : Byte) (h : Memory.wf s = true) : Memory.wf (s.homeWrite l w c) = true := by
  cases l with
  | dev ma => exact State.pokeQueues_wf _ _ (State.devWrite_wf _ _ _ _ h)
  | host ha k => exact State.devWrite_wf _ _ _ _ h
  | window f o => exact State.devWrite_wf _ _ _ _ h
  | regs f o => exact State.devWrite_wf _ _ _ _ h
  | sram t o => exact State.devWrite_wf _ _ _ _ h
  | priv g k o => exact State.devWrite_wf _ _ _ _ h
  | chip o a => exact State.devWrite_wf _ _ _ _ h
  | closed ma b => exact h
theorem State.putReserve_wf (s : State) (o va : Nat) (w : Word) (p : Bool) (h : Memory.wf s = true) : Memory.wf (s.putReserve o va w p) = true := by
  unfold State.putReserve
  dsimp only
  apply State.homeWrite_wf
  split
  · exact h
  · exact h
theorem State.homeWrite64_wf (s : State) (l : Loc) (v : DWord) (h : Memory.wf s = true) : Memory.wf (s.homeWrite64 l v) = true :=
  State.homeWrite_wf _ _ _ _ (State.homeWrite_wf _ _ _ _ h)
theorem State.agentWrite_wf (s : State) (l : Loc) (w : Word) (c : Byte) (h : Memory.wf s = true) : Memory.wf (s.agentWrite l w c) = true :=
  State.homeWrite_wf _ _ _ _ ((Memory.wf_copyPut _ _ _ _ _).trans h)
theorem State.agentWrite64_wf (s : State) (l : Loc) (v : DWord) (h : Memory.wf s = true) : Memory.wf (s.agentWrite64 l v) = true :=
  State.agentWrite_wf _ _ _ _ (State.agentWrite_wf _ _ _ _ h)

/-! ## The team store buffer (R210, R211) -/
theorem State.landHeld_wf (s : State) (l : List (Nat × (Word × Byte))) (h : Memory.wf s = true) : Memory.wf (s.landHeld l) = true := by
  induction l generalizing s with
  | nil => exact h
  | cons e r ih => exact ih _ (State.homeWrite_wf _ _ _ _ h)
theorem State.landLine_wf (s : State) (t line : Nat) (h : Memory.wf s = true) : Memory.wf (s.landLine t line) = true :=
  State.landHeld_wf _ _ ((Memory.wf_copyHeld _ _ _).trans h)
/-- A commit keeps the form of memory. -/
theorem State.commit_wf (s : State) (t : Nat) (h : Memory.wf s = true) : Memory.wf (s.commit t) = true :=
  State.landHeld_wf _ _ ((Memory.wf_copyHeld _ _ _).trans h)
theorem State.commitAll_wf (s : State) (ts : List Nat) (h : Memory.wf s = true) : Memory.wf (s.commitAll ts) = true :=
  foldl_wf _ State.commit_wf _ _ h
theorem State.hold_wf (s : State) (t ma : Nat) (w : Word) (c : Byte) (h : Memory.wf s = true) : Memory.wf (s.hold t ma w c) = true := by
  unfold State.hold
  dsimp only
  rw [Memory.wf_updTeam]
  split
  · exact State.commit_wf _ _ h
  · exact h
/-- A store of a team keeps the form of memory. -/
theorem State.store_wf (s : State) (t : Nat) (l : Loc) (w : Word) (c : Byte) (h : Memory.wf s = true) : Memory.wf (s.store t l w c) = true := by
  cases l with
  | dev ma => exact State.hold_wf _ _ _ _ _ h
  | host ha k => exact State.homeWrite_wf _ _ _ _ h
  | window f o => exact State.homeWrite_wf _ _ _ _ h
  | regs f o => exact State.homeWrite_wf _ _ _ _ h
  | sram u o => exact State.homeWrite_wf _ _ _ _ h
  | priv g k o => exact State.homeWrite_wf _ _ _ _ h
  | chip o a => exact State.homeWrite_wf _ _ _ _ h
  | closed ma b => exact h

/-- The words of a scalar store, at its home or held, keep the form of memory. -/
theorem State.putWords_wf (s : State) (home : Bool) (ws : List (Loc × Word × Byte)) (h : Memory.wf s = true) : Memory.wf (s.putWords home ws) = true := by
  induction ws generalizing s with
  | nil => exact h
  | cons e r ih =>
    refine ih _ ?_
    split
    · exact State.agentWrite_wf _ _ _ _ h
    · exact State.store_wf _ _ _ _ _ h

/-! ## Frames (R285, R286) -/
theorem Store.moveWords_wf (m : Store) (a b n : Nat) (h : m.wf = true) : (m.moveWords a b n).wf = true := by
  induction n generalizing m a b with
  | zero => exact h
  | succ n ih => exact ih _ _ _ (Store.write_wf _ _ _ _ h)
theorem Store.scrub_wf (m : Store) (a n : Nat) (h : m.wf = true) : (m.scrub a n).wf = true := by
  induction n generalizing m a with
  | zero => exact h
  | succ n ih => exact ih _ _ (Store.write_wf _ _ _ _ h)
theorem State.moveLine_mem (s : State) (a b : Nat) : (s.moveLine a b).mem = s.mem.moveWords (a * 512) (b * 512) 128 := by
  simp only [State.moveLine]
theorem State.moveLine_hostMem (s : State) (a b : Nat) : (s.moveLine a b).hostMem = s.hostMem := by unfold State.moveLine; rfl
theorem State.scrubFrame_mem (s : State) (f : Nat) : (s.scrubFrame f).mem = s.mem.scrub (f * 65536) 16384 := by
  simp only [State.scrubFrame]
theorem State.scrubFrame_hostMem (s : State) (f : Nat) : (s.scrubFrame f).hostMem = s.hostMem := by unfold State.scrubFrame; rfl
theorem State.moveLine_wf (s : State) (a b : Nat) (h : Memory.wf s = true) : Memory.wf (s.moveLine a b) = true := by
  obtain ⟨hm, hh⟩ := (Memory.wf_iff s).1 h
  rw [Memory.wf_iff, State.moveLine_mem, State.moveLine_hostMem]
  exact ⟨Store.moveWords_wf _ _ _ _ hm, hh⟩
theorem State.scrubFrame_wf (s : State) (f : Nat) (h : Memory.wf s = true) : Memory.wf (s.scrubFrame f) = true := by
  obtain ⟨hm, hh⟩ := (Memory.wf_iff s).1 h
  rw [Memory.wf_iff, State.scrubFrame_mem, State.scrubFrame_hostMem]
  exact ⟨Store.scrub_wf _ _ _ hm, hh⟩

end Sys2Proof.Machine
end

