-- ==== Sys2Proof/Tests/Slice0.lean ====
section
/-! SUPPORT. Tests of the model on small states: terms that are not well formed, words written out from the spec, one step of some instructions with results worked out
from the spec, and, for every statement of the certificate, operands and states that meet its hypotheses. -/
set_option Elab.async false
namespace Sys2Proof.Tests
open Machine

/-! ## States -/
/-- The cluster's translation cache holds page 1 as the core's does. -/
def cached (s : State) : State := { s with tlb := s.tlb ++ [{ unit := 640, owner := 1, page := 1, res := BitVec.ofNat 64 (2 ^ 63 + 64 * 2 ^ 16 + 15) }] }
/-- The placed machine: owner 1 runs, one group at level U, its word `nop` (log entry 11). -/
def base : State := (cached ((State.resetWith 2).withFetchWord 32 0x04000000)).issueFrom 0 scalarStream
/-- The placed machine with a lane word in slot 0. -/
def laneBase : State := (cached ((State.resetWith 2).withFetchWord 96 0)).issueFrom 0 0
/-- The state with scalar registers set, not poisoned. -/
def regs (s : State) (l : List (Nat × DWord)) : State := l.foldl (fun s e => setReg s e.1 e.2 false) s
def poison (s : State) (n : Nat) : State := setReg s n (sreg s n) true
/-- The state with the acting group at a level. -/
def atL (s : State) (l : Nat) : State := s.updG (fun x =>
  { x with
    level := l
    hAside := if 1 ≤ l && l < 3 then some (Aside.mk 0 x.lane x.arrival 0 [] 0 0 false none 4 0 0 0 0 0) else none })
/-- The computation gives a value and a state with p. -/
def ok {α : Type} (m : M α) (s : State) (p : α → State → Bool) : Bool :=
  match m s with
  | .ok a t => p a t
  | .error _ _ => false
theorem ok_gives {α : Type} {m : M α} {s : State} {p : α → State → Bool} (h : ok m s p = true) : ∃ a t, Gives m s a t ∧ p a t = true := by
  unfold ok at h
  split at h
  · exact ⟨_, _, ‹_›, h⟩
  · cases h
/-- The outcome is a next state with p. -/
def nextIs (o : Host.Outcome State Fault Refusal) (p : State → Bool) : Bool :=
  match o with
  | .next t => p t
  | _ => false
theorem next_of {o : Host.Outcome State Fault Refusal} {p : State → Bool} (h : nextIs o p = true) : ∃ t, o = .next t ∧ p t = true := by
  unfold nextIs at h
  split at h
  · exact ⟨_, rfl, h⟩
  · cases h
/-- The state after an instruction, or the one before. -/
def after (i : Instr) (s : State) : State :=
  match exec i s with
  | .next t => t
  | _ => s
/-- The registers of the scalar witnesses: 9 is poisoned. -/
def S1 : State := poison (regs base [(1, 5), (2, -7), (4, 0x8000000000000000), (5, 0xFFFFFFFFFFFFFFFF), (6, 70), (7, 0x10004), (8, 0x10006),
  (10, 0x123456789ABCDEF0), (11, 1), (12, 0x10008), (13, 64), (15, 0x0002000400000004), (16, 0x0008000500000004), (17, 0x0005000500000004)]) 9
def S1f : State := S1.setSr (S1.g.sr.putFlag 2 true)
/-- Words at the start of page 1. -/
def S2 : State := (S1.homeWrite (.dev (320 * 65536)) 0x11223344 (checkCode 0x11223344 0)).homeWrite (.dev (320 * 65536 + 8)) 0x89ABCDEF
  (checkCode 0x89ABCDEF 8)
def blk (n : Nat) (s : State) : State := s.updG (fun x =>
  { x with
    lossNext := true
    lane := { x.lane with blocks := List.replicate n { off := 0, mask := 1, loss := false } } })
def withY (s : State) : State := s.updG (fun x => { x with lane := { x.lane with y := [(1, [(0x80000001, true), (3, false)])] } })
def stream (s : State) : State := s.updG (fun g =>
  { g with lane := { g.lane with a := [(2, { base := 0x10000, step := 3, pitch := 1, space := .gl })] } })
def full (s : State) : State := s.updG (fun g => { g with lane := { g.lane with q := [(3, List.replicate 4 [])] } })
def ut (s : State) : State := s.updG (fun x => { x with utrap := 0x10100 })

/-- The lane state of the witnesses: lanes 0, 1, 5 and 31 are in p1, queue 3 has an entry, return queue 0 has one, latch 0 is set, v11 is poisoned in lane 5. -/
def L1 : State :=
  let vals : List Word := [0, 1, 0xFFFFFFFF, 0x80000000, 0x3F800000, 0x7F800000, 0x7FC00000, 0x7F800001, 0xC0490FDB, 0x00000023, 0x12345678, 0xBF000000]
  let s := regs laneBase [(9, 0x40A00000), (12, 0x10000), (10, 0)]
  s.updG (fun x =>
    let lr := (List.range 12).foldl (fun lr n => [0, 1, 5, 31].foldl (fun lr l => lr.put n l (vals.getD ((n + l) % 12) 0) (n == 11 && l == 5)) lr) x.lr
    let lr := (lr.putPred 1 0x80000023).putPred 2 0x2
    let lr := (((lr.putLatch 0 0 5 false).putLatch 0 1 6 true).putLatch 0 5 7 false).putLatch 0 31 8 false
    let q := [(3, [(List.range 32).map (fun i => (QLane.mk (BitVec.ofNat 32 (i * 3)) (i == 5) 0 0 none 0 .gl false))])]
    { x with
      lr := lr
      lane := { x.lane with y := [(0, [(7, false)])], q := q } })
def P1 : LPred := { neg := false, p := 1 }
def P2 : LPred := { neg := false, p := 2 }
def putL (k : Nat) (f : Nat → Nat) (s : State) : State :=
  s.updG (fun x => { x with lr := [0, 1, 5, 31].foldl (fun lr l => lr.put k l (BitVec.ofNat 32 (f l)) false) x.lr })
def fillMem (n : Nat) (s : State) : State := (List.range n).foldl (fun s i =>
  s.homeWrite (.dev (320 * 65536 + 4 * i)) (BitVec.ofNat 32 (0x11111111 * i)) (checkCode (BitVec.ofNat 32 (0x11111111 * i)) (4 * i))) s
/-- Its lanes with addresses in v40 to v42. -/
def L2 : State := putL 42 (fun l => 4 * (l % 4)) (putL 41 (fun _ => 0) (putL 40 (fun l => 0x10000 + 4 * (l % 4)) (fillMem 16 L1)))
def L3 : State := putL 41 (fun _ => 0) (putL 40 (fun _ => 0x10000) (fillMem 2 L1))
def noSpill (s : State) : State := s.updG (fun x =>
  { x with lane := { x.lane with spill := (List.range 16).map (fun i => (i, { join := 0, arrived := 0, outer := none, park := none })) } })

/-- Two teams of one set, on cores 0 and 1, with staging, and the pair that their groups form. -/
def mkPair (s : State) : State :=
  let k := { (s.kernel 0) with desc := some { (s.kernel 0).d with span := 2, stage := 16 }, lrec := { (s.kernel 0).lrec with teams := 2 } }
  let s := s.setKernel 0 k
  { s with
    teams := tabPut s.teams 1 { placedTeam with idx := 1, core := 1, run := some 4 }
    groups := tabPut s.groups 1 { (s.group 0) with team := 1 }
    nextId := 10 }
def paired (s : State) : State := ((mkPair s).updGroup 0 (fun x => { x with partner := some 1 })).updGroup 1 (fun x => { x with partner := some 0 })
/-- Double words at an offset of page 1, and of a team's scratchpad. -/
def pokes (off : Nat) (ws : List DWord) (s : State) : State :=
  ((List.range ws.length).zip ws).foldl (fun s e => s.homeWrite64 (.dev (320 * 65536 + off + 8 * e.1)) e.2) s
/-- An address of owner 1's reserve window, in its frame 50, and double words there. -/
def rsv (off : Nat) : Nat := reserveBase + 50 * 65536 + off
def rsvW (off : Nat) : DWord := BitVec.ofNat 64 (rsv off)
def pokesR (off : Nat) (ws : List DWord) (s : State) : State :=
  ((List.range ws.length).zip ws).foldl (fun s e => s.homeWrite64 (.dev (306 * 65536 + off + 8 * e.1)) e.2) s
def pokeS (t off : Nat) (ws : List DWord) (s : State) : State :=
  ((List.range ws.length).zip ws).foldl (fun s e => s.homeWrite64 (.sram t (off + 8 * e.1)) e.2) s
/-- Owner 1 with a window page 2. -/
def win (s : State) : State :=
  let s := s.updOwner 1 (fun x =>
    { x with
      frames := 66
      fmap := x.fmap ++ [(65, { st := 1, ty := 4, pinned := false, move := 0, frame := 3 * 2 ^ 22 + 9 })] })
  { s with tlb := s.tlb ++ [{ unit := 0, owner := 1, page := 2, res := BitVec.ofNat 64 (2 ^ 63 + 65 * 2 ^ 16 + 15) }] }
/-- A vmmap of group 0 that waits. -/
def mo0 : MatrixOp :=
  { group := 0, tok := 0, path := 15, t0 := 0, kind := 2, fa := .f32, fb := .f32, d := 10, a := 20, b := 30, mask := 15, seq := 0, staged := none,
    started := false, out := [], flags := [] }

/-! ## Words: each is written out from the encoding tables of the spec (R50 to R70 and the tables of the instructions); most are its own examples. -/
def p0 : LPred := { neg := false, p := 0 }
def pn3 : LPred := { neg := true, p := 3 }
/-- The word of nb bits decodes to the instruction. -/
def reads (nb w : Nat) (i : Instr) : Bool := decodeTableWord nb w == some i
theorem test_words_add_to_sar :
    reads 32 0x02084180 (.add 1 2 3) = true ∧
    reads 32 0x0220A301 (.sub 4 5 6) = true ∧
    reads 32 0x024FE082 (.mul 9 63 1) = true ∧
    reads 32 0x02106203 (.mulh 2 3 4) = true ∧
    reads 32 0x024FE084 (.div 9 63 1) = true ∧
    reads 32 0x02390485 (.divu 7 8 9) = true ∧
    reads 32 0x024FE086 (.and 9 63 1) = true ∧
    reads 32 0x024FE087 (.or 9 63 1) = true ∧
    reads 32 0x024FE088 (.xor 9 63 1) = true ∧
    reads 32 0x024FE089 (.shl 9 63 1) = true ∧
    reads 32 0x024FE08A (.shr 9 63 1) = true ∧
    reads 32 0x024FE08B (.sar 9 63 1) = true := by decide +kernel
theorem test_words_min_to_sel :
    reads 32 0x024FE08C (.min 9 63 1) = true ∧
    reads 32 0x024FE08D (.max 9 63 1) = true ∧
    reads 32 0x024FE08E (.minu 9 63 1) = true ∧
    reads 32 0x024FE08F (.maxu 9 63 1) = true ∧
    reads 32 0x03F8E010 (.mov 63 7) = true ∧
    reads 32 0x02102011 (.movY 2 1) = true ∧
    reads 32 0x0228C012 (.clz 5 6) = true ∧
    reads 32 0x03F8E013 (.popc 63 7) = true ∧
    reads 32 0x03F8E014 (.extB 63 7) = true ∧
    reads 32 0x02186015 (.extH 3 3) = true ∧
    reads 32 0x03F8E016 (.extW 63 7) = true ∧
    reads 32 0x0251661B (.sel 10 11 12 3) = true := by decide +kernel
theorem test_words_cmp_to_minuImm :
    reads 32 0x03906220 (.cmp .ltu 2 3 4) = true ∧
    reads 32 0x06084005 (.addImm 1 2 5) = true ∧
    reads 32 0x080FD000 (.mulImm 1 62 (-4096)) = true ∧
    reads 32 0x0A58E007 (.andImm 11 7 7) = true ∧
    reads 32 0x0CC30007 (.orImm 24 24 7) = true ∧
    reads 32 0x0E286001 (.xorImm 5 3 1) = true ∧
    reads 32 0x1030C003 (.shlImm 6 6 3) = true ∧
    reads 32 0x10282820 (.shrImm 5 1 32) = true ∧
    reads 32 0x10209003 (.sarImm 4 4 3) = true ∧
    reads 32 0x120FD000 (.minImm 1 62 (-4096)) = true ∧
    reads 32 0x140FD000 (.maxImm 1 62 (-4096)) = true ∧
    reads 32 0x160FD000 (.minuImm 1 62 (-4096)) = true := by decide +kernel
theorem test_words_maxuImm_to_ldH :
    reads 32 0x18186064 (.maxuImm 3 3 100) = true ∧
    reads 32 0x1A080040 (.li 1 64) = true ∧
    reads 32 0x1C110000 (.cmpImm .eq 2 8 0) = true ∧
    reads 64 0x000100001E084000 (.aluWide .add 1 2 65536) = true ∧
    reads 64 0x0000001220080000 (.lih 1 18) = true ∧
    reads 32 0x221FFFFB (.br (-5)) = true ∧
    reads 32 0x249FFFFD (.bc 2 false (-3)) = true ∧
    reads 32 0x26000010 (.call 16) = true ∧
    reads 32 0x28281FFD (.loop 5 (-3)) = true ∧
    reads 64 0x000000002A000000 (.lrun 0 0) = true ∧
    reads 32 0x2C28DFFF (.ldB 5 6 (-1)) = true ∧
    reads 32 0x2E28DFFF (.ldH 5 6 (-1)) = true := by decide +kernel
theorem test_words_ldW_to_stk :
    reads 32 0x30188010 (.ldW 3 4 16) = true ∧
    reads 32 0x32202040 (.ldD 4 1 64) = true ∧
    reads 32 0x3428DFFF (.stB 5 6 (-1)) = true ∧
    reads 32 0x3628DFFF (.stH 5 6 (-1)) = true ∧
    reads 32 0x3881E000 (.stW 16 15 0) = true ∧
    reads 32 0x3A28DFF8 (.stD 5 6 (-8)) = true ∧
    reads 64 0x000000103C188D10 (.ldX .w .acq .dev .gl 3 4 16) = true ∧
    reads 64 0x000000003E28D210 (.stX .w .rel .team .gl 5 6 0) = true ∧
    reads 64 0x180000004028FB18 (.amo .add .d .ar .clus .gl 5 7 6 0 0) = true ∧
    reads 32 0x42028000 (.ldq 0 20 0) = true ∧
    reads 32 0x44188008 (.ldk 3 4 8) = true ∧
    reads 32 0x46188008 (.stk 3 4 8) = true := by decide +kernel
theorem test_words_crd_to_texit :
    reads 32 0x48180013 (.crd 3 19) = true ∧
    reads 32 0x4A008010 (.cwr 16 4) = true ∧
    reads 32 0x4C000011 (.trap 17) = true ∧
    reads 64 0x000000004E188018 (.rld .d 3 4 0) = true ∧
    reads 64 0x000000085028C010 (.rst .w 5 6 8) = true ∧
    reads 64 0x2000000052392018 (.ramo .add .d 7 9 8 0 0) = true ∧
    reads 32 0x04000000 .nop = true ∧
    reads 32 0x04000001 .lsync = true ∧
    reads 32 0x04000A02 (.fence .acq .team) = true ∧
    reads 32 0x04000003 .commit = true ∧
    reads 32 0x04000004 .gexit = true ∧
    reads 32 0x04000005 .texit = true := by decide +kernel
theorem test_words_cwait_to_pair :
    reads 32 0x04000006 .cwait = true ∧
    reads 32 0x0407E007 (.ret 63) = true ∧
    reads 32 0x04000008 .tret = true ∧
    reads 32 0x04000009 .hret = true ∧
    reads 32 0x0400000A .pdone = true ∧
    reads 32 0x0400000B .replay = true ∧
    reads 32 0x0400A00C (.ostop 5) = true ∧
    reads 32 0x0400828D (.tinv 4 5) = true ∧
    reads 32 0x0400C38E (.fgrow 6 7) = true ∧
    reads 32 0x0401048F (.frel 8 9) = true ∧
    reads 32 0x04014590 (.ckinj 10 11) = true ∧
    reads 32 0x04000011 .pair = true := by decide +kernel
theorem test_words_launch_to_mand :
    reads 32 0x04008012 (.launch 4) = true ∧
    reads 32 0x04A2A413 (.spawn 20 21 8) = true ∧
    reads 32 0x04188294 (.qpost 3 4 5) = true ∧
    reads 32 0x04010015 (.waitk 8) = true ∧
    reads 32 0x04188016 (.coll 3 4) = true ∧
    reads 32 0x0400C397 (.pset 6 7) = true ∧
    reads 32 0x04008298 (.fxfer 4 5) = true ∧
    reads 32 0x041145A0 (.aset 2 10 11) = true ∧
    reads 32 0x04118021 (.astep 2 12) = true ∧
    reads 32 0x04084022 (.aload 1 2) = true ∧
    reads 32 0x0408E028 (.mset 1 7) = true ∧
    reads 32 0x041021A9 (.mand 2 1 3) = true := by decide +kernel
theorem test_words_mor_to_arrive :
    reads 32 0x0408E12A (.mor 1 7 2) = true ∧
    reads 32 0x0438032B (.mxor 7 0 6) = true ∧
    reads 32 0x0420402C (.mnot 4 2) = true ∧
    reads 32 0x0420402D (.mcnt 4 2) = true ∧
    reads 32 0x0448202E (.mfirst 9 1) = true ∧
    reads 32 0x041882B0 (.cpy 3 4 5) = true ∧
    reads 32 0x04188331 (.cpy2 3 4 6) = true ∧
    reads 32 0x04188332 (.cpy3 3 4 6) = true ∧
    reads 32 0x04280033 (.bclose 5) = true ∧
    reads 32 0x0400A034 (.waitb 5) = true ∧
    reads 32 0x040082B8 (.barinit 4 5) = true ∧
    reads 32 0x040082B9 (.arrive 4 5) = true := by decide +kernel
theorem test_words_bwait_to_vmul :
    reads 32 0x0400803A (.bwait 4) = true ∧
    reads 32 0x040082BB (.arrivew 4 5) = true ∧
    reads 32 0x0410C3BC (.bmin 2 6 7) = true ∧
    reads 32 0x0448013D (.bread 9 2) = true ∧
    reads 32 0x041945BE (.vwait 3 10 11) = true ∧
    reads 32 0x0419463F (.vwake 3 10 12) = true ∧
    reads 32 0x04094640 (.dqpush 1 10 12) = true ∧
    reads 32 0x04614141 (.dqpop 12 10 2) = true ∧
    reads 32 0x047161C2 (.dqsteal 14 11 3) = true ∧
    reads 96 0x00102100B359800000000000 (.vadd (.v 2 (some 0)) (.v 1) .lane p0 0) = true ∧
    reads 96 0x002BF002B399960000000009 (.vsub (.v 191 none) (.v 5) .imm pn3 9) = true ∧
    reads 96 0x00301066B39980000000000B (.vmul (.v 1 none) .lane .imm p0 11) = true := by decide +kernel
theorem test_words_vmulh_to_vpopc :
    reads 96 0x0040300233D9800100000009 (.vmulh true (.v 3 none) (.v 4) .sbc p0 9) = true ∧
    reads 96 0x005140002FD9760000000000 (.vmad (.v 20 none) (.v 0) (.v 191) (.b 3) pn3 0) = true ∧
    reads 96 0x006BF002B399960100000009 (.vmin true (.v 191 none) (.v 5) .imm pn3 9) = true ∧
    reads 96 0x007BF002B399960000000009 (.vmax false (.v 191 none) (.v 5) .imm pn3 9) = true ∧
    reads 96 0x008BF002B399960000000009 (.vand (.v 191 none) (.v 5) .imm pn3 9) = true ∧
    reads 96 0x009BF002B399960000000009 (.vor (.v 191 none) (.v 5) .imm pn3 9) = true ∧
    reads 96 0x00ABF002B399960000000009 (.vxor (.v 191 none) (.v 5) .imm pn3 9) = true ∧
    reads 96 0x00B0A763B319960000000000 (.vnot (.v 10 (some 3)) (.q 7) pn3 0) = true ∧
    reads 96 0x00C06066B399800000000002 (.vshl (.v 6 none) .lane .imm p0 2) = true ∧
    reads 96 0x00DBF002B399960000000009 (.vshr (.v 191 none) (.v 5) .imm pn3 9) = true ∧
    reads 96 0x00EBF002B399960000000009 (.vsar (.v 191 none) (.v 5) .imm pn3 9) = true ∧
    reads 96 0x00F0A763B319960000000000 (.vpopc (.v 10 (some 3)) (.q 7) pn3 0) = true := by decide +kernel
theorem test_words_vclz_to_vfrcp :
    reads 96 0x0100A763B319960000000000 (.vclz (.v 10 (some 3)) (.q 7) pn3 0) = true ∧
    reads 96 0x0110500533998007000000FF (.vcmp .geu 5 (.v 10) .imm p0 255) = true ∧
    reads 96 0x012070008099800C00000000 (.vsel true 4 (.v 7 none) (.v 1) (.v 2) p0 0) = true ∧
    reads 96 0x01307067B31980000000000B (.vmov (.v 7 none) .sbc p0 11) = true ∧
    reads 96 0x020BF002B399960100000009 (.vfadd .rtz (.v 191 none) (.v 5) .imm pn3 9) = true ∧
    reads 96 0x021BF002B399960200000009 (.vfsub .rup (.v 191 none) (.v 5) .imm pn3 9) = true ∧
    reads 96 0x022BF002B399960300000009 (.vfmul .rdn (.v 191 none) (.v 5) .imm pn3 9) = true ∧
    reads 96 0x0230A0058301A00100000000 (.vffma .rtz (.v 10 none) (.v 11) (.v 12) (.v 13) p0 0) = true ∧
    reads 96 0x024BF002B399960000000009 (.vfmin (.v 191 none) (.v 5) .imm pn3 9) = true ∧
    reads 96 0x025BF002B399960000000009 (.vfmax (.v 191 none) (.v 5) .imm pn3 9) = true ∧
    reads 96 0x026020018119800200000000 (.vfcmp .lt 2 (.v 3) (.v 4) p0 0) = true ∧
    reads 96 0x0270A763B319960000000000 (.vfrcp (.v 10 (some 3)) (.q 7) pn3 0) = true := by decide +kernel
theorem test_words_vfrsq_to_vvote :
    reads 96 0x0280A763B319960000000000 (.vfrsq (.v 10 (some 3)) (.q 7) pn3 0) = true ∧
    reads 96 0x029030603319800000000000 (.vfsqrt .rne (.v 3 none) (.q 0) p0 0) = true ∧
    reads 96 0x02A0A763B319960000000000 (.vfex2 (.v 10 (some 3)) (.q 7) pn3 0) = true ∧
    reads 96 0x02B0A763B319960000000000 (.vflg2 (.v 10 (some 3)) (.q 7) pn3 0) = true ∧
    reads 96 0x02C0A763B319960000000000 (.vfsin (.v 10 (some 3)) (.q 7) pn3 0) = true ∧
    reads 96 0x02D0A763B319960000000000 (.vfcos (.v 10 (some 3)) (.q 7) pn3 0) = true ∧
    reads 96 0x030050033319806000000002 (.vcvt .e4m3 .f32 .rne (.v 5 none) (.v 6) 2 p0) = true ∧
    reads 96 0x0400A0058301400300000000 (.vdot4 .e4m3 (.v 10 none) (.v 11) (.v 12) (.v 10) p0 0) = true ∧
    reads 96 0x0411400A8582800500000000 (.vdot8 .e2m1 (.v 20 none) (.v 21) (.v 22) (.v 20) p0 0) = true ∧
    reads 96 0x0421E0050A03C00000000054 (.vscacc (.v 30 none) (.v 10) (.v 40) (.v 30) 0 1 5 p0) = true ∧
    reads 96 0x05004002B399800300000010 (.vshfl .xor (.v 4 none) (.v 5) .imm p0 16) = true ∧
    reads 96 0x05103003B319800000000000 (.vvote .any (.v 3 none) (.v 7) p0 0) = true := by decide +kernel
theorem test_words_vred_to_vmma :
    reads 96 0x05208004B319800000000000 (.vred .add (.v 8 none) (.v 9) p0 0) = true ∧
    reads 96 0x0530A763B319960000000000 (.vscan (.v 10 (some 3)) (.q 7) pn3 0) = true ∧
    reads 96 0x060000663319820000090007 (.vbr { neg := false, p := 1 } 7 9) = true ∧
    reads 96 0x06100066331994000000FFFC (.vjoin { neg := true, p := 2 } (-4)) = true ∧
    reads 96 0x062000663319800000000000 .vend = true ∧
    reads 96 0x072040013319801600000000 (.vld .w false .acq .clus .gl (.v 4 none) 2 p0 0) = true ∧
    reads 96 0x076000018319808000000010 (.vst .w .rlx .none .sp 3 (.v 12) p0 16) = true ∧
    reads 96 0x0780600281D980C000000000 (.vamo .add .rlx .none .cl (.v 6 none) 5 (.v 7) .zero p0 0) = true ∧
    reads 96 0x080040013319801000000000 (.vldc .ne4 2 false .gl (.v 4 none) 2 p0 0) = true ∧
    reads 96 0x081000010519803000000000 (.vstc .ne4 4 .gl 2 20 p0 0) = true ∧
    reads 96 0x082000010619800000000000 (.vcupd .ne4 .gl 2 24 p0 0) = true ∧
    reads 96 0x090400000419806600000000 (.vmma .e4m3 .e4m3 64 0 16 p0) = true := by decide +kernel
theorem test_words_vmmas_to_vpoison :
    reads 96 0x09120066331981540034C2CA (.vmmas .ne4 .ne4 32 10 11 12 13 p0) = true ∧
    reads 96 0x09220000041980CC00000000 (.vmmap .i8 .i8 32 0 16 p0) = true ∧
    reads 96 0x0A007005B319960000000000 (.vptest 7 (.v 11) pn3 0) = true ∧
    reads 96 0x0A10A763B319960000000000 (.vpoison (.v 10 (some 3)) (.q 7) pn3 0) = true := by decide +kernel

/-! ## Hypotheses of the statements: the scalar stream and the traps -/
theorem test_wit_ScalarRegisterWrite : (63 : Nat) < 64 ∧ (0 : Nat) < 64 ∧ (63 : Nat) ≠ 0 ∧ (0 : Nat) ≠ 63 := by decide
theorem test_wit_ScalarRegisterForms : S1f.g.sr.flag 2 = true ∧ S1.g.sr.flag 2 = false := by decide +kernel
theorem test_wit_ScalarCompare : (sbad S1 1 = false ∧ sbad S1 2 = false) ∧ (sbad S1 9 = true ∨ sbad S1 1 = true) ∧ (sbad S1 1 = true ∨ sbad S1 9 = true) := by
  decide +kernel
theorem test_wit_ScalarImmediateForms : (0 : Nat) < 64 ∧ (63 : Nat) < 64 := by decide
theorem test_wit_ScalarComputeFrame : S1.evs = [] ∧ (∀ c, WideOp.add ≠ .cmp c) ∧ nextIs (exec (.aluWide .add 3 1 5) S1) (fun _ => true) = true ∧
    nextIs (exec (.add 3 1 2) S1) (fun _ => true) = true ∧
    (sbad S1 1 = false ∧ sbad S1 2 = false ∧ nextIs (exec (.cmp .lt 4 1 2) S1) (fun _ => true) = true) :=
  ⟨by decide +kernel, fun _ => nofun, by decide +kernel, by decide +kernel, by decide +kernel⟩
theorem test_wit_ReturnQueues : tabGet [] (withY S1).g.lane.y 1 = [(0x80000001, true), (3, false)] ∧ tabGet [] (withY S1).g.lane.y 0 = [] := by
  decide +kernel
theorem test_wit_MaskInstructions : (sbad S1 1 = false ∧ sbad S1 9 = true) ∧ (0 : Nat) < 8 ∧ (7 : Nat) < 8 ∧ (63 : Nat) < 64 := by decide +kernel
theorem test_wit_BranchTargets : (sbad S1 7 = false ∧ (sreg S1 7).toNat % 4 = 0) ∧ (sbad S1 8 = false ∧ (sreg S1 8).toNat % 4 ≠ 0) ∧ sbad S1 9 = true ∧
    (sbad S1 3 = false ∧ sreg S1 3 - 1 ≠ 0) ∧ (sbad S1 11 = false ∧ sreg S1 11 - 1 = 0) := by decide +kernel
theorem test_wit_FencesAndBlocks : (S1.g.lanesIdle = true ∧ acquireOk S1 .sys = true ∧ releaseOk S1 .rmt = true ∧ ordAcq .ar = true ∧ ordRel .ar = true) ∧
    (blk 3 S1).g.lane.blocks.length < 4 ∧ 4 ≤ (blk 4 S1).g.lane.blocks.length ∧ (S1.g.lane.blocks = [] ∧ S1.g.lane.running = false) ∧
    (blk 1 S1).g.lane.blocks ≠ [] ∧ laneBase.g.lane.running = true := by decide +kernel
/-- Die 0 has taken a copy of a line whose home is on die 1 when its first word was 5; the word is 7 now (R254). -/
def stale : State :=
  let put (s : State) (w : Word) : State := s.homeWrite (.dev (2 ^ 38)) w (checkCode w 0)
  put ((put base 5).fillCopy 0 (2 ^ 38)) 7
theorem test_wit_RemoteCopies : stale.dieOf stale.cur < 4 ∧ scDev .dev = true ∧ scDev .die = false ∧ (0 : Nat) ≠ homeDie (2 ^ 38) ∧
    (stale.copyWord 0 (2 ^ 38)).isSome = true ∧ (1 : Nat) ≠ stale.dieOf stale.cur := by decide +kernel
theorem test_stale_copy : (stale.firstRead stale.cur (.dev (2 ^ 38))).1 = 5 ∧ ((stale.acquired .die).firstRead stale.cur (.dev (2 ^ 38))).1 = 5 ∧
    ((stale.acquired .dev).firstRead stale.cur (.dev (2 ^ 38))).1 = 7 := by decide +kernel
theorem test_own_die_copy : ((stale.agentWrite (.dev (2 ^ 38)) 9 (checkCode 9 0)).copyWord 0 (2 ^ 38)).map Prod.fst = some 9 ∧
    ((stale.agentWrite (.dev (2 ^ 38)) 9 (checkCode 9 0)).firstRead stale.cur (.dev (2 ^ 38))).1 = 9 := by decide +kernel
theorem test_sectors : nextIs (runTurn base (.sectors 1 1 999999 1)) (fun t => (t.owner 1).memLeft == 0 && (t.owner 1).dry && (t.die 1).read 0x315 == 999999 && (t.die 1).read 0x316 == 1) = true ∧
    nextIs (runTurn base (.sectors 1 1 1000001 0)) (fun _ => true) = false ∧ nextIs (runTurn base (.remoteCopy 1 (2 ^ 38))) (fun _ => true) = false := by
  decide +kernel
theorem test_wit_OperandStreams :
    (sbad S1 7 = false ∧ sbad S1 15 = false ∧ streamSpace (fld (sreg S1 15) 48 3) = some .sp ∧ fld (sreg S1 15) 51 13 = 0 ∧ (sreg S1 7).toNat % 4 = 0 ∧
      (sreg S1 8).toNat % 4 ≠ 0) ∧
    (sbad S1 16 = false ∧ fld (sreg S1 16) 51 13 ≠ 0) ∧ (sbad S1 17 = false ∧ streamSpace (fld (sreg S1 17) 48 3) = none) ∧
    ((tabFind (stream S1).g.lane.a 2).map (fun x => x.base) = some 0x10000 ∧ tabFind S1.g.lane.a 2 = none) ∧
    ((tabGet [] (stream S1).g.lane.q 3).length < 4 ∧ 4 ≤ (tabGet [] (full S1).g.lane.q 3).length) ∧
    ok ((List.range 32).mapM (fun l => portLoad .gl l (0x10000 + BitVec.ofNat 64 (4 * 1 * l)))) (stream S1) (fun e _ => e.length == 32) = true ∧
    ((sreg S1 7 + (0 : BitVec 13).signExtend 64).toNat < 2 ^ 56 ∧ (sreg S1 7 + (0 : BitVec 13).signExtend 64).toNat % 4 = 0 ∧
      ok ((List.range 32).mapM (fun l => portLoad .gl l (sreg S1 7 + BitVec.ofNat 64 (4 * l)))) S1 (fun e _ => e.length == 32) = true) := by
  decide +kernel
theorem test_wit_ControlRegisters :
    (ctlRead 0 ≤ S1.g.level ∧ ctlReady (blk 1 S1) 0 = true ∧ ctlRead 0x19 ≤ S1.g.level ∧ ctlReady S1 0x19 = true ∧ ctlReady (blk 1 S1) 0x19 = false ∧
      ctlReady { S1 with matrix := [(7, { mo0 with started := true })] } 0x1E = false) ∧
    S1.g.level < ctlRead 0x100 ∧ ctlWrite 0 = none ∧
    (ctlWrite 0x18 = some 0 ∧ ctlReady (blk 1 S1) 0x18 = false ∧ ctlReady S1 0x18 = true ∧ sbad (blk 1 S1) 1 = false) ∧ ((31 : Nat) ≠ 15 ∧ (1 : Nat) < 32 ∧ (5 : Nat) < 6) ∧
    (ctlWrite 0x10 = some 0 ∧ 0 ≤ S1.g.level ∧ sbad S1 9 = true ∧ sbad S1 1 = false) ∧
    ((ctlWrite 0x100).map (fun l => decide (S1.g.level < l)) = some true) ∧
    ((List.range 1024).any (fun n => ctlWrite n == some 0 && (S1.writeCtl n (sreg S1 5)).isNone) = true) ∧
    ((List.range 1024).any (fun n => ctlWrite n == some 0 && (S1.writeCtl n (sreg S1 0)).isSome) = true) := by decide +kernel
theorem test_wit_UserTraps :
    ((ut S1).g.level = 0 ∧ (ut S1).g.utrap ≠ 0 ∧ (ut S1).g.tr.tctl.getLsbD 1 = false ∧ (ut S1).matrix = []) ∧ (S1.g.level = 0 ∧ S1.g.utrap = 0) ∧
    ((atL S1 1).g.level = 1 ∧ (atL S1 2).g.level = 2 ∧ (atL S1 3).g.level = 3) := by decide +kernel
theorem test_wit_UserTrapWithin : nextIs (exec (.trap 3) (ut S1)) (fun t => t.g.tr.tctl == 2) = true := by decide +kernel
theorem test_wit_EntryToLevelH : S1.g.level = 0 ∧ S1.g.wait = none ∧ S1.g.pendingFault = none ∧ S1.matrix = [] ∧ S1.cur < serviceGroup 0 := by decide +kernel
/-- A group in a user trap handler that a lane word entered: lanes 0 and 2 trapped. -/
def laneTrap : TrapInfo :=
  { cause := 14, arg := 1, pc := 0x10000, lane := true, mask := 5, done := 2, info := 77, size := 0, mark := some { path := -1, active := 7, done := 2, push := none } }
def inUser : State := (ut laneBase).takeTrap 0 laneTrap
def busyLanes (s : State) : State := s.updG (fun x => { x with lane := { x.lane with running := true } })
def again (s : State) : State := s.updG (fun x => { x with tr := { x.tr with tctl := x.tr.tctl ||| 1 } })
theorem test_wit_TrapReturns :
    (inUser.g.level = 0 ∧ inUser.g.tr.tctl.getLsbD 1 = true ∧ inUser.g.lanesIdle = true ∧ (inUser.g.uAside.bind (fun a => a.word)).isSome = true ∧
      inUser.g.tr.tctl.getLsbD 0 = false ∧ inUser.g.tr.tmask ≠ 0 ∧ (again inUser).g.tr.tctl.getLsbD 0 = true) ∧
    ((busyLanes inUser).g.tr.tctl.getLsbD 1 = true ∧ (busyLanes inUser).g.lanesIdle = false) ∧ S1.g.tr.tctl.getLsbD 1 = false ∧
    (inUser.g.uAside.bind (fun a => a.word.bind (fun m => (tabFind a.lane.slots 0).map (fun e => e.1.mask == m.path)))) = some true := by decide +kernel
theorem test_wit_ScalarTrapReturn : (after (.trap 3) (ut S1)).g.uAside.map (fun a => a.word) = some none := by decide +kernel
/-- A group in a pre-empt handler. -/
def inPre : State := (atL S1 1).updG (fun x => { x with hcause := 33 })
theorem test_wit_HandlerExits :
    (inPre.g.level = 1 ∧ fld inPre.g.hcause 0 6 = 33 ∧ inPre.g.lanesIdle = true ∧ releaseOk inPre .dev = true ∧ inPre.waits = [] ∧
      (match (released inPre .dev).reserveLoc (inPre.ownerOf inPre.cur) (inPre.frameVa inPre.cur 0) with | .dev _ => true | _ => false) = true) ∧
    ((atL S1 1).g.level = 1 ∧ fld (atL S1 1).g.hcause 0 6 ≠ 33 ∧ fld (atL S1 1).g.hcause 0 6 ≠ 35 ∧ sbad (atL S1 1) 1 = false ∧ sbad (atL S1 1) 9 = true) ∧
    ((atL S1 1).g.hAside.isSome = true ∧ (atL S1 1).g.preempt = none) ∧
    ((atL S1 2).g.level = 2 ∧ (atL S1 2).g.lanesIdle = true ∧ (busyLanes (atL S1 2)).g.lanesIdle = false) ∧
    (let s := (atL S1 2).updG (fun x => { x with h2Aside := x.hAside })
     s.g.level = 2 ∧ s.g.h2Aside.isSome = true ∧ s.g.preempt = none) ∧ (S1.g.level ≠ 1 ∧ S1.g.level ≠ 2 ∧ S1.g.level ≠ 3) := by decide +kernel
/-- The raw word at the address is reached (R292). -/
def rawAt (s : State) (ea : DWord) (kind : Nat) : Bool := ok (rawPlace ea kind) s (fun _ _ => true)
theorem test_wit_RawWords :
    (let s := regs (atL S2 1) [(20, 0x10004), (21, 0x10006), (22, 255), (23, 256)]
     s.g.level = 1 ∧ sbad s 9 = true ∧ sbad s 20 = false ∧ (sreg s 21 + (0 : BitVec 13).signExtend 64).toNat % 4 ≠ 0 ∧ sbad s 22 = false ∧
       (sreg s 20).toNat % 4 = 0 ∧ sreg s 0 = 0 ∧ 256 ≤ (sreg s 23).toNat ∧ sreg s 22 ≠ 0 ∧ (sreg s 22).toNat < 256 ∧
       rawAt s (sreg s 20 + (-4 : BitVec 13).signExtend 64) 0 = true ∧ rawAt s (sreg s 20 + (4 : BitVec 13).signExtend 64) 1 = true ∧ rawAt s (sreg s 20) 1 = true) ∧
    ((atL S2 2).g.level = 2 ∧ rawAt (atL S2 2) 0x10000 0 = true) := by decide +kernel
theorem test_wit_RefusedAccesses : (sbad S1 8 = false ∧ S1.g.level ≠ 3) ∧
    (let ea := sreg S1 8 + (1 : BitVec 13).signExtend 64
     ea.toNat < 2 ^ 56 ∧ ea.toNat % 2 ≠ 0 ∧ ea.toNat % 4 ≠ 0 ∧ ea.toNat % 8 ≠ 0) ∧
    2 ^ 56 ≤ (sreg S1 4 + (0 : BitVec 13).signExtend 64).toNat ∧ S1.g.level = 0 ∧
    (let ea : DWord := sreg S1 1 + (1 : Word).signExtend 64
     ea.toNat % 4 ≠ 0 ∧ (S1.spacePlace S1.cur 0 .sp ea.toNat).isSome = true ∧ S1.spacePlace S1.cur 0 .sp (sreg S1 8).toNat = none ∧
       (S1.spacePlace S1.cur 0 .cl (sreg S1 13 + (2 : BitVec 20).signExtend 64).toNat).isSome = true) := by decide +kernel
theorem test_wit_ScalarLoads : sbad S2 9 = true ∧ sbad S2 7 = false ∧
    ok (place .gl (sreg S2 7 + (-4 : BitVec 13).signExtend 64) 0 4 (typesOf .w)) S2 (fun r s1 => acquireOk s1 .none &&
      ok (loadAt 1 r.1 .w) s1 (fun v _ => v == (0x11223344, false))) = true ∧
    ok (place .gl (sreg S2 12 + (0 : Word).signExtend 64) 0 8 (typesOf .d)) S2 (fun r s1 => acquireOk s1 .rmt &&
      ok (promote r.1) s1 (fun _ s2 => ok (loadAt 1 r.1 .d) s2 (fun v _ => v == (0x89ABCDEF, false)))) = true ∧
    (let l : Loc := .dev (320 * 65536)
     l.byte % 2 = 0 ∧ codeOk (S2.firstRead S2.cur l).1 (S2.firstRead S2.cur l).2 l.off = true ∧
       codeOk (S2.firstRead S2.cur (l.plus 4)).1 (S2.firstRead S2.cur (l.plus 4)).2 (l.plus 4).off = true) := by decide +kernel
theorem test_wit_ScalarStores : sbad S2 9 = true ∧ sbad S2 7 = false ∧
    ok (place .gl (sreg S2 7 + (-4 : BitVec 13).signExtend 64) 1 4 (typesOf .w)) S2 (fun r s1 => ok (storeAt 1 false r.1 .w 5 false) s1 (fun _ _ => true)) =
      true ∧
    ok (place .gl (sreg S2 12 + (0 : Word).signExtend 64) 1 8 (typesOf .d)) S2 (fun r s1 => releaseOk s1 .dev &&
      ok (storeAt 1 true r.1 .d 5 true) (released s1 .dev) (fun _ _ => true)) = true := by decide +kernel
theorem test_wit_MemoryFrames :
    ok (place .gl 0x10000 0 4 (typesOf .w)) S2 (fun r s1 => ok (loadAt 1 r.1 .w) s1 (fun _ _ => true)) = true ∧
    (S2.g.level ≠ 3 ∧ ([0, 4096].map (fun n : Nat => n)).Nodup ∧ (sectorsOf (S2.team S2.g.team).held).length + 2 ≤ 2048) ∧
    ok (place .gl (sreg S2 7 + (0 : BitVec 13).signExtend 64) 1 4 (typesOf .w)) S2 (fun r s1 => r.1 == .dev (320 * 65536 + 4) && s1.evs.isEmpty &&
      s1.g.level != 3 && decide ((sectorsOf (s1.team s1.g.team).held).length < 2048)) = true := by decide +kernel
theorem test_wit_ScalarAtomics : sbad S2 9 = true ∧ sbad S2 12 = false ∧
    ok (place .gl (sreg S2 12 + (0 : BitVec 20).signExtend 64) 2 4 typesAtomic) S2 (fun r s1 =>
      ok (atomicBefore .ar .dev r.1) s1 (fun _ s2 => ok (atomicAt 1 true r.1 .add .w 5 0 false false) s2 (fun v _ => v == (0x89ABCDEF, false)))) = true := by
  decide +kernel

/-! ## Hypotheses of the statements: the lane stream -/
theorem test_wit_LaneIntegers :
    (laneReady L1 P1 9 [.v 1, .imm] (.dst (.v 20 none)) = true ∧
      (laneResults L1 P1 9 [.v 1, .imm] (fun _ as => .done [(argVal as 0 + argVal as 1, anyBad as)] 0)).all
        (fun e => laneQuiet L1 (.dst (.v 20 none)) e.2) = true) ∧
    (laneReady L1 P1 9 [.q 3, .b 0, .v 11] (.dst (.y 1 (some 0))) = true ∧
      (laneResults L1 P1 9 [.q 3, .b 0, .v 11] (fun _ as => .done [(argVal as 0 * argVal as 1 + argVal as 2, anyBad as)] 0)).all
        (fun e => laneQuiet L1 (.dst (.y 1 (some 0))) e.2) = true) ∧
    (laneReady L1 P1 9 [.sbc] (.dst (.latch 1)) = true ∧
      (laneResults L1 P1 9 [.sbc] (fun _ as => .done [(argVal as 0, anyBad as)] 0)).all (fun e => laneQuiet L1 (.dst (.latch 1)) e.2) = true) := by
  decide +kernel
/-- Some active lane's result is a trap, or raises an enabled exception. -/
def trapsIn (s : State) (p : LPred) (imm : Word) (srcs : List LSrc) (d : LaneDst) (f : Nat → List (Word × Bool) → LRes) : Bool :=
  laneReady s p imm srcs d && ((laneResults s p imm srcs f).map (fun e => (e.1, enabled s.g.fpen d e.2))).any (fun e => e.2.isTrap)
/-- Every active lane's result is complete and raises none. -/
def quietIn (s : State) (p : LPred) (imm : Word) (srcs : List LSrc) (d : LaneDst) (f : Nat → List (Word × Bool) → LRes) : Bool :=
  laneReady s p imm srcs d && (laneResults s p imm srcs f).all (fun e => laneQuiet s d e.2)
def fcmpRes (fc : FCond) (as : List (Word × Bool)) : LRes := if anyBad as then .trap 3 0 else
  .done [(if (Num.fcmp fc (argVal as 0) (argVal as 1)).1 then 1 else 0, false)] (Num.fcmp fc (argVal as 0) (argVal as 1)).2
theorem test_wit_LanePredicateTraps :
    trapsIn L1 P1 0 [.v 11, .v 1] (.pred 3) (fun _ as => fcmpRes .lt as) = true ∧ quietIn L1 P1 0 [.v 4, .v 3] (.pred 3) (fun _ as => fcmpRes .lt as) = true ∧
    trapsIn (L1.updG (fun x => { x with fpen := 1 })) P1 0 [.v 7, .v 3] (.pred 3) (fun _ as => fcmpRes .lt as) = true ∧
    trapsIn L1 P1 0 [.v 1, .v 11] (.dst (.v 20 none)) (fun _ as => if argBad as 1 then .trap 3 0 else .done [] 0) = true ∧
    trapsIn L1 P1 0 [.v 11] (.pred 3) (fun _ _ => if (running L1 P1).any (fun l => (laneVal L1 0 (.v 11) l).2) then .trap 3 0 else .done [(1, false)] 0) = true := by
  decide +kernel
theorem test_wit_FirstCause : [7, 3, 14, 12, 13, 4, 5] = [7, 3] ++ 14 :: [12, 13, 4, 5] ∧ (3, LRes.trap 14 0) ∈ [(1, LRes.trap 12 0), (3, LRes.trap 14 0)] ∧
    (∀ k ∈ [7, 3], ∀ m g, (m, LRes.trap k g) ∉ [(1, LRes.trap 12 0), (3, LRes.trap 14 0)]) ∧ (63 : Nat) < 64 ∧ (31 : Nat) < 32 ∧ (5 : Nat) < 6 :=
  ⟨rfl, by decide, fun k hk m g h => by simp at hk h; omega, by decide, by decide, by decide⟩
theorem test_wit_LanePredicates :
    (laneReady L1 P1 9 [.v 1, .v 2] (.pred 3) = true ∧
      (laneResults L1 P1 9 [.v 1, .v 2] (fun _ as => if anyBad as then .trap 3 0 else .done [(if argVal as 0 = argVal as 1 then 1 else 0, false)] 0)).all
        (fun e => laneQuiet L1 (.pred 3) e.2) = true) ∧
    (laneReady L1 P1 9 [.v 11] (.pred 3) = true ∧
      (laneResults L1 P1 9 [.v 11] (fun _ as => .done [(if argBad as 0 then 1 else 0, false)] 0)).all (fun e => laneQuiet L1 (.pred 3) e.2) = true) ∧
    (laneReady L1 P1 9 [.v 11, .v 2] (.dst (.v 20 none)) = true ∧
      (laneResults L1 P1 9 [.v 11, .v 2] (fun _ as => .done [(argVal as 0, true)] 0)).all (fun e => laneQuiet L1 (.dst (.v 20 none)) e.2) = true) := by
  decide +kernel
theorem test_wit_LaneFloats :
    (laneReady L1 P1 0x40000000 [.v 4, .v 11, .imm] (.dst (.v 20 none)) = true ∧
      (laneResults L1 P1 0x40000000 [.v 4, .v 11, .imm] (fun _ as =>
        .done [((Num.ffma .rup (argVal as 0) (argVal as 1) (argVal as 2)).1, anyBad as)]
          (if anyBad as then 0 else (Num.ffma .rup (argVal as 0) (argVal as 1) (argVal as 2)).2))).all
        (fun e => laneQuiet L1 (.dst (.v 20 none)) e.2) = true) ∧
    (let nan (w : Word) : Bool := decide (0x7F800000 < w.toNat % 2 ^ 31)
     nan 0x7F800001 = true ∧ nan 0xFFC00000 = true ∧ nan 0x3F800000 = false ∧ nan 0x7F800000 = false ∧
       ((0xBF800000 : Word).getLsbD 31 = true ∧ (0xBF800000 : Word) ≠ 0x80000000 ∧ nan 0xBF800000 = false) ∧
       ((0xFF800000 : Word).getLsbD 31 = true ∧ nan 0xFF800000 = false)) := by decide +kernel
theorem test_wit_CrossLaneWords :
    (laneReady L1 P1 1 [.v 1, .imm] (.dst (.v 20 none)) = true ∧
      (laneResults L1 P1 1 [.v 1, .imm] (fun _ _ => .done [(7, false)] 0)).all (fun e => laneQuiet L1 (.dst (.v 20 none)) e.2) = true) ∧
    (laneReady L1 P1 1 [.v 11] (.pred 3) = true ∧ laneReady L1 P1 0 [.v 1, .v 2, .v 3] (.dst (.v 20 none)) = true) ∧
    (running L1 P1).contains 5 = true ∧ (running L1 P1).contains 6 = false ∧
    ([1, 2, 5] : List Word).Perm [5, 1, 2] ∧ (5 : Word) ∈ [1, 2, (5 : Word)] ∧ [(5 : Word)] ≠ [] ∧ (31 : Nat) < 32 := by decide +kernel
def someRes : List (Nat × LRes) := [(0, .done [(5, false)] 3), (1, .done [(0, true)] 33), (5, .done [] 0), (31, .trap 4 2)]
theorem test_wit_LaneWordEffect : (someRes.map Prod.fst).Nodup ∧ (∀ e ∈ someRes, e.1 < 32) ∧ (0, LRes.done [(5, false)] 3) ∈ someRes ∧ 3 < 64 ∧
    (1, LRes.done [(0, true)] 33) ∈ someRes ∧
    (∀ e ∈ someRes, e.1 = 31 → writesV (.dst (.v 1 none)) 1 e.2 = false) ∧ (∀ e ∈ someRes, e.1 ≠ 30) ∧ (191 : Nat) < 192 ∧
    (∀ e ∈ someRes, e.1 = 0 → writesV (.dst (.v 1 none)) 191 e.2 = false) ∧ some 1 ≠ (LaneDst.dst (.y 0 none)).queue ∧ 4 ∉ queuesOf [.q 3] ∧
    (∀ n, (LaneDst.pred 1) = .pred n → n ≠ 2) :=
  ⟨by decide, by decide, by decide, by decide, by decide, by decide, by decide, by decide, by decide, by decide, by decide,
   fun n h => by cases h; decide⟩
theorem test_wit_LaneExceptions :
    (let s := L1.updG (fun x => { x with fpen := 0x1F })
     laneReady s P1 0 [.v 5, .v 3] (.dst (.v 20 none)) = true ∧
       ((laneResults s P1 0 [.v 5, .v 3] (fun _ as => .done [((Num.fmul .rne (argVal as 0) (argVal as 1)).1, anyBad as)]
         (if anyBad as then 0 else (Num.fmul .rne (argVal as 0) (argVal as 1)).2))).map (fun e => (e.1, enabled s.g.fpen (.dst (.v 20 none)) e.2))).any
         (fun e => e.2.isTrap) = true) ∧
    (laneReady L1 P1 0 [.v 11, .v 1] (.pred 3) = true ∧
      ((laneResults L1 P1 0 [.v 11, .v 1] (fun _ as => if anyBad as then .trap 3 0 else .done [(1, false)] 0)).map
        (fun e => (e.1, enabled L1.g.fpen (.pred 3) e.2))).any (fun e => e.2.isTrap) = true) ∧ (63 : Nat) < 64 ∧ (5 : Nat) < 6 := by
  decide +kernel
def nopPath : Path := { pc := 0x10000, mask := -1, inner := none }
def someJoin : JoinRec := { join := 0x10054, arrived := 0, outer := none, park := none }
/-- One path; a path and an outer record; two paths of one record; the last path of a record. -/
def ctx1 : LaneCtx := { LaneCtx.empty with running := true, slots := [(0, (nopPath, 0))] }
def ctx3 : LaneCtx :=
  { LaneCtx.empty with
    running := true
    slots := [(0, ({ nopPath with inner := some 0, mask := 0xFF }, 0)), (1, ({ nopPath with inner := some 0, mask := 0xFF00 }, 0))]
    spill := [(0, someJoin)] }
def ctx4 : LaneCtx :=
  { LaneCtx.empty with
    running := true
    slots := [(0, ({ nopPath with inner := some 0, mask := 0xFF }, 0))]
    spill := [(0, { someJoin with arrived := 0xFF00 })] }
def ctx5 : LaneCtx := { ctx1 with spill := (List.range 16).map (fun i => (i, someJoin)) }
theorem test_wit_LaneControlWords :
    (nopPath.redo = none ∧ tabFind L1.g.lane.slots L1.slot = some (nopPath, 0)) ∧
    (nopPath.mask &&& L1.g.lr.pred 1 ≠ nopPath.mask ∧ nopPath.mask &&& L1.g.lr.pred 1 ≠ 0 ∧ nopPath.mask &&& L1.g.lr.pred 3 = 0 ∧
      nopPath.mask &&& ~~~(L1.g.lr.pred 3) = nopPath.mask) ∧
    (L1.g.lane.diverge (L1.clock L1.cur) L1.slot (L1.g.lr.pred 1) 0x10030 0x1000C 0x10060).isSome = true ∧
    (tabFind (noSpill L1).g.lane.slots L1.slot = some (nopPath, 0) ∧
      (noSpill L1).g.lane.diverge (L1.clock L1.cur) L1.slot (L1.g.lr.pred 1) 0x10030 0x1000C 0x10060 = none) ∧
    (tabFind ctx1.slots 0 = some (nopPath, 0) ∧ tabFind ctx1.slots 1 = none ∧ tabFind ctx1.spill 0 = none ∧ ctx1.slots = [(0, (nopPath, 0))] ∧
      (∀ e ∈ ctx1.slots, e.1 < 2)) ∧
    (let c := { ctx1 with spill := (List.range 15).map (fun i => (i, someJoin)) }
     tabFind c.spill 15 = none ∧ (List.range 15).all (fun i => (tabFind c.spill i).isSome) = true ∧ (∀ e ∈ c.spill, e.2.park = none)) ∧
    (tabFind ctx3.spill 0 = some someJoin ∧ (tabFind ctx3.slots 0).map (fun q => q.1.inner) = some (some 0) ∧
      (tabFind ctx3.slots 1).map (fun q => q.1.inner) = some (some 0)) ∧
    ((tabFind ctx4.slots 0).map (fun q => q.1.inner) = some (some 0) ∧ tabFind ctx4.slots 1 = none ∧
      (tabFind ctx4.spill 0).map (fun r => (r.outer, r.arrived)) = some (none, 0xFF00) ∧ (∀ e ∈ ctx4.spill, e.2.outer ≠ some 0)) ∧
    ((List.range 16).all (fun i => (tabFind ctx5.spill i).isSome) = true ∧ tabFind ctx5.slots 0 = some (nopPath, 0)) := by decide +kernel
theorem test_wit_LaneMemoryOrder :
    ((L2.g.lr.get 40 1).2 = false ∧ (L2.g.lr.get 41 1).2 = false) ∧ (L2.g.lr.get 11 5).2 = true ∧ Space.sp ≠ .gl ∧
    ok (buildAll .w [] [(0, .ok (.dev 4), [(5, true)]), (3, .ok (.dev 4), [(6, false)])]) L2
      (fun b t => builtAt b (.dev 4) == some (6, true) && decide (t = L2)) = true ∧
    ok (buildAll .w [] [(0, .ok (.dev 4), [(5, true)]), (3, .ok (.dev 8), [(6, false)])]) L2 (fun _ t => decide (t = L2)) = true ∧
    (2 : Nat) < [(0, (1 : Word), (2 : Word)), (3, 7, 5), (4, 9, 7)].length := by decide +kernel
/-- The places of the running lanes of L2 in the global space. -/
def placesL (kind width : Nat) (types : Nat → Bool) (k : Word) (srcs : List LSrc) : M (List (Nat × LPlace × List (Word × Bool))) :=
  (running L2 P1).mapM (fun l => do
    let q ← lanePlace .gl 40 l k kind width types
    pure (l, q, laneIn L2 k srcs l))
theorem test_wit_LaneMemoryWords :
    (laneReady L2 P1 4 [] (.dst (.v 20 none)) = true ∧
      ok (do
        let ps ← placesL 0 4 typesLane 4 []
        ps.mapM (fun e => match e.2.1 with
          | .no r => pure (e.1, r)
          | .ok l => do
            let (v, bad) ← loadAt 0 l .w
            pure (e.1, LRes.done [(v.truncate 32, bad)] 0))) L2
        (fun res t => res.length == 4 && res.all (fun e => laneQuiet t (.dst (.v 20 none)) e.2)) = true) ∧
    (laneReady L2 P1 4 [.v 1] .none = true ∧
      ok (do
        let ps ← placesL 1 4 typesLane 4 [.v 1]
        let ws ← buildAll .w [] ps
        release .dev
        storeBuilt true ws
        pure (ps.map (fun e => (e.1, match e.2.1 with | .ok _ => LRes.done [] 0 | .no r => r)))) L2
        (fun res t => res.length == 4 && res.all (fun e => laneQuiet t .none e.2)) = true) ∧
    (laneReady L2 P1 4 [.v 1, .v 2] (.dst (.v 20 none)) = true ∧
      ok (do
        let ps ← placesL 2 4 typesAtomic 4 [.v 1, .v 2]
        let at_ := (ps.filterMap (fun e => match e.2.1 with | .ok l => some l | .no _ => none)).eraseDups
        let olds ← vamoAll .add false ps at_
        pure (ps.map (fun e => (e.1, match e.2.1 with
          | .no r => r
          | .ok _ => ((olds.find? (fun f => f.1 == e.1)).map (fun f => f.2)).getD (.done [] 0))))) L2
        (fun res t => res.length == 4 && res.all (fun e => laneQuiet t (.dst (.v 20 none)) e.2)) = true) := by decide +kernel
def placesC (kind m : Nat) : M (List (Nat × LPlace)) := (running L3 P2).mapM (fun l => do
  let q ← coursePlace .gl 40 l 0 kind ((m - 1) * 128 + 4 * l)
  pure (l, q))
theorem test_wit_CourseWords :
    (laneReady L3 P2 0 [] (courseDst 2 (.v 20 none)) = true ∧
      ok (do
        let ps ← placesC 0 3
        ps.mapM (fun e => match e.2 with
          | .no r => pure (e.1, r)
          | .ok l => do
            let ws ← (List.range 3).mapM (fun c => consumeAt 0 (l.plus (c * 128 + 4 * e.1)))
            pure (e.1, courseLane 2 true ws))) L3 (fun res t => res.length == 1 && res.all (fun e => laneQuiet t (courseDst 2 (.v 20 none)) e.2)) = true) ∧
    (laneReady L3 P2 0 [] .none = true ∧
      ok (do
        let ps ← placesC 1 2
        let t ← get
        let ws := ps.flatMap (fun e => match e.2 with
          | .no _ => []
          | .ok l => (List.range 2).map (fun c => (l.plus (c * 128 + 4 * e.1), (t.g.lr.get (1 + c) e.1).1, (t.g.lr.get (1 + c) e.1).2)))
        upd (fun t => t.makeRoom t.g.team (ws.map (fun e => e.1)))
        storeBuilt false ws
        pure (ps.map (fun e => (e.1, match e.2 with | .ok _ => LRes.done [] 0 | .no r => r)))) L3
        (fun res t => res.length == 1 && res.all (fun e => laneQuiet t .none e.2)) = true) ∧
    ok (do
      let ps ← placesC 2 4
      upd (fun t => t.makeRoom t.g.team (ps.flatMap (fun e => match e.2 with
        | .no _ => []
        | .ok l => (List.range 4).map (fun c => l.plus (c * 128 + 4 * e.1)))))
      ps.mapM (fun e => match e.2 with
        | .no r => pure (e.1, r)
        | .ok l => do
          settleAtomics l
          let ws ← (List.range 4).mapM (fun c => atomicRead (l.plus (c * 128 + 4 * e.1)))
          let t ← get
          let (vs, fl) := updateLane .ne4 ws ((List.range 4).map (fun j => t.g.lr.get (1 + j) e.1))
          storeBuilt false (vs.zipIdx.map (fun v => (l.plus (v.2 * 128 + 4 * e.1), v.1.1, v.1.2)))
          upd (fun t => t.noteAtomic false l)
          pure (e.1, LRes.done [] fl))) L3 (fun res t => res.length == 1 && res.all (fun e => laneQuiet t .none e.2)) = true ∧
    ([1, 2, 3, 4] : List Nat).length = 4 ∧ (3 : Nat) < 4 ∧ (0 : Nat) < 1 ∧ (3 : Nat) ≤ 3 ∧ (127 : Nat) < 256 ^ 1 ∧ (255 : Nat) < 256 ∧
    (0x7FFF : Nat) % 2 ^ (8 * 2 - 1) = 2 ^ (8 * 2 - 1) - 1 ∧ (0 : Nat) % 2 ^ (8 * 1 - 1) ≠ 2 ^ (8 * 1 - 1) - 1 ∧ (2 ^ 32 - 1 : Nat) < 2 ^ 32 := by
  decide +kernel

/-! ## Hypotheses of the statements: engines, memory by pages, the fabric and teams -/
def M1 : State := regs (mkPair laneBase) [(31, 0x00000040), (32, 1024)]
def M2 : State := paired M1
def P0 : LPred := { neg := false, p := 0 }
def MV : State := after (.vmma .e4m3 .e4m3 64 0 16 P0) M1
def MP : State :=
  let s := after (.vmmap .i8 .i8 32 0 16 P0) M2
  { (after (.vmmap .i8 .i8 32 0 16 P0) { s with cur := 1 }) with cur := 0 }
theorem test_wit_MatrixTiles :
      (match tileDesc .e4m3 (M1.g.sr.get 31) with
        | some x => (x.offs .e4m3).all (fun o => decide ((M1.g.sr.get 30).toNat % 2 ^ 19 + o + 4 ≤ (M1.descOf 0).scratch)) &&
          ok (tileRows x .e4m3 0 0) M1 (fun _ s1 => ok (tileRows x .e4m3 0 0) s1 (fun _ _ => true))
        | none => false) = true := by decide +kernel
theorem test_wit_MatrixQueue : (MV.engineQueue 0).all (fun e => (MV.group 0).issuedMx == (MV.group e.2.group).issuedMx && decide ((MV.group 0).ctx ≤ (MV.group e.2.group).ctx)) = true ∧
    (M2.updG (fun x => { x with pairLost := true })).g.pairLost = true ∧ laneReady (M2.updG (fun x => { x with pairLost := true })) P0 0 [] .none = true := by decide +kernel
theorem test_wit_MatrixPairs :
    ((MP.matrix.map (fun m => (m.1, m.2.group, m.2.kind))) = [(10, 0, 2), (11, 1, 2)] ∧ (MP.group 0).partner = some 1 ∧
      (MP.nextMatrix 0).any (fun e => e.1 == 10 && e.2.seq == 0 && e.2.t0 == 0 && e.2.fa == .i8 && e.2.fb == .i8) = true ∧
      (MP.nextMatrix 1).any (fun e => e.1 == 11 && e.2.seq == 0 && e.2.t0 == 0 && e.2.fa == .i8 && e.2.fb == .i8) = true ∧
      (MP.group 1).gstate = .active ∧ MP.engineFree 0 = true ∧ MP.engineFree 1 = true ∧
      MP.stagingHeld (MP.group 0).team + 2048 ≤ MP.stageBytes (MP.group 0).team ∧ MP.stagingHeld (MP.group 1).team + 2048 ≤ MP.stageBytes (MP.group 1).team) := by decide +kernel
theorem test_wit_MatrixWords :
    (laneReady M1 P0 0 [] .none = true ∧ (M1.laneWord P0).run ≠ 0) ∧ (poison M1 30).g.sr.bad 30 = true ∧
    ((M1.g.sr.bad 30 || M1.g.sr.bad 31) = false ∧ M1.teamAt M1.g.team ((M1.g.sr.get 30).toNat / 2 ^ 19) = some 0 ∧ (M1.g.sr.get 30).toNat % 4 = 0 ∧
      M1.stagingHeld M1.g.team + 4096 ≤ M1.stageBytes M1.g.team) ∧
    (M1.g.pairLost = false ∧ M1.g.partner = none) ∧
    (M2.g.pairLost = false ∧ M2.g.partner = some 1 ∧ 2048 ≤ M2.stageBytes M2.g.team ∧ M2.waitingVmmap 1 = none ∧ M2.waitingVmmap M2.cur = none) ∧
    ((tabFind MV.matrix 10).isSome = true ∧ ((MV.nextMatrix 0).map (fun e => e.1)) = some 10 ∧ (MV.group 0).gstate = .active ∧ MV.engineFree 0 = true) ∧
    ((tabFind (after (.matrixStart 10) MV).matrix 10).map (fun m => m.started) = some true ∧ tabFind MV.matrix 9 = none) ∧
    ((31 : Nat) < 32 ∧ (7 : Mask).getLsbD 2 = true ∧ (7 : Mask).getLsbD 31 = false) := by decide +kernel
def H1 : State := regs (atL S1 1) [(20, 0x10000), (21, 0x10000), (22, 3), (23, 0x10008), (24, 0), (25, 64), (26, 1), (27, 63)]
def fg : Fgrow := { tier := 0, count := 2, word := 0x10008, level := 0 }
def F1 : State := S1.updOwner 1 (fun x => { x with fgrows := [fg] })
def mv0 : Move := { owner := 1, ofi := 64, source := 320, target := 400, moved := [3], retire := false }
def F2 : State :=
  { (F1.setFrames .scrub [402]) with
    moves := [(0, mv0), (5, { mv0 with moved := (List.range 128).filter (fun i => i != 4), target := 401 })] }
theorem test_wit_PagingInstructions :
    (H1.g.level = 1 ∧ (atL S1 2).g.level = 2 ∧ sbad H1 20 = false ∧ sbad H1 21 = false) ∧
    ((sreg H1 20).toNat % 65536 = 0 ∧ (sreg H1 20).toNat < 2 ^ 56 ∧ (sreg H1 20).toNat + (sreg H1 21).toNat ≤ 2 ^ 56 ∧ releaseOk H1 .dev = true ∧
      (released H1 .dev).inFlight (H1.ownerOf H1.cur) (sreg H1 20).toNat (sreg H1 21).toNat = false) ∧
    (sreg H1 23).toNat % 65536 ≠ 0 ∧ sbad (poison H1 20) 20 = true ∧
    (let e (st : Nat) : State := H1.updOwner 1 (fun x => { x with fmap := tabPut x.fmap 64 { x.entry 64 with st := st } })
     (((e 0).owner 1).entry 64).st = 0 ∧ (((e 2).owner 1).entry 64).st = 2) ∧
    (fld (sreg H1 22) 33 31 = 0 ∧ 1 ≤ fld (sreg H1 22) 0 32 ∧ fld (sreg H1 22) 0 32 ≤ 65536 ∧ (sreg H1 23).toNat % 8 = 0 ∧
      ok (place .gl (sreg H1 23) 1 8 typesDevice) H1 (fun _ s1 => decide ((s1.owner (s1.ownerOf s1.cur)).fgrows.length < 8) && releaseOk s1 .dev) = true) ∧
    (let x := H1.owner (H1.ownerOf H1.cur)
     1 ≤ (sreg H1 26).toNat ∧ x.reserve ≤ (sreg H1 25).toNat ∧ (sreg H1 25).toNat + (sreg H1 26).toNat ≤ x.frames ∧ (x.entry 64).st = 1 ∧
       H1.windowBusy (H1.ownerOf H1.cur) (sreg H1 25).toNat (sreg H1 26).toNat = false ∧ (sreg H1 27).toNat < x.reserve) := by decide +kernel
theorem test_wit_FrameSteps :
    ((S1.owner 1).fgrows = [] ∧ (F1.owner 1).fgrows = [fg] ∧ F1.led = true ∧ (S1.updDie 0 (fun x => { x with role := 0 })).led = false) ∧
    ((1 : Nat) ≤ 4 ∧ [500, 501].length = fg.count ∧ (∀ f ∈ [500, 501], F1.frameState f = .free ∧ frameFits fg.tier (F1.mintOf 1) f = true) ∧ [500, 501].Nodup ∧
      (F1.owner 1).frames + fg.count ≤ 2 ^ 26) ∧
    (let e := (F1.owner 1).entry 64
     e.st = 1 ∧ e.ty = 0 ∧ e.pinned = false ∧ F1.frameState e.frame = .owned ∧ F1.frameState 400 = .free ∧ frameFits 0 (F1.mintOf 1) 400 = true ∧
       tabFind F1.moves 0 = none) ∧
    ((F2.moves.map (fun m => (m.1, m.2.moved.length))) = [(0, 1), (5, 127)] ∧ 4 ∉ mv0.moved ∧ mv0.source ≠ mv0.target) ∧
    (F2.frameState 402 = .scrub ∧ F2.frameState 320 ≠ .scrub) ∧ (65535 : Nat) < 65536 ∧ (0 : Nat) < 402 * 65536 := by decide +kernel
def R1 : State := regs (win S1) [(20, 0x20010), (21, 0x20011)]
theorem test_wit_RemoteAccesses :
    (R1.g.level ≠ 3 ∧ sbad R1 20 = false ∧ (sreg R1 20 + (0 : Word).signExtend 64).toNat % widthBytes .d = 0) ∧
    ok (place .gl (sreg R1 20 + (0 : Word).signExtend 64) 0 8 typesWindow) R1 (fun r s1 => (match r.1 with | .window _ _ => true | _ => false) &&
      s1.g.freeReply.isSome) = true ∧
    ok (place .gl (sreg R1 20 + (0 : Word).signExtend 64) 1 8 typesWindow) R1 (fun r _ => (match r.1 with | .window _ _ => true | _ => false)) = true ∧
    ok (place .gl (sreg R1 20 + (0 : BitVec 20).signExtend 64) 2 8 typesWindow) R1 (fun r s1 => (match r.1 with | .window _ _ => true | _ => false) &&
      s1.g.freeReply.isSome) = true ∧
    (sreg R1 21 + (0 : Word).signExtend 64).toNat % widthBytes .w ≠ 0 := by decide +kernel
def expEnt (bits : Nat) : DWord := BitVec.ofNat 64 (bits * 2 ^ 60 + 7 * 2 ^ 52 + 9 * 2 ^ 42 + 1 * 2 ^ 34 + 64)
def X1 : State :=
  { (S1.updPort 0 3 (fun p => { p with st := 2 })) with
    exports := [(5, expEnt 15), (6, expEnt 8), (7, BitVec.ofNat 64 (15 * 2 ^ 60 + 7 * 2 ^ 52 + 9 * 2 ^ 42 + 1 * 2 ^ 34 + 99))] }
def msg (wd : MWidth) (ws : List (Word × Byte)) (ix : Nat) : FabricMsg :=
  { port := 3, source := 9, owner := 7, index := ix, offset := 8, width := wd, aop := .add, tag := 64, unit := 0, status := 0, reserved := 0, words := ws,
    opB := 3, opC := 0, poisonBC := false }
def cw (w : Word) (o : Nat) : Word × Byte := (w, checkCode w o)
def Q1 : State :=
  let rq (kind tag : Nat) : OutReq := { X1.groupReq kind 0x20008 2 8 .w 1 with tag := tag, unit := 0, port := some 3 }
  { (X1.updG (fun x => { x with acks := 1, replies := [{ slot := 1, reg := 3, width := .w, tok := x.tok, req := 20, got := none }] })) with
    device := 9
    fabricOut := [(20, rq 0 64), (21, rq 1 64), (22, rq 2 64), (23, { rq 0 65 with copy := some (40, 2) }), (24, { rq 1 65 with copy := some (40, 2) })] }
def badMsg : FabricMsg := { msg .w [] 5 with reserved := 1 }
def copyMsg : FabricMsg := { msg .w [] 5 with tag := 65 }
theorem test_wit_AccessesLeave :
    (let r := X1.groupReq 0 0x20010 2 8 .w 1
     (X1.owner r.owner).fabLeft ≠ 0 ∧ r.port = none ∧ X1.route r.pair = some 3 ∧ X1.fabricOut = [] ∧ (X1.send r).routes = [(r.pair, 3)] ∧
       ((X1.send r).port 0 3).sent = 1 ∧ r.msg = none) ∧
    ((List.range 64).all (fun n => !S1.portOpen n) = true ∧ ((S1.updOwner 1 (fun x => { x with fabLeft := 0 })).owner 1).fabLeft = 0) := by decide +kernel
theorem test_wit_FabricMessages :
    (X1.portOpen (msg .w [] 5).port = true ∧ badMsg.reserved ≠ 0 ∧ (msg .w [] 5).reserved = 0) ∧
    ([0, 1, 2].all (fun k => match X1.exported (msg .w [] 4) k, X1.exported (msg .w [] 5) k, X1.exported (msg .w [] 7) k with
      | .error 1, .ok _, .error 2 => true | _, _, _ => false) = true) ∧
    ((match X1.exported (msg .w [] 6) 0 with | .error 3 => true | _ => false) = true) ∧
    ((match X1.exported (msg .b [cw 5 8] 5) 1 with
      | .ok (o, l) => decide (widthBytes .b < 4) && (X1.homeRead o l.word).1.1 == 0 | _ => false) = true) := by decide +kernel
theorem test_wit_FabricReplies :
    ((Q1.request (msg .w [cw 5 8] 5) 0).map (fun e => (e.1, e.2.copy)) = some (20, none) ∧
      (Q1.request (msg .w [] 5) 1).map (fun e => (e.1, e.2.copy)) = some (21, none) ∧ (Q1.request (msg .w [] 5) 2).map (fun e => (e.1, e.2.copy)) = some (22, none) ∧
      (Q1.request copyMsg 0).map (fun e => (e.1, e.2.copy)) = some (23, some (40, 2)) ∧
      (Q1.request copyMsg 1).map (fun e => (e.1, e.2.copy)) = some (24, some (40, 2)) ∧ (Q1.group 0).gstate ≠ .free) ∧
    ((checkWords none 8 [cw 5 8]).isSome = true ∧ checkWords none 8 [(5, 0)] = none ∧ (checkWords (some [(5, 0)]) 8 [(5, 0)]).isSome = true) := by decide +kernel
theorem test_wit_FabricExports :
    ((expEnt 8).getLsbD 63 = true ∧ fld (expEnt 8) 52 8 = 7 ∧ fld (expEnt 8) 42 10 = 9 ∧ (expEnt 8).getLsbD 62 = false ∧ (expEnt 8).getLsbD 61 = false ∧
      (expEnt 15).getLsbD 60 = true ∧ (X1.ownerLoc 1 64 8).isSome = true ∧ X1.ownerLoc 1 99 8 = none ∧ (0 : DWord).getLsbD 63 = false) := by
  decide +kernel
def T1 : State := { (regs S1 [(24, 0x10000), (25, 7), (26, 8)]) with nextId := 10 }
def T2 : State := { T1 with groups := tabPut T1.groups 1 { placedGroup with idx := 1 } }
def child (s : State) : State := { s with kernels := tabPut s.kernels 5 { Kernel.init with owner := 1, kstate := .running, parent := some 0, depth := 2 } }
theorem test_wit_TeamInstructions :
    (T1.g.level = 0 ∧ T1.g.tr.tctl.getLsbD 1 = false ∧ T1.g.lanesIdle = true ∧ T1.liveChild T1.g.team = false ∧ acquireOk T1 .sys = true) ∧
    ((child T1).liveChild T1.g.team = true ∧ 1 < (T2.groupsOf T2.g.team).length ∧ (T1.groupsOf T1.g.team).length ≤ 1 ∧ T1.pushes = [] ∧
      (∀ g ∈ T2.groupsOf T2.g.team, g = T2.cur ∨ (T2.group g).level = 0)) ∧
    (sbad T1 25 = false ∧ (sreg T1 25).toNat % 4 ≠ 0 ∧ (sreg T1 24).toNat % 4 = 0) ∧
    (let live := (T1.groupsOf T1.g.team).map (fun g => (T1.group g).idx)
     live = [0] ∧ 1 < (T1.descOf T1.g.team).max) ∧
    (let s := (List.range 64).foldl (fun s i => { s with groups := tabPut s.groups i { placedGroup with idx := i } }) T1
     (s.descOf s.g.team).max ≤ ((s.groupsOf s.g.team).map (fun g => (s.group g).idx)).length) ∧ (atL T1 1).g.level ≠ 0 := by decide +kernel
def goodRec : List DWord := [0x10040, 2, 0x10080, 0x10200, 0, 0, 0, 1]
def lrecS (r : List DWord) (s : State) : State := pokes 0x100 r (regs s [(20, 0x10100)])
def depS (code : DWord) (s : State) : State := pokesR 0x300 [code] (lrecS [0x10040, 2 + 2 ^ 48, 0x10080, 0x10200, rsvW 0x300, 0, 0, 1] s)
/-- The conditions of the record at s20, and the condition of its dependencies. -/
def launchAt (s : State) (fails detail : Nat → Bool) : Bool :=
  ok (place .gl (sreg s 20) 0 64 typesDevice) s (fun l s1 => s1.g.lanesIdle && ok (descWords 1 l.1 16) s1 (fun ws s2 =>
    let r := parseLaunch ((List.range 8).map (dwordAt ws))
    let t := released s2 .dev
    releaseOk s2 .dev && decide (t.waiting (t.ownerOf t.cur) (t.dieOf t.cur) < 64) && r.completion.toNat % 8 == 0 && fails r.fails &&
      detail ({ t with freeIdx := t.freeIdx + 2 }.readDeps (t.ownerOf t.cur) r.used).1.detail))
theorem test_wit_LaunchInstruction :
    (S1.g.level = 0 ∧ S1.g.tr.tctl.getLsbD 1 = false ∧ S1.g.idx = 0 ∧ (S1.kernelOf S1.g.team).depth < 10 ∧ sbad (lrecS goodRec S1) 20 = false) ∧
    (S1.updG (fun x => { x with idx := 1 })).g.idx ≠ 0 ∧ 10 ≤ ((S1.setKernel 0 { (S1.kernel 0) with depth := 10 }).kernelOf S1.g.team).depth ∧
    launchAt (lrecS goodRec S1) (fun f => f == 0) (fun d => d == 0) = true ∧
    launchAt (lrecS [0x10041, 2, 0x10080, 0x10200, 0, 0, 0, 1] S1) (fun f => f != 0) (fun _ => true) = true ∧
    launchAt (depS 5 S1) (fun f => f == 0) (fun d => d != 0) = true := by decide +kernel
def Qs (claim tail head : DWord) (s : State) : State :=
  let s := pokes 0x400 [0, 0, claim, tail, head] (pokes 0x100 goodRec (regs s [(20, 0x10400), (21, 0x10100), (22, 0x10440)]))
  s.setQueue 3 { Queue.init with qstate := .empty, owner := 1, header := 0x10400, ring := 0x11000, logCap := 4 }
/-- The header at s a and the record at s21 are reached, and the queue there is as q says, its claim and its head as full says. -/
def postAt (s : State) (a : Nat) (q : Option Nat) (full : Nat → Nat → Bool) : Bool :=
  ok (place .gl (sreg s a) 2 64 typesDevice) s (fun l s1 => ok (place .gl (sreg s 21) 0 64 typesWide) s1 (fun r s2 => ok (descWords 1 r.1 16) s2 (fun _ s3 =>
    let s4 := released s3 .dev
    releaseOk s3 .dev && decide ((s4.queueAt (s4.ownerOf s4.cur) (sreg s a)).map (fun e => e.1) = q) && ok (settleAtomics l.1) s4 (fun _ u => ok (homeDword (l.1.plus 0x10)) u (fun p s5 =>
      ok (homeDword (l.1.plus 0x18)) s5 (fun _ s6 => ok (homeDword (l.1.plus 0x20)) s6 (fun h s7 => full p.toNat h.toNat &&
        ok (place .gl (BitVec.ofNat 64 (0x11000 + 64 * (p.toNat % 2 ^ 4))) 1 64 typesWide) s7 (fun _ _ => true))))))))
theorem test_wit_QueuePost :
    ((Qs 18 18 2 S1).g.level ≠ 3 ∧ sbad (Qs 18 18 2 S1) 20 = false ∧ (sreg (Qs 18 18 2 S1) 20).toNat % 64 = 0 ∧ (sreg (Qs 18 18 2 S1) 21).toNat % 64 = 0) ∧
    postAt (Qs 18 18 2 S1) 20 (some 3) (fun p h => decide (h + 2 ^ 4 ≤ p)) = true ∧
    postAt (Qs 17 17 2 S1) 20 (some 3) (fun p h => decide (p < h + 2 ^ 4)) = true ∧ postAt (Qs 3 3 2 S1) 22 none (fun _ _ => true) = true := by
  decide +kernel
def Vs (w : DWord) (s : State) : State := pokes 0x500 [w] (regs s [(20, 0x10500), (21, 9)])
/-- The word at s20 and its value, the count of wakes and the table's room are as p says. -/
def waitAt (s : State) (p : DWord → DWord → DWord → Bool → Bool) : Bool :=
  ok (waitWord 20 21) s (fun r s1 =>
    let o := s1.ownerOf s1.cur
    ok (homeDword (.dev r.2.2)) (s1.leaveWaits s1.cur s1.g.level) (fun w s2 =>
      releaseOk s1 .dev && p (s1.getReserve64 o (s1.wakeCountVa s1.cur s1.g.level)) w r.2.1
        (match s2.joinWaits o r.1 r.2.2 with | some s3 => s3.lanesStuck | none => false)))
def fullT (s : State) : State :=
  { s with waits := (List.range 4096).map (fun i =>
      { die := 0, owner := 1, va := BitVec.ofNat 64 (0x20000 + 8 * i), ma := 8 * i, waiters := [{ group := 7, level := 0, interrupted := false }], queues := [] }) }
theorem test_wit_WaitAndWake : waitAt (Vs 8 S1) (fun c w v _ => c == 0 && w != v) = true ∧
    waitAt (Vs 9 S1) (fun c w v room => c == 0 && w == v && room) = true ∧
    (let s := Vs 9 S1
     waitAt (s.putReserve64 1 (s.wakeCountVa 0 0) 1) (fun c _ _ _ => c != 0) = true) := by decide +kernel
def waiter (i : Bool) : Waiter := { group := 0, level := 0, interrupted := i }
/-- The key at s20 has a waiter, interrupted or not. -/
def armed (i : Bool) : State := { Vs 9 S1 with waits := [{ die := 0, owner := 1, va := 0x10500, ma := 320 * 65536 + 0x500, waiters := [waiter i], queues := [] }] }
theorem test_wit_Wakes : releaseOk (armed false) .dev = true ∧ (∀ x ∈ [waiter false].take 1, x.interrupted = false) ∧ ((armed true).countWord (waiter true)).isSome = true := by
  decide +kernel
theorem test_wit_WaitTableFull : waitAt (fullT (Vs 9 S1)) (fun c w v room => c == 0 && w == v && !room) = true := by decide +kernel

/-! ## Hypotheses of the statements: shared words, deques, copies, pairs -/
def bw (c a : Nat) (p f : Bool) : DWord := BarWord.toWord { count := c, arrivals := a, phase := p, fixed := f, reserved := 0 }
/-- A barrier word at 64 of the team's scratchpad, its address in s20 and a count in s21. -/
def Bs (v : DWord) (n : DWord) (s : State) : State := pokeS 0 64 [v] (regs s [(20, 64), (21, n)])
def arr (s : State) (addr : DWord) (ph pend : Bool) : State :=
  s.updG (fun x => { x with arrival := { addr := addr, phase := ph, set := true, pending := pend } })
/-- The word at s20 is in team 0's scratchpad, holds v and leaves the state as it is. -/
def barAt (s : State) (v : DWord) (p : BarWord → Nat → Bool) : Bool :=
  s.g.level != 3 && !sbad s 20 && !sbad s 21 && (sreg s 20).toNat % 8 == 0 && decide (s.spacePlace s.cur 0 .cl (sreg s 20).toNat = some (.sram 0 64)) &&
    (match homeDword (.sram 0 64) s with
      | .ok w t => w == v && decide (t = s)
      | .error _ _ => false) && p (BarWord.ofWord v) (sreg s 21).toNat
theorem test_wit_BarrierInstructions :
    barAt (Bs (bw 3 1 false true) 3 S1) (bw 3 1 false true) (fun w n => w.wf && decide (1 ≤ n ∧ n ≤ 65535) && w.arrive n != none) = true ∧
    barAt (Bs (bw 2 1 false true) 3 S1) (bw 2 1 false true) (fun w n => w.wf && decide (w.arrive n = none) && !S1.g.arrival.set) = true ∧
    barAt (Bs (bw 2 1 false true) 2 S1) (bw 2 1 false true) (fun w n => w.wf && (w.arrive n).map (fun e => e.2) == some true) = true ∧
    barAt (Bs (bw 0 0 false false) 0 S1) (bw 0 0 false false) (fun _ n => n == 0) = true ∧
    barAt (Bs (bw 0 0 false false) 65535 S1) (bw 0 0 false false) (fun _ n => n == 65535) = true ∧
    barAt (Bs (bw 0 0 false false) 65536 S1) (bw 0 0 false false) (fun _ n => n == 65536) = true ∧
    barAt (Bs (2 ^ 40) 3 S1) (2 ^ 40) (fun w _ => !w.wf) = true := by decide +kernel
theorem test_wit_BarrierWaits :
    (let s := arr (Bs (bw 2 0 true false) 2 S1) 64 false true
     barAt s (bw 2 0 true false) (fun w _ => w.wf && s.g.arrival.set && s.g.arrival.pending && s.g.arrival.addr == sreg s 20 && w.phase != s.g.arrival.phase) = true) ∧
    (let s := arr (Bs (bw 2 1 true true) 2 S1) 64 true true
     barAt s (bw 2 1 true true) (fun w _ => w.wf && w.phase == s.g.arrival.phase && s.lanesStuck) = true) ∧
    (let s := Bs (bw 2 0 false false) 2 S1
     let t := (s.putShared 0 64 ({ count := 2, arrivals := 1, phase := false, fixed := true, reserved := 0 } : BarWord).toWord).updG (fun x =>
       { x with arrival := { addr := sreg s 20, phase := false, set := true, pending := true } })
     barAt s (bw 2 0 false false) (fun w n => w.arrive n == some ({ count := 2, arrivals := 1, phase := false, fixed := true, reserved := 0 }, false)) = true ∧
       t.lanesStuck = true) ∧
    (S1.g.arrival.set = false ∧ (arr (Bs 0 2 S1) 72 true true).g.arrival.addr ≠ sreg (Bs 0 2 S1) 20 ∧ releaseOk S1 .team = true) := by decide +kernel
theorem test_wit_BarrierWords : (2 : Nat) ≤ 2 ∧ (0 : Nat) + 1 < 2 ∧ (65534 : Nat) + 1 = 65535 ∧ (1 : Nat) ≠ 2 ∧
    (let w : BarWord := { count := 65535, arrivals := 65534, phase := true, fixed := true, reserved := 0 }
     w.wf = true ∧ w.count < 65536 ∧ w.arrivals < 65536 ∧ w.reserved < 2 ^ 30 ∧ (w.arrive 65535).isSome = true ∧ (65535 : Nat) < 65536) := by decide +kernel
def onePush : Push := { core := 0, slot := 2, tag := (1, 0, 0), value := 5, groups := [0], since := 0 }
def Bd (v : DWord) : State :=
  { (pokeS 0 64 [v] (regs S1 [(20, 64), (21, 100)])) with pushes := [onePush], mirrors := [(2, { tag := some (1, 0, 0), value := 9 })] }
theorem test_wit_BoundWords :
    ((Bd 200).g.level ≠ 3 ∧ barAt (Bd 200) 200 (fun _ n => decide (n < 200)) = true ∧ barAt (Bd 50) 50 (fun _ n => decide (50 ≤ n)) = true ∧
      barAt (Bd 100) 100 (fun _ n => n == 100) = true) ∧
    ((Bd 50).pushes[0]? = some onePush ∧ (Bd 50).pushes[1]? = none) := by decide +kernel
def Dq (top bot : DWord) (s : State) : State := pokes 0x600 [0x11000, 2, top, bot, 0, 0, 0, 0] (regs s [(20, 0x10600), (22, 1), (23, 2)])
/-- The deque at s20 opens, and its entry i, for access k, is reached and read. -/
def dequeAt (s : State) (k : Nat) (i : Deque → DWord) (p : Deque → Bool) : Bool :=
  ok (dqOpen 20) s (fun h s1 => p h && ok (h.entry (i h) k) s1 (fun l s2 => releaseOk s2 h.scope && ok (homeDwordP l) s2 (fun _ s3 =>
    ok (homeDwordP (l.plus 8)) s3 (fun _ _ => true))))
theorem test_wit_DequeInstructions :
    dequeAt (Dq 3 7 S1) 1 (fun h => h.bottom) (fun h => decide (h.top.toNat + h.cap ≤ h.bottom.toNat)) = true ∧
    dequeAt (Dq 3 6 S1) 1 (fun h => h.bottom) (fun h => decide (h.bottom.toNat < h.top.toNat + h.cap)) = true ∧
    dequeAt (Dq 3 4 S1) 0 (fun h => h.bottom - 1) (fun h => h.bottom != h.top) = true ∧ dequeAt (Dq 3 4 S1) 0 (fun h => h.top) (fun h => h.bottom != h.top) = true ∧
    ok (dqOpen 20) (Dq 3 3 S1) (fun h _ => h.bottom == h.top) = true := by decide +kernel
def cd : List DWord := [0, BitVec.ofNat 64 (2 ^ 32 * 2 + 16), 0x20, 0x20, 0, 0, 0, 0]
def cd3 : List DWord := [0, BitVec.ofNat 64 (2 ^ 32 * 2 + 16), 0x20, 0x20, 1, 0x100, 0x100, 0x10700]
def Cs (w : List DWord) (s : State) : State :=
  pokes 0x100 w (regs s [(20, 0x10800), (21, 0x10900), (22, 0x10100), (23, 2), (24, 0), (25, 16), (26, 0x10002), (27, 3), (28, 4)])
def pend (s : State) : State :=
  { (s.updG (fun x => { x with pending := [4], n := 3, k := 1, batches := [(2, []), (3, [4])] })) with
    copies := [(4, s.newCopy 0x10000 0x10100 16 1 1 4)]
    nextId := 10 }
def fullC (s : State) : State := { s with copies := (List.range 64).map (fun i => (i, s.newCopy 0x10000 0x10100 16 1 1 4)), nextId := 100 }
/-- The descriptor at s22 is read and stands for a copy whose ranges and completion word are reached. -/
def descAt (s : State) (three : Bool) (p : Copy → Bool) : Bool :=
  ok (place .gl (sreg s 22) 0 64 (fun _ => true)) s (fun l s1 => decide (l.2 ≤ 1) && ok (descWords 1 l.1 16) s1 (fun ws s2 =>
    match parseCopy three (s2.newCopy (sreg s 20) (sreg s 21) 0 1 1 0) ws with
    | none => false
    | some c => p c && s2.copyRange c c.dspace c.dstAt && s2.copyRange c c.sspace c.srcAt && copyRoom s2 c &&
      (c.completion == 0 || ok (place .gl c.completion 1 8 (fun _ => true)) s2 (fun q s3 => decide (q.2 ≤ 1) && copyRoom s3 c))))
theorem test_wit_CopyInstructions :
    (let s := pend (Cs cd S1)
     (s.g.level ≠ 3 ∧ sbad s 20 = false ∧ sbad s 21 = false ∧ sbad s 25 = false ∧ (sreg s 20).toNat % 4 = 0 ∧ (sreg s 25).toNat ≤ 2 ^ 36 ∧
       (sreg s 20).toNat + (sreg s 25).toNat ≤ 2 ^ 56) ∧
     copyRoom s (s.newCopy (sreg s 20) (sreg s 21) 16 1 1 4) = true ∧ copyRoom (fullC s) ((fullC s).newCopy (sreg s 20) (sreg s 21) 16 1 1 4) = false ∧
     (sreg s 26).toNat % 4 ≠ 0 ∧ ((sreg s 22).toNat % 64 = 0) ∧
     ((sreg s 23).toNat ≤ s.g.n ∧ s.batchesDone s.cur 2 = true) ∧ ((sreg s 27).toNat ≤ s.g.n ∧ s.batchesDone s.cur 3 = false ∧ s.lanesStuck = true) ∧
     s.g.n < (sreg s 28).toNat ∧ (sreg s 24).toNat ≤ s.g.k ∧
     (s.g.k < (sreg s 23).toNat ∧ (sreg s 23).toNat ≤ s.g.k + (s.copies.filter (fun c => c.2.group == s.cur && c.2.tok == s.g.tok)).length)) ∧
    descAt (pend (Cs cd S1)) false (fun c => c.completion == 0) = true ∧ descAt (pend (Cs cd3 S1)) true (fun c => c.completion != 0) = true := by
  decide +kernel
def oneComm : Comm := { members := [(0, 1), (1, 1)], rank := 0, timeout := 50, contexts := 1 }
def cold : List DWord := [BitVec.ofNat 64 (2 ^ 24 * 3), 4, 0x10800, 0x10900, 0x10700, 77, 0, 0]
def CL (w : List DWord) : State := (Cs w S1).updOwner 1 (fun x => { x with comms := [(3, oneComm)] })
/-- Whether the descriptor at s22 is admitted, for either value of the free bit; where it is, its places are reached. -/
def collAt (s : State) (b : Bool) : Option Bool :=
  match place .gl (sreg s 22) 0 64 (fun _ => true) s with
  | .error _ _ => none
  | .ok l s1 => match descWords 1 l.1 16 s1 with
    | .error _ _ => none
    | .ok ws s2 => match s2.parseColl ws b with
      | none => some false
      | some (c, _) => if ok (do
          collAddress c.src 0 4
          collAddress c.dst 1 4
          collAddress c.completion 1 8) s2 (fun _ s5 => decide (l.2 ≤ 1) && releaseOk s5 .dev) then some true else none
theorem test_wit_CollectiveIssue : ((CL cold).g.level ≠ 3 ∧ sbad (CL cold) 22 = false ∧ (sreg (CL cold) 26).toNat % 64 ≠ 0 ∧ (sreg (CL cold) 22).toNat % 64 = 0) ∧
    (∀ b, collAt (CL cold) b = some true) ∧ (∀ b, collAt (CL (cold.set 6 1)) b = some false) := by decide +kernel
def ready1 (s : State) : State := s.updGroup 1 (fun x => { x with pairReady := some 3 })
def SV : State :=
  let s := regs { S1 with cur := serviceGroup 0 } [(20, 0x286), (21, 500), (22, 2000), (23, 0x4000), (24, 5)]
  ((List.range 8).zip [(0 : Word), 3, 0, 0, 0, 0, 0x8000, 0]).foldl (fun s e => s.homeWrite (.dev (0x4000 + 4 * e.1)) e.2 (checkCode e.2 (0x4000 + 4 * e.1))) s
theorem test_wit_PairAndServiceInstructions :
    (let s := mkPair S1
     (s.g.level ≠ 3 ∧ s.g.lanesIdle = true ∧ s.g.gstate = .active ∧ (s.lcoreOf s.g.team) ^^^ 1 < (s.setTeams s.g.team).length ∧ s.g.pairReady = none) ∧
     (let t := s.losePair s.cur
      t.partnerOf t.cur = some 1 ∧ t.awaitsPair 1 s.cycle.toNat = false) ∧
     (let t := ((ready1 s).losePair s.cur).updG (fun x => { x with pairReady := some s.cycle.toNat })
      t.partnerOf t.cur = some 1 ∧ t.awaitsPair 1 s.cycle.toNat = true) ∧
     (let t (h : Nat) (l : Bool) (n : DWord) := ({ s with cycle := n }.updG (fun x => { x with pairReady := some 3, pairLost := l, pairMatch := some (1, 3) })).updGroup 1
        (fun x => { x with pairReady := some 3, pairMatch := some (h, 3) })
      ((t 0 false 11).g.pairReady = some 3 ∧ (t 0 false 11).g.pairLost = false ∧ (t 0 false 11).matched (t 0 false 11).cur = some (1, 3) ∧ 3 + 8 ≤ (t 0 false 11).cycle.toNat) ∧
      (t 5 false 11).matched (t 5 false 11).cur = none ∧ (t 0 false 10).cycle.toNat < 3 + 8 ∧ (t 0 true 10).g.pairLost = true)) ∧
    ((State.resetWith 1).psetPut 0 0x281 (BitVec.ofNat 64 (2 * 2 ^ 62 + 3 * 2 ^ 56))).isSome = true ∧ (SV.psetPut 0 0x285 48).isSome = true ∧
    (SV.psetPut 0 0x287 0xE4).isSome = true ∧ (SV.psetPut 0 0x288 1000).isSome = true ∧ 0x280 ∉ [0x281, 0x285, 0x286, 0x287, 0x288] ∧
    (SV.g.level = 3 ∧ sbad SV 20 = false ∧ sbad SV 21 = false ∧ (SV.psetPut (SV.dieOf SV.cur) (sreg SV 20).toNat (sreg SV 21)).isSome = true ∧
      (SV.psetPut (SV.dieOf SV.cur) (sreg SV 23).toNat (sreg SV 24)).isNone = true) ∧
    ((sreg SV 23).toNat % 8 = 0 ∧ (sreg SV 24).toNat ≤ 255 ∧
      ok (place .gl (sreg SV 23) 0 8 (fun _ => true)) SV (fun l s1 => ok (descWords 1 l.1 8) s1 (fun ws s2 =>
        (parseTransfer ws (sreg SV 24).toNat (s2.dieOf s2.cur)).isSome)) = true) := by decide +kernel

/-! ## Hypotheses of the statements: the steps of the device -/
def oneBlock (m : Mask) (l : Bool) : Block := { off := 4, mask := m, loss := l }
def Blks (bs : List Block) (r : Bool) (s : State) : State := s.updG (fun x => { x with lane := { x.lane with blocks := bs, running := r } })
def pth (pc m : Nat) (i : Option Nat) : Path := { pc := BitVec.ofNat 64 pc, mask := BitVec.ofNat 32 m, inner := i }
def rotS (now : Nat) (s : State) : State :=
  { s with cycle := BitVec.ofNat 64 now }.updG (fun x =>
    { x with
      lane := { x.lane with
        running := true
        slots := [(0, (pth 0x10000 1 (some 0), 5)), (1, (pth 0x10010 2 (some 0), 3))]
        spill := [(0, { join := 0x10100, arrived := 0, outer := none, park := some (pth 0x10020 4 none, 7) })] } })
def rdy (n : Nat) (s : State) : State :=
  { s with groups := (List.range n).map (fun i => (i, { (s.group 0) with gstate := if i % 2 = 0 then .ready else .active, cls := 3 - i % 3, wake := 20 - i })) }
theorem test_wit_CoreSteps :
    (let s := Blks [oneBlock 5 true, oneBlock 0 false] false S1
     s.g.lane.blocks = [oneBlock 5 true, oneBlock 0 false] ∧ s.g.gstate = .active ∧ s.g.level < 3 ∧ s.g.lane.running = false ∧ (oneBlock 5 true).mask ≠ 0 ∧
       (oneBlock 0 false).mask = 0) ∧
    ((Blks [oneBlock 5 true] true S1).g.lane.running = true ∧ S1.g.lane.blocks = []) ∧
    ((rdy 6 S1).firstPending 0 = some 0 ∧ (rdy 6 S1).activeOn 0 < 8 ∧ 8 ≤ (rdy 20 S1).activeOn 0) ∧
    (((rotS 2000 S1).g.lane.rotate 2000).isSome = true ∧ (rotS 2000 S1).g.gstate = .active ∧ (rotS 2000 S1).matrix = [] ∧ (rotS 2000 S1).clock 0 = 2000 ∧
      S1.g.lane.rotate (S1.clock 0) = none) ∧
    (let s := { S1 with cycle := 50 }.updG (fun x => { x with pleft := 40 })
     s.g.gstate ≠ .free ∧ s.g.gstate ≠ .saved ∧ s.g.spent s.cycle = true) ∧
    (let s := { S1 with cycle := 5000 }.updG (fun x => { x with pairReady := some 904 })
     s.g.pairReady = some 904 ∧ 904 + 4096 ≤ s.cycle.toNat ∧ s.matched 0 = none ∧ s.g.gstate = .active) ∧
    (let s := { S1 with cycle := 4096, matrix := [(7, mo0)] }
     s.waitingVmmap 0 = some (7, mo0) ∧ mo0.t0 + 4096 ≤ s.cycle.toNat ∧ s.g.partner = none) ∧
    ((S1.updG (fun x => { x with want := [(2, 0x1400000), (0, 0x1400004)] })).g.want = (2, 0x1400000) :: [(0, 0x1400004)] ∧ S1.g.want = []) := by decide +kernel
def fi : FaultInfo :=
  { level := 0, source := 1, kind := 1, access := 0, code := 0, fmask := 0, dmask := 0, instr := 0x04000000, width := 32, lanes := [(0, 1, 0x20000)], mark := none,
    size := 4, since := none }
def wr (va : DWord) (kd : Nat) : WalkReq := { owner := 1, va := va, kind := kd, level := 0, copy := none, units := [] }
def routine (ws : List Nat) : Routine := { words := ws, length := 4 * ws.length, root := 0 }
def faulted : State := { S1 with copies := [(4, { S1.newCopy 0x10000 0x10100 16 1 1 4 with fault := some (fi, 2), slot := some 2 })] }
def asks (kd : Nat) (va : DWord) (s : State) : State := { s with walks := [wr va kd] }
theorem test_wit_WalkSteps :
    ((S1.owner 1).ostate = .running ∧ (3 : Nat) < 4 ∧ (2 : Nat) < 3 ∧ S1.walks = [] ∧ S1.dueWalks 1 0x20000 = []) ∧
    (let s := S1.updOwner 1 (fun x => { x with ostate := .saved })
     s.walks = [] ∧ (s.owner 1).ostate ≠ .running ∧ (s.owner 1).ostate ≠ .preempting) ∧
    ((asks 0 0x20000 S1).walks = [wr 0x20000 0] ∧ (asks 0 0x20000 S1).dueWalks 1 0x20000 ≠ [] ∧ (asks 0 0x20000 S1).direct 1 0x20000 0 = none ∧
      ((asks 0 0x20000 S1).walkFor 1 0x20000 0 0).1 = some (.error 0)) ∧
    ((asks 0 (rsvW 0) S1).dueWalks 1 (rsvW 0) ≠ [] ∧ ((asks 0 (rsvW 0) S1).direct 1 (rsv 0) 0).isSome = true) ∧
    ((match (S1.endWalk [] 1 0x20000 0 0 (.error 0)).1 with | .fault 4 0 => true | _ => false) = true ∧
      (match (S1.endWalk [] 1 0x20000 0 0 (.result (BitVec.ofNat 64 (2 ^ 63 + 64 * 2 ^ 16 + 15)))).1 with | .ok _ _ _ _ => true | _ => false) = true ∧
      (tabFind faulted.copies 4).map (fun c => c.fault) = some (some (fi, 2)) ∧ (wr 0x20000 0).copy = none) := by decide +kernel
/-- A routine whose result is kept in its first register: one word. -/
def gone : Routine := { words := [encodeWord .nop], length := 4, root := 0 }
def broke (s : State) : State := s.updOwner 1 (fun x => { x with routines := [gone], region := List.replicate 256 0, walkLeft := 0 })
theorem test_wit_WalkWaits : ((asks 0 0x20000 (broke S1)).walkFor 1 0x20000 0 0).1 = none ∧
    (let s := S1.updOwner 1 (fun x => { x with reserve := 0 })
     (match (s.xlate [] 1 reserveBase 0 1).1 with | .beyond => true | _ => false) = true) ∧ (routine [0]).length ≤ 4 := by decide +kernel
def faulting (lvl : Nat) (s : State) : State := (if lvl = 0 then s else atL s lvl).updG (fun x => { x with pendingFault := some fi })
def fullQ (s : State) : State := s.updOwner 1 (fun x => { x with fqcap := 2, fqhead := 0, fqtail := 2 })
def parkable (s : State) : Bool := (s.group 0).pendingFault.isSome && (s.freePark (s.dieOf 0) (s.ownerOf 0)).isSome && (s.group 0).gstate == .active && !(s.group 0).spent s.cycle
theorem test_wit_ParkSlots :
    (parkable (faulting 0 S1) = true ∧ (faulting 0 S1).g.level ≠ 2 ∧ (let w := (faulting 0 S1).owner 1; w.fqtail - w.fqhead ≠ w.fqcap)) ∧
    (parkable (fullQ (faulting 0 S1)) = true ∧ (let w := (fullQ (faulting 0 S1)).owner 1; w.fqtail - w.fqhead = w.fqcap)) ∧
    (parkable (faulting 2 S1) = true ∧ (faulting 2 S1).g.level = 2) := by decide +kernel
theorem test_wit_EngineFaults :
    (faulted.engineFaultOf 0 = some (true, 4, fi, 2) ∧ (tabFind faulted.copies 4).isSome = true ∧ S1.engineFaultOf 0 = none ∧ (S1.group 0).pendingFault = none) ∧
    (let x (f : FaultInfo) : State := { faulted with copies := faulted.copies.map (fun c => (c.1, { c.2 with level := f.level, fault := some (f, 2) })) }
     (x { fi with level := 2 }).engineFaultOf 0 = some (true, 4, { fi with level := 2 }, 2) ∧ (x { fi with kind := 7 }).engineFaultOf 0 = some (true, 4, { fi with kind := 7 }, 2) ∧
       max faulted.g.level fi.level ≠ 2 ∧ fi.kind ≠ 7 ∧ (fullQ faulted).engineFaultOf 0 = some (true, 4, fi, 2)) ∧
    ((({ faulted with copies := faulted.copies.map (fun c => (c.1, { c.2 with fault := none, slot := none, waits := some fi })) } : State).chunkSlot 0).isSome = true ∧
      S1.chunkSlot 0 = none) := by decide +kernel
/-- A routine that branches to itself. -/
def selfLoop : Routine := { words := [encodeWord (.br 0)], length := 4, root := 0 }
theorem selfLoop_run (s : State) (o : Nat) (r : SRegs) : ∀ n c, c + n = Config.walkLimit + 1 → 0 < n →
    walkRun s o selfLoop { r := r, pc := 0, cycles := c } n = (.error 4, Config.walkLimit + 1, s)
  | 0, _, _, h => absurd h (by decide)
  | n + 1, c, hc, _ => by
    have hd : Dec.decodeScalar (selfLoop.words.getD 0 0) (selfLoop.words.getD 1 0) = .ok (.br 0) := by decide +kernel
    have hw : Dec.isWide (selfLoop.words.getD 0 0) = false := by decide +kernel
    have he : walkExec s o { r := r, pc := 0, cycles := c + 1 } (.br 0) = (.ok { r := r, pc := 0, cycles := c + 1 }, s) := rfl
    have hl : selfLoop.length = 4 := rfl
    unfold walkRun
    simp only [Nat.zero_mod, Nat.zero_div, hw, hd, Nat.zero_add, Bool.false_and, he, hl]
    by_cases h : Config.walkLimit < c + 1
    · have : c + 1 = Config.walkLimit + 1 := by omega
      simp [this]
    · simpa [h] using selfLoop_run s o r n (c + 1) (by omega) (by omega)
/-- An owner whose walk routine loops, and a walk of it. -/
def loops : State :=
  { (S1.updOwner 1 (fun x => { x with routines := [selfLoop], region := List.replicate 256 0 })) with walks := [wr 0x20000 0] }
theorem walkFor_end {s : State} {o va n : Nat} {rt : Routine} {e : WalkEnd}
    (h1 : (((s.owner o).region[va / 2 ^ 48]?).bind (fun j => (s.owner o).routines[j]?)) = some rt)
    (h3 : walkRun s o rt (walkEntry rt va 0 0) (Config.walkLimit + 1) = (e, n, s)) (h0 : n ≠ 0) (h5 : (s.owner o).memLeft ≠ 0) (h4 : (s.payWalk o (va / 65536) n).1 = true) :
    (s.walkFor o va 0 0).1 = some e := by
  have hr : s.runWalk o va 0 0 = (e, n, s) := by unfold State.runWalk; rw [h1]; exact h3
  unfold State.walkFor
  rw [hr]
  simp [h0, h4, State.fillWait, h5]
theorem test_wit_WalkLimit : loops.walks.find? (fun w => w.owner == 1 && w.va == 0x20000) = some (wr 0x20000 0) ∧
    (loops.walkFor 1 (0x20000 : DWord).toNat 0 0).1 = some (.error 4) :=
  ⟨by decide +kernel, walkFor_end (rt := selfLoop) (by decide +kernel) (selfLoop_run loops 1 _ _ 0 (Nat.zero_add _) (by decide)) (by decide) (by decide +kernel) (by decide +kernel)⟩
def coll0 : Coll :=
  { owner := 1, team := 0, group := 0, tok := 0, level := 1, die := 0, instr := 0x10000, header := [1], op := 0, red := 0, fmt := 1, comm := 3, root := 0, count := 2,
    src := rsvW 0x800, dst := rsvW 0x900, completion := rsvW 0x700, seq := 77, switched := false, lost := false, chunk := none, got := [], written := [], start := 0, sat := false, failed := false,
    fault := none, slot := none, waits := none, delivered := false }
def coll1 : Coll := { coll0 with switched := true, op := 3, root := 1 }
def comm0 : Comm := { members := [(0, 1), (1, 1)], rank := 0, timeout := 50, contexts := 1 }
def cmsg : CollMsg :=
  { port := 3, reserved := 0, owner := 1, comm := 3, sequence := 77, member := 0, header := [1], element := 0, word := 5, code := 0, sat := false, failed := false, status := 0 }
def CLs (c : Coll) : State := { S1 with colls := [(9, c)], nextId := 10 }.updOwner 1 (fun x => { x with comms := [(3, comm0)] })
def cp0 : Copy := { S1.newCopy 0x10200 0x10100 16 1 1 4 with cluster := 0 }
def CPs (c : Copy) (s : State) : State := { s with copies := [(4, c)], nextId := 10 }
def paid (id : Nat) (c : Copy) (t : State) : State :=
  if c.charged then t
  else (({ t with copies := tabPut t.copies id { c with charged := true } }).updOwner c.owner
    (fun x => { x with copyLeft := x.copyLeft - 1, dry := x.dry || x.copyLeft == 1 })).count (c.cluster / 20) c.owner 24 1
/-- The copy reaches both its places, of types with p, and its chunk is performed. -/
def chunkAt (s : State) (c : Copy) (p : Nat → Nat → Bool) : Bool :=
  let dry := !c.charged && (s.owner c.owner).fabLeft == 0
  match s.engineReach [640 + c.cluster] c.owner c.team c.level c.sspace (c.srcAt c.next).toNat 0 with
  | (.ok src sty si _, s1) => match s1.engineReach [640 + c.cluster] c.owner c.team c.level c.dspace (c.dstAt c.next).toNat 1 with
    | (.ok dst dty di r2, s2) => p sty dty && (sty == 5 || dty == 5 || ((paid 4 c s2).performChunk 4 { c with charged := true } src dst si di r2 dry).isSome)
    | _ => false
  | _ => false
/-- What a chunk's first or second side ends in. -/
def sideFaults (s : State) (c : Copy) (second : Bool) : Bool :=
  match s.engineReach [640 + c.cluster] c.owner c.team c.level c.sspace (c.srcAt c.next).toNat 0 with
  | (.fault _ _, _) => !second
  | (.ok _ _ _ _, s1) => second && (match s1.engineReach [640 + c.cluster] c.owner c.team c.level c.dspace (c.dstAt c.next).toNat 1 with | (.fault _ _, _) => true | _ => false)
  | (.wait, _) => false
def dueAt (s : State) (c : Copy) : Bool :=
  decide (tabFind s.copies 4 = some c) && decide (c.fault = none) && decide (c.waits = none) && decide (c.next < c.total) &&
    (c.charged || (c.code == 0 && decide ((s.owner c.owner).copyLeft ≠ 0) && decide ((s.owner c.owner).memLeft ≠ 0)))
def win5 (s : State) : State :=
  let s := s.updOwner 1 (fun x =>
    { x with
      frames := 66
      fmap := x.fmap ++ [(65, { st := 1, ty := 5, pinned := false, move := 0, frame := 9 })] })
  { s with tlb := s.tlb ++ [{ unit := 640, owner := 1, page := 2, res := BitVec.ofNat 64 (2 ^ 63 + 65 * 2 ^ 16 + 15) }] }
theorem test_wit_EngineSteps :
    (dueAt (CPs cp0 S1) cp0 = true ∧ chunkAt (CPs cp0 S1) cp0 (fun a b => a != 5 && b != 5) = true ∧ tabFind (CPs cp0 S1).copies 5 = none ∧ cp0.wpr ≠ 0) ∧
    (let c := { cp0 with charged := true, code := 3 }
     let s := (CPs c S1).updOwner 1 (fun x => { x with copyLeft := 0 })
     dueAt s c = true ∧ chunkAt s c (fun a b => a != 5 && b != 5) = true ∧ cp0.charged = false ∧ (s.owner 1).copyLeft = 0) ∧
    (let c := { cp0 with dst := 0x20000 }
     dueAt (CPs c (win5 S1)) c = true ∧ chunkAt (CPs c (win5 S1)) c (fun _ b => b == 5) = true) ∧
    (let c := { cp0 with src := 0x90000 }
     dueAt (CPs c S1) c = true ∧ sideFaults (CPs c S1) c false = true) ∧
    (let c := { cp0 with dst := 0x90000 }
     dueAt (CPs c S1) c = true ∧ sideFaults (CPs c S1) c true = true) := by decide +kernel
def opened (s : State) : State := s.updPort 0 3 (fun p => { p with st := 2 })
theorem test_wit_Collectives :
    ((CLs coll0).collFor { cmsg with comm := 5 } = none ∧ (CLs coll0).collFor cmsg = some (9, coll0, comm0) ∧ coll0.fault = none ∧ coll0.waits = none ∧ cmsg.reserved = 0 ∧
      cmsg.member = comm0.rank ∧ cmsg.element < coll0.elements comm0.members.length ∧
      ((CLs coll0).contribute 9 comm0.members.length comm0.rank coll0 comm0.members cmsg.element).isSome = true) ∧
    (let m := { cmsg with member := 1 }
     (opened (CLs coll0)).collFor m = some (9, coll0, comm0) ∧ (opened (CLs coll0)).portOpen m.port = true ∧ m.member ≠ comm0.rank ∧ coll0.switched = false ∧ m.status = 0 ∧
       m.header = coll0.header ∧ m.member ∈ coll0.contributors comm0.members.length m.element ∧ coll0.find m.member m.element = none) ∧
    ((opened (CLs coll0)).collFor { cmsg with member := 1, header := [2], status := 1 } = some (9, coll0, comm0) ∧ ([2] : List Byte) ≠ coll0.header ∧ { cmsg with reserved := 1 }.reserved ≠ 0) := by
  decide +kernel
theorem test_wit_CollectiveEnds :
    ((opened (CLs coll1)).collFor { cmsg with member := 1 } = some (9, coll1, comm0) ∧ coll1.switched = true ∧
      cmsg.element < coll1.elements comm0.members.length ∧ coll1.sourceOf comm0.rank cmsg.element = none ∧
      coll1.find comm0.members.length cmsg.element = none) ∧
    (let s := { (CLs coll0) with window := 51 }
     tabFind s.colls 9 = some coll0 ∧ tabFind (s.owner 1).comms 3 = some comm0 ∧ coll0.start + comm0.timeout < s.window ∧ coll0.missing comm0.members.length comm0.rank = true ∧
       tabFind s.colls 8 = none) ∧
    (1 ∈ coll0.contributing 2 ∧ coll0.got = [] ∧ coll0.arrived 2 0 = none ∧
      (CLs { coll0 with lost := true }).collFor { cmsg with member := 1, status := 1, port := 67 } = some (9, { coll0 with lost := true }, comm0)) ∧
    { coll0 with got := [{ member := 0, element := 0, word := 1, code := 0 }, { member := 1, element := 0, word := 1, code := 0 },
        { member := 0, element := 1, word := 1, code := 0 }, { member := 1, element := 1, word := 1, code := 0 }] }.missing comm0.members.length comm0.rank = false := by
  decide +kernel
def Qr (s : State) : State :=
  let s := pokesR 0x1000 [0x10040, 2, 0x10080, 0x10200, 0, 0, 0, 1] (pokesR 0x400 [0, 0, 1, 1, 0] s)
  s.setQueue 3 { Queue.init with qstate := .ready, owner := 1, header := rsvW 0x400, ring := rsvW 0x1000, logCap := 4, pub := [0] }
def desc (w2 w3 : DWord) : List DWord := [0x10000, 0x10000, w2, w3, 0, 0, 0, 0]
def okD : List DWord := desc (BitVec.ofNat 64 (1 + 2 * 256 + 32 * 65536 + 2 * 2 ^ 24 + 4096 * 2 ^ 32)) 256
def bigD : List DWord := desc (BitVec.ofNat 64 (1 + 32 * 256 + 192 * 65536 + 2 ^ 24 + 458752 * 2 ^ 32)) 256
def spooled (n : Nat) (s : State) : State := s.updOwner 1 (fun x => { x with spool := BitVec.ofNat 64 (n * 2 ^ 32 + 0x40000) })
def Ks (w : List DWord) (s : State) : State :=
  let s := pokesR 0x800 w (spooled 100 s)
  s.setKernel 5 { Kernel.init with
    owner := 1
    kstate := .admitted
    lrec := { LaunchRec.zero with kernel := rsvW 0x800, teams := 3, flags := 0, completion := rsvW 0x900 } }
def farK : State :=
  let s := Ks okD S1
  s.setKernel 5 { (s.kernel 5) with lrec := { (s.kernel 5).lrec with kernel := 0x90000 } }
/-- The descriptor of kernel 5 is read, without poison, and fails the condition n (0: none). -/
def descIs (s : State) (n : Nat) : Bool :=
  let x := s.kernel 5
  match s.ownReads x.owner x.lrec.kernel.toNat 6 8 with
  | (some ws, s1) => ws.all (fun w => !w.2) && s1.descFails x.owner (parseDesc (ws.map Prod.fst)) x.lrec == n
  | (none, _) => false
def placeS : State := after (.kernelPlacementCheck 5) (Ks okD S1)
theorem test_wit_KernelSteps :
    (((Qr S1).takeFirst 0 ([3, 2, 1, 0].map ((Qr S1).sourcesOf 0)).flatten).isSome = true ∧
      (S1.takeFirst 0 ([3, 2, 1, 0].map (S1.sourcesOf 0)).flatten).isNone = true) ∧
    (((Ks okD S1).kernel 5).kstate = .admitted ∧ ((Ks okD S1).owner 1).ostate = .running ∧ (S1.kernel 5).kstate ≠ .admitted) ∧
    (descIs (Ks okD S1) 0 = true ∧ descIs (Ks (desc 0 0) S1) 17 = true ∧ descIs (Ks bigD S1) 18 = true ∧ descIs (spooled 1 (Ks okD S1)) 19 = true ∧
      (farK.ownReads 1 (farK.kernel 5).lrec.kernel.toNat 6 8).1.isNone = true) ∧
    ((placeS.kernel 5).kstate = .running ∧ (placeS.owner 1).ostate = .running ∧ (placeS.placeNext 5 ([0, 1].map (coreFrom 0 1))).isSome = true ∧
      (placeS.placeNext 5 ([9].map (coreFrom 0 1))).isNone = true) := by decide +kernel

/-! ## Hypotheses of the statements: owners, requests, the host, bundles, ports, the service pair, decoding -/
def spec0 : OwnerSpec :=
  { frames := (List.range 18).map (fun i => (if i < 16 then 0 else if i = 16 then 2 else 0, 256 + i)), reserve := 16, contexts := 8, walkBudget := 5, memBudget := 5,
    fabBudget := 5, copyBudget := 5, chipShare := 0, encrypted := false, dies := 15 }
def hdrQ (s : State) : State := pokesR 0x400 [0x11000, 4, 0, 0, 0] s
def ost (st : OState) (rsn : Nat) (s : State) : State := s.updOwner 1 (fun x => { x with ostate := st, reason := rsn })
/-- Every service pair has halted. -/
def halted (s : State) : State := (List.range 4).foldl (fun s d => s.updDie d (fun x => { x with role := 0 })) s
theorem test_wit_Led : S1.led = true ∧ (halted S1).led = false ∧ requestFree S1 1 0x0010 = true ∧ requestFree S1 1 0x0100 = true ∧ requestFree S1 1 0x0200 = true ∧
    requestFree S1 1 0x0300 = true ∧ requestFree (halted S1) 1 0x0010 = true ∧ (S1.owner 1).ostate ≠ .free ∧ State.reset.led = true ∧
    (∀ q ∈ S1.fabricOut, q.2.owner = 1 → q.2.kind = 1) := by decide +kernel
theorem test_wit_OwnerSteps :
    ((1 : Nat) ≤ 1 ∧ (255 : Nat) ≤ 255 ∧ (State.reset.owner 1).ostate = .free ∧ State.reset.specOk spec0 = true ∧ (S1.owner 1).ostate = .running ∧
      (ost .built 0 S1).pchanges = []) ∧
    (((ost .saved 0 S1).owner 1).ostate = .saved ∧ ((ost .ready 0 S1).owner 1).ostate = .ready) ∧
    (((ost .stopping 3 S1).owner 1).ostate = .stopping ∧ (∀ c ∈ (ost .stopping 3 S1).copies, c.2.owner ≠ 1) ∧ (∀ c ∈ (ost .stopping 3 S1).colls, c.2.owner ≠ 1)) ∧
    (((ost .built 0 S1).owner 1).recordFails = 0 ∧ (((ost .built 0 S1).updOwner 1 (fun x => { x with hvec := 3 })).owner 1).recordFails ≠ 0) ∧
    (((ost .stopped 7 S1).owner 1).reason = 7 ∧ ((ost .stopped 3 S1).owner 1).reason ≠ 7 ∧ ((ost .stopped 3 S1).owner 1).recordFails = 0) ∧
    ((List.range 8).any (fun i => ((ost .built 0 S1).owner 1).mayField i) = true ∧ (List.range 8).any (fun i => !(S1.owner 1).mayField i) = true) ∧
    (((hdrQ S1).tryBind 1 (rsvW 0x400 &&& 0x00FFFFFFFFFFFFFF) 5).1.isSome = true ∧ (S1.tryBind 1 (0x10401 &&& 0x00FFFFFFFFFFFFFF) 5).1.isNone = true) ∧
    (let s := S1.setQueue 2047 { Queue.init with qstate := .ready, owner := 1, header := 0x10400, ring := 0x11000, logCap := 4 }
     (s.queue 2047).qstate ≠ .unbound ∧ (S1.queue 5).qstate = .unbound) ∧
    ((0x1000 : Nat) < 0x2000 ∧ (0x1000 : Nat) % 8 = 0 ∧ vfHasStep 0x1000 3 = false) := by decide +kernel
def pokeW (off : Nat) (ws : List Word) (s : State) : State :=
  ((List.range ws.length).zip ws).foldl (fun s e => s.homeWrite (.dev (306 * 65536 + off + 4 * e.1)) e.2 (checkCode e.2 (off + 4 * e.1))) s
def comW (del : Nat) : List Word := [BitVec.ofNat 32 (3 + del * 256 + 2 * 65536), BitVec.ofNat 32 (50 * 65536), 2, 0, 0, 1024]
def expW (kind first count index : Nat) : List Word :=
  [BitVec.ofNat 32 (kind + 7 * 256 + 5 * 65536), 9, BitVec.ofNat 32 first, BitVec.ofNat 32 count, BitVec.ofNat 32 index, 0, 0, 0]
def rt0 : Routine := { words := [0x04000000], length := 4, root := 0 }
def more70 (s : State) : State := s.updOwner 1 (fun x => { x with frames := 100 })
def enc (s : State) : State := s.updOwner 1 (fun x => { x with encrypted := true })
def loading (n : Nat) (s : State) : State := s.updOwner 1 (fun x => { x with wsetup := some (List.replicate n rt0, List.replicate 256 0), wresult := 1 })
def crowded (s : State) : State := s.setOwner 2 { placedOwner with routines := List.replicate 30 rt0 }
/-- The export descriptor at 0x100 is read as one with p. -/
def expAt (s : State) (p : ExpDesc → State → Bool) : Bool :=
  match s.readExp 1 (rsvW 0x100) with
  | (some e, s1) => p e s1
  | (none, _) => false
def comAt (s : State) (p : ComDesc → State → Bool) : Bool :=
  match s.readCom 1 (rsvW 0x100) with
  | (some d, s1) => (s1.colls.all (fun c => !(c.2.owner == 1 && c.2.comm == d.comm))) && p d s1
  | (none, _) => false
theorem test_wit_WalkSetup :
    ((S1.owner 1).alive = true ∧ ((0x10101 : DWord) &&& 0x00FFFFFFFFFFFFFF).toNat % 64 ≠ 0 ∧ (S1.owner 1).wresult ≠ 1 ∧ ((loading 2 S1).owner 1).wresult = 1) ∧
    (((loading 2 (crowded S1)).owner 1).wsetup = some (List.replicate 2 rt0, List.replicate 256 0) ∧
      (∀ d ∈ diesOf ((loading 2 (crowded S1)).owner 1).dies, (loading 2 (crowded S1)).slotsUsed d 1 + 2 ≤ 32)) ∧
    (∃ d ∈ diesOf ((loading 3 (crowded S1)).owner 1).dies, 32 < (loading 3 (crowded S1)).slotsUsed d 1 + 3) ∧ (S1.owner 1).wsetup = none := by
  decide +kernel
theorem test_wit_RequestSteps :
    ((S1.readCom 1 0x10101).1.isNone = true ∧ (S1.readExp 1 0x10101).1.isNone = true) ∧
    (comAt (pokeW 0x100 (comW 0) S1) (fun d _ => !d.delete && decide (1 ≤ d.contexts)) = true ∧
      comAt (pokeW 0x100 (comW 1) (S1.updOwner 1 (fun x => { x with comms := [(3, comm0)] })))
        (fun d s1 => d.delete && (tabFind (s1.owner 1).comms d.comm).isSome) = true) ∧
    expAt (enc (pokeW 0x100 (expW 1 64 1 0) S1)) (fun e s1 => e.kind == 1 && (s1.owner 1).encrypted) = true ∧
    expAt (pokeW 0x100 (expW 1 64 1 0) S1) (fun e s1 => e.kind == 1 && !(s1.owner 1).encrypted && decide (e.first + e.count ≤ (s1.owner 1).frames) &&
      (List.range e.count).all (fun i => ((s1.owner 1).entry (e.first + i)).st != 0 && decide (((s1.owner 1).entry (e.first + i)).ty ≤ 1)) &&
      s1.exportsFree 3 e.count) = true ∧
    expAt (more70 (pokeW 0x100 (expW 2 70 4 9) S1)) (fun e s1 => e.kind == 2 && !(s1.owner 1).encrypted && decide (e.first + e.count ≤ (s1.owner 1).frames) &&
      decide (e.index + e.count ≤ 2 ^ 22) && (List.range e.count).all (fun i => ((s1.owner 1).entry (e.first + i)).st == 0)) = true ∧
    expAt (pokeW 0x100 (expW 3 0 1 9) { S1 with exports := [(9, BitVec.ofNat 64 (2 ^ 63 + 2 ^ 34))] })
      (fun e s1 => e.kind == 3 && s1.exportsOf 1 e.index e.count) = true ∧
    expAt (pokeW 0x100 (expW 3 0 1 9) { S1 with exports := [(9, BitVec.ofNat 64 (2 ^ 63 + 2 ^ 35))] })
      (fun e s1 => e.kind == 3 && !s1.exportsOf 1 e.index e.count) = true := by decide +kernel
/-- The host's access of a kind to an address of owner 1 is placed: over the records or not. -/
def hostAt (s : State) (va : DWord) (kind : Nat) (rcd : Bool) (p : Loc → State → Bool) : Bool :=
  match s.hostPlace 1 va kind with
  | (some (l, r), s1) => r == rcd && p l s1
  | (none, _) => false
theorem test_wit_HostSteps :
    ((S1.owner 1).alive = true ∧ (0x10100 : DWord).toNat % 8 = 0 ∧ (0x10101 : DWord).toNat % 4 ≠ 0 ∧ widthBytes .b < 4 ∧ MWidth.w ≠ .d) ∧
    hostAt S1 (rsvW 0x100) 0 false (fun _ _ => true) = true ∧
    hostAt S1 (rsvW 0x100) 1 false (fun l s1 => (s1.homeRead 1 l.word).1.1 == 0) = true ∧
    hostAt S1 (rsvW 0x100) 2 false (fun l s1 => (s1.outerAtomic 1 l .add .w 3 4 false).1.length == 1 && (s1.outerAtomic 1 l .add .d 3 4 false).1.length == 2) = true ∧
    hostAt S1 (BitVec.ofNat 64 (reserveBase + 0x1004)) 1 true (fun _ _ => true) = true ∧
    ((List.range 4).filter (fun d => (tabFind { S1 with hostLines := [(17, true)] }.hostLines (300 / 64 * 4 + d)).isSome) = [1] ∧
      (List.range 4).filter (fun d => (tabFind S1.hostLines (300 / 64 * 4 + d)).isSome) = []) := by decide +kernel
def byt (n v : Nat) : List Byte := (List.range n).map (fun i => BitVec.ofNat 8 (v / 256 ^ i))
def z (n : Nat) : List Byte := List.replicate n 0
/-- A bundle's header: flags, images, kernels, offsets of the image table, the kernel table and the portable form. -/
def hdr (fl im k it kt pf : Nat) : List Byte :=
  [0x53, 0x4B, 0x42, 0] ++ byt 2 1 ++ byt 2 fl ++ byt 2 im ++ byt 2 k ++ z 4 ++ byt 4 it ++ byt 4 kt ++ byt 4 pf ++ z 12 ++ byt 2 0 ++ z 22
def imgE (rev ent n : Nat) : List Byte := byt 1 rev ++ z 3 ++ byt 4 512 ++ byt 4 n ++ z 24 ++ byt 4 0 ++ byt 4 0 ++ byt 4 ent
def bImg : List Byte :=
  let a := hdr 0 1 1 64 112 0 ++ imgE 3 144 8 ++ z 32 ++ byt 4 4
  a ++ z (512 - a.length) ++ byt 4 0x04000000 ++ byt 4 0x04000000
def bNone : List Byte :=
  let a := hdr 0 1 0 64 0 0 ++ imgE 2 0 8
  a ++ z (512 - a.length) ++ byt 8 5
def bPort : List Byte :=
  let b := hdr 1 0 0 64 64 64 ++ [0x53, 0x50, 0x46, 0] ++ byt 4 1 ++ z 8 ++ byt 2 0x0080 ++ byt 1 0 ++ byt 1 0 ++ imgE 0 0 0
  b ++ z (512 - b.length)
theorem test_wit_BundleSteps :
    ((match parseBundle bImg with
      | some b => match b.images.find? (fun i => i.rev == 3) with
        | some i =>
          let bases := [rsv 0x200, rsv 0x400, rsv 0x600, rsv 0x800]
          let descs := (i.entries.zip b.kernels).map (fun x => descBytes (rsv 0x200 + x.1) (rsv 0x400) x.2)
          let runs := [(rsv 0x200, i.scode), (rsv 0x400, i.lcode), (rsv 0x600, relocate bases 2 i.relocs i.data), (rsv 0x800, relocate bases 3 i.relocs i.course),
            (rsv 0xA00, descs.flatten)]
          bases.all (fun a => a % 512 == 0) && rsv 0xA00 % 64 == 0 && disjointRuns runs && (S1.hostRuns 1 runs).isSome
        | none => false
      | none => false) = true) ∧
    ((match parseBundle bNone with
      | some b => b.images.all (fun i => i.rev != 3) && b.portable.isNone
      | none => false) = true) ∧
    ((match parseBundle bPort with
      | some b => b.images.all (fun i => i.rev != 3) && b.portable.isSome
      | none => false) = true) := by decide +kernel
def port3 (st f : Nat) : State := S1.updPort 0 3 (fun p => { p with st := st, failing := f, retries := 65535 })
theorem test_wit_PortSteps : ((3 : Nat) < 4 ∧ (15 : Nat) < 16) ∧ (∀ st, st < 5 → ((port3 st 0).port 0 3).st = st) ∧
    ((port3 2 0).die 0).started = true ∧ (port3 2 0).led = true ∧ (halted (port3 2 0)).led = false ∧ ((halted (port3 2 0)).die 0).started = true ∧
    (((port3 1 0).port 0 3).trained ≤ 100 ∧ ((S1.updPort 0 3 (fun p => { p with st := 1, trained := 101 })).port 0 3).trained = 101) ∧
    (1 ≤ ((port3 2 14).port 0 3).failing ∧ ((port3 2 14).port 0 3).failing < 15 ∧ ((port3 3 15).port 0 3).failing = 15) := by decide +kernel
def busy (op : Nat) (s : State) : State := (List.range 4).foldl (fun s d =>
  s.updDie d (fun x => { x with pstat := 1, pcmd := BitVec.ofNat 64 (op * 2 ^ 62 + 15 * 2 ^ 56 + 0x4000) })) s
def chg (o : OState) (st op : Nat) : State :=
  { (S1.updOwner 1 (fun x => { x with ostate := o })) with
    pchanges := [{ op := op, dies := 15, map := 0x4000, forced := false, start := st }]
    window := 100 }
def replayed (n lim : Nat) : State := S1.updDie 1 (fun x => { x with replays := [(165, n)], trlim := BitVec.ofNat 64 lim })
theorem test_wit_ServiceSteps :
    (((busy 1 S1).pending 0 1 false).isSome = true ∧ (S1.pending 0 1 false).isNone = true ∧ ((busy 2 S1).pending 0 2 false).isSome = true) ∧
    (((chg .saved 0 1).changeOf 0).map (fun c => ((chg .saved 0 1).quiet c, c.op)) = some (true, 1) ∧
      ((chg .saved 0 2).changeOf 0).map (fun c => ((chg .saved 0 2).quiet c, c.op)) = some (true, 2) ∧
      ((chg .running 0 1).changeOf 0).map (fun c => ((chg .running 0 1).quiet c, decide (c.start + ((chg .running 0 1).die 0).qto ≤ 100))) = some (false, true) ∧
      (S1.changeOf 0).isNone = true ∧ (chg .running 0 1).led = true ∧ (halted (chg .running 0 1)).led = false ∧ (busy 1 S1).led = true) ∧
    (S1.leaderDie.isSome = true ∧ (S1.die 0).role ≠ 0) ∧
    (let s := S1.updDie 0 (fun x => { x with role := 0 })
     s.leaderDie = none ∧ ((electAfter (s.die 0).elect (s.die 0).leader).find? (fun d => (s.die d).role == 1)).isSome = true ∧ (s.die 0).role = 0) ∧
    ((165 : Nat) < 640 ∧ fld ((replayed 4 4).die 1).trlim 0 32 < tabGet 0 ((replayed 4 4).die 1).replays 165 + 1 ∧ 165 ∉ ((replayed 4 4).die 1).spoke ∧
      tabGet 0 ((replayed 3 4).die 1).replays 165 + 1 ≤ fld ((replayed 3 4).die 1).trlim 0 32) ∧
    ({ S1 with capped := true }.capped = true ∧ S1.capped = false) := by decide +kernel
def P (n w : Nat) : State := (State.resetWith 2).withFetchWord n w
/-- A word is fetched at an address as the scalar stream fetches it. -/
def fetchAt (s : State) (va : DWord) (p : Word → State → Bool) : Bool :=
  match s.reach s.cur 0 .gl va.toNat 3 4 typesNarrow with
  | (.ok l _, u) => ok (consumeAt 3 l) u (fun x t => !x.2 && p x.1 t)
  | _ => false
theorem test_wit_StepRunsDecoded :
    ((P 32 0x06084005).agenda = [.scalar 0] ∧ (P 32 0x06084005).mayIssue 0 = true ∧ (P 32 0x06084005).mayIssue 7 = false ∧
      ok fetchScalar ((P 32 0x06084005).issueFrom 0 scalarStream) (fun r t => match r with
        | .ok i => decide (i = .addImm 1 2 5) && !t.scalarHazard i
        | _ => false) = true) ∧
    ((P 96 0x00102100B359800000000000).agenda = [.lane 0 0] ∧ (P 96 0).mayIssueLane 0 0 = true ∧ (P 96 0).mayIssueLane 0 1 = false ∧
      (let s1 := (P 96 0x00102100B359800000000000).issueFrom 0 0
       ok (fetchLane (s1.descOf s1.g.team).regs (s1.laneWord { neg := false, p := 0 }).path.pc) s1 (fun r t => match r with
         | .ok i => !t.laneHazard i
         | _ => false) = true)) ∧
    fetchAt ((P 64 0xFC0300001E900000).issueFrom 0 scalarStream) 0x10000 (fun a t => Dec.isWide a.toNat && fetchAt t 0x10004 (fun b _ =>
      match Dec.decodeScalar a.toNat b.toNat with
      | .ok _ => true
      | _ => false)) = true ∧
    fetchAt ((P 32 0x06084005).issueFrom 0 scalarStream) 0x10000 (fun a _ => !Dec.isWide a.toNat && (match Dec.decodeScalar a.toNat 0 with
      | .ok _ => true
      | _ => false)) = true ∧
    fetchAt ((P 96 0x00102100B359800000000000).issueFrom 0 0) 0x10000 (fun a t => fetchAt t 0x10004 (fun b u => fetchAt u 0x10008 (fun c _ =>
      match Dec.decodeLane 192 (a.toNat + 2 ^ 32 * b.toNat + 2 ^ 64 * c.toNat) with
      | .ok _ => true
      | _ => false))) = true := by decide +kernel
/-- A reply is outstanding for s4, which the scalar word reads and the lane word broadcasts (R314). -/
def replyDue (s : State) : State := s.updGroup 0 (fun x => { x with replies := [{ slot := 0, reg := 4, width := .w, tok := x.tok, req := 0, got := none }] })
theorem test_wit_Hazards :
    ok fetchScalar ((replyDue (P 32 0x02084200)).issueFrom 0 scalarStream) (fun r t => match r with
      | .ok i => t.scalarHazard i
      | _ => false) = true ∧
    (let s1 := (replyDue (P 96 0x0040300233D9800100000004)).issueFrom 0 0
     ok (fetchLane (s1.descOf s1.g.team).regs (s1.laneWord { neg := false, p := 0 }).path.pc) s1 (fun r t => match r with
       | .ok i => t.laneHazard i
       | _ => false) = true) := by decide +kernel
theorem test_wit_DecodeEncodeRoundTrip :
    (WellFormed (.addImm 63 0 (-1)) = true ∧ hasWord (.addImm 63 0 (-1)) = true) ∧
    (WellFormed (.vadd (.v 191 none) (.v 191) .imm { neg := true, p := 7 } 0xFFFFFFFF) = true ∧
      hasWord (.vadd (.v 191 none) (.v 191) .imm { neg := true, p := 7 } 0xFFFFFFFF) = true) := by decide +kernel
theorem test_wit_MemoryFormKept : Memory.wf (P 32 0x06084005) = true ∧ nextIs (step (P 32 0x06084005)) (fun t => sreg t 1 == 5) = true := by decide +kernel
theorem test_wit_ResetState : (3 : Nat) < 4 ∧ (15 : Nat) < 16 ∧ (255 : Nat) < 256 := by decide
theorem test_wit_CheckCodes : (65532 : Nat) < 65536 ∧ (65532 : Nat) % 4 = 0 ∧ (0 : Nat) < 65536 ∧ (0 : Nat) % 4 = 0 := by decide
/-- R404: a scalar word raises counter 17 of its die, a lane word counter 18; a branch to itself is issued each time. -/
theorem test_counted_words : nextIs (step (P 32 0x06084005)) (fun t => (t.die 0).read 0x311 == 1 && (t.die 0).read 0x312 == 0) = true ∧
    nextIs (step (P 96 0x00102100B359800000000000)) (fun t => (t.die 0).read 0x311 == 0 && (t.die 0).read 0x312 == 1 && (t.die 0).read 0x313 == 0) = true ∧
    (match step { P 32 0x06084005 with agenda := [.event (.addImm 1 2 5)] } with
     | .fault .noSuchAgent => true
     | _ => false) = true := by decide +kernel

/-! ## skas (chapter 1) -/
/-- A source of one file with an empty name. -/
def asm (revs : List Nat) (spf : Bool) (lines : List String) : Asm.Answer :=
  Asm.skas [([], (lines.map (fun l => (Asm.codes l).map (BitVec.ofNat 8) ++ [10])).flatten)] [] revs spf
def bundleOf (a : Asm.Answer) : Option Bundle := match a with | .bundle b => parseBundle b | .rejected _ => none
/-- The first image has p. -/
def imageIs (a : Asm.Answer) (p : CodeImage → Bool) : Bool := ((bundleOf a).bind (fun b => b.images.head?)).any p
/-- 32-bit words in memory order. -/
def asmBytes (l : List Nat) : List Byte := (l.map (leBytes 4)).flatten
/-- The module of chapter 1, its data part and its code part. -/
def moduleData : List String :=
  [" .equ N, 64", " .data", "table: .word 1, 2, 3, 4 ; offsets 0 to 15", "scale: .f32 0.5", " .align 8", " .dword wts", " .course",
   "wts: .celem ne4, 1.0, -2.5, 0.375"]
def moduleCode (last : String) : List String :=
  [" .scode", " .kernel sqsum", " .team groups=2, regs=64, scratch=16384", " li s1, N", " lrun square", " lsync", " gexit", " .lcode",
   " .block square", " vmul v1, v0, v0", " vadd v2:b0, v1, lane", last, " vend", " .endblock"]
/-- The words that the chapter and R65 to R69 give for it. -/
theorem test_skas_module : imageIs (asm [3] false (" .equ N, 64" :: moduleCode " vadd b1, b0, 1")) (fun i =>
    i.scode == asmBytes [0x1A080040, 0x2A000000, 0, 0x04000001, 0x04000004] &&
    i.lcode == asmBytes [0, 0x00198000, 0x00301000, 0, 0xB3598000, 0x00102100, 1, 0x33998000, 0x00100B64, 0, 0x33198000, 0x06200066]) = true := by
  decide +kernel
/-- Its data, its course line and its relocation, as the chapter describes them. -/
theorem test_skas_data : imageIs (asm [3] false moduleData) (fun i =>
    i.data == asmBytes [1, 2, 3, 4, 0x3F000000, 0, 0, 0] && i.course.length == 512 &&
    i.course.take 4 == [0x38, 0xC2, 0x2C, 0] && i.relocs == [{ site := 24, sect := 2, target := 3, addend := 0 }]) = true := by decide +kernel
/-- Writing v64 in the block of a kernel with regs=64 is rejected (R23), at its line. -/
theorem test_skas_limit : asm [3] false (" .equ N, 64" :: moduleCode " vadd v64, v1, 1") = .rejected [{ file := [], line := 13, col := 2 }] := by
  decide +kernel
/-- The portable form finalises into the native words (R49, R71). -/
theorem test_skas_portable :
    let src := [" .scode", "x: loop s5, x", " lrun b", " .lcode", " .block b", " vbr 1", " vend", " .endblock"]
    (bundleOf (asm [] true src)).any (fun b =>
      match b.portable with
      | some (rs, _) => imageIs (asm [3] false src) (fun i => (finalise rs).1 == { reason := 0, index := 0, scode := i.scode, lcode := i.lcode })
      | none => false) = true := by decide +kernel
/-- A constant widens where it does not fit imm13 under the layout (R32, R65): it is 8,192 with the short form, and 12,288 then. -/
theorem test_skas_widen : imageIs (asm [3] false [" .scode", "x: add s1, s2, (e - x) * 1024", " nop", "e: nop"]) (fun i =>
    i.scode == asmBytes [0x1E084000, 12288, 0x04000000, 0x04000000]) = true := by decide +kernel
/-- vcupd is reserved in revision 2 (R72), and 497 exceeds e4m3 while 495 gives 0x7F (R39). -/
theorem test_skas_revision : asm [2] false [" .lcode", " .block b", " vcupd.ne4 v4, 0(v2)", " vend", " .endblock"] =
    .rejected [{ file := [], line := 3, col := 2 }] := by decide +kernel
theorem test_skas_f8 : imageIs (asm [3] false [" .data", " .f8 e4m3, 495"]) (fun i => i.data == [0x7F]) = true ∧
    asm [3] false [" .data", " .f8 e4m3, 497"] = .rejected [{ file := [], line := 2, col := 12 }] := by decide +kernel

/-! ## Hypotheses of the statements: control registers, faults, returns, translations, words that do not execute -/
theorem test_wit_ControlRegisterEffects :
    ((ctlWrite 0x16).isSome = true ∧ (S1.writeCtl 0x16 3).isSome = true) ∧ (ctlWrite 0x10B = some 1 ∧ ((atL S1 1).writeCtl 0x10B 0x10000).isSome = true) ∧
    (S1.waits = [] ∧ WF.creg 0x18 = true ∧ (ctlWrite 0x201).isSome = true ∧ (SV.writeCtl 0x201 4).isSome = true ∧ 0 ∈ diesOf (SV.die 0).pcfg) ∧
    ((ctlWrite 0x223).isSome = true ∧ (SV.writeCtl 0x223 0x100).isSome = true) := by decide +kernel
theorem test_wit_Escalation : S1.g.level = 0 ∧ S1.g.utrap = 0 ∧ S1.g.wait = none ∧ S1.g.pendingFault = none ∧ S1.matrix = [] ∧ S1.cur < serviceGroup 0 ∧ S1.waits = [] ∧
    S1.g.lane.q = [] ∧ S1.g.lane.y = [] ∧ (match S1.reserveLoc 1 (S1.frameVa 0 0 + 8) with | .dev _ => true | _ => false) = true := by decide +kernel
theorem test_wit_FaultsTaken :
    (S1.g.level = 0 ∧ S1.freePark 0 1 = some 0 ∧ (let w := S1.owner 1; w.fqtail - w.fqhead ≠ w.fqcap) ∧ S1.g.wait = none ∧ S1.matrix = []) ∧
    ((S1.owner 1).fqbase.toNat % 512 = 0 ∧ (List.range 512).all (fun i => match S1.reserveLoc 1 ((S1.owner 1).fqbase.toNat + i) with | .dev _ => true | _ => false) = true ∧
      (S1.owner 1).fqtail = 0 ∧ fi.level ≤ S1.g.level ∧ fi.lanes.find? (fun e => e.1 == 0) = some (0, 1, 0x20000)) ∧
    ({ S1 with parks := (List.range 1024).map (fun i => (i, { owner := 1, pages := [] })) }.freePark 0 1 = none ∧
      (let w := (fullQ S1).owner 1; w.fqtail - w.fqhead = w.fqcap) ∧ (fullQ S1).freePark 0 1 = some 0) := by decide +kernel
/-- The access ends in a translation fault, or beyond the reserve. -/
def stops (s : State) (ea : DWord) (kind : Nat) (wd : MWidth) (types : Nat → Bool) (beyond : Bool) : Bool :=
  match place .gl ea kind (widthBytes wd) types s with
  | .error (.tfault _) _ => !beyond
  | .error (.reserve _) _ => beyond
  | _ => false
def astray (s : State) : State := s.updG (fun x =>
  { x with
    pc := 0x20000
    lane := { x.lane with slots := [(0, ({ pc := 0x20000, mask := 3, inner := none }, 0))] } })
theorem test_wit_FaultingAccesses :
    (sbad S1 1 = false ∧ [0, 1, 2].all (fun k => stops S1 0x20000 k .w (typesOf .w) false) = true ∧ stops (atL S1 1) (BitVec.ofNat 64 (reserveBase + 64 * 65536)) 0 .w (typesOf .w) true = true ∧
      stops (atL S1 1) 0x20000 1 .w typesDevice false = true) ∧
    ((laneBase.laneWord p0).redo = none ∧ [(0, LRes.done [] 0), (3, .fault 4 0 0x20000)].all (fun r => enabled laneBase.g.fpen .none r.2 == r.2) = true ∧
      [(0, LRes.done [] 0), (3, .fault 4 0 0x20000)].any (fun r => r.2.isFault) = true) ∧
    ((astray S1).mayIssue 0 = true ∧ (match (((astray S1).issueFrom 0 scalarStream).reach 0 0 .gl 0x20000 3 4 typesNarrow).1 with | .fault 4 0 => true | _ => false) = true) ∧
    ((astray laneBase).mayIssueLane 0 0 = true ∧ (match (((astray laneBase).issueFrom 0 0).reach 0 0 .gl 0x20000 3 4 typesNarrow).1 with | .fault 4 0 => true | _ => false) = true) := by
  decide +kernel
/-- A group in a level H handler that a trap of some lanes of its word has entered: the fields in device format of its block stand as the device wrote them. -/
def risen : State :=
  let s := laneBase.updG (fun x => { x with level := 1, hAside := some (x.aside (some { path := -1, active := 7, done := 2, push := none }) 0 0) })
  let at0 (off : Nat) : Nat := match s.reserveLoc 1 off with | .dev ma => ma / 4 | _ => 0
  { s with mem := { s.mem with free := (devFields.map (fun e => (List.range e.2.1).map (fun i => (at0 (e.1 + 4 * i), e.2.2 + i)))).flatten } }
theorem test_wit_ReturnFromHandler :
    (risen.g.preempt = none ∧ risen.g.replies = [] ∧ risen.g.level = 1 ∧ risen.g.hAside.isSome = true) ∧
    ((risen.g.hAside.bind (fun b => b.word)).isSome = true ∧
      ((risen.g.hAside.bind (fun b => b.word)).bind (fun m => (tabFind (risen.returnLevel 0).g.lane.slots 0).map (fun e => e.1.mask == m.path))) = some true) := by decide +kernel
def res0 : DWord := BitVec.ofNat 64 (2 ^ 63 + 64 * 2 ^ 16 + 15)
def moving : State :=
  { (S1.updOwner 1 (fun x => { x with fmap := tabPut x.fmap 64 { st := 2, ty := 0, pinned := false, move := 0, frame := 320 } })) with moves := [(0, mv0)] }
/-- Page 3 is the owner's frame 0. -/
def frame0 : State := { S1 with tlb := { unit := 0, owner := 1, page := 3, res := BitVec.ofNat 64 (2 ^ 63 + 15) } :: S1.tlb }
theorem test_wit_TranslationResults :
    (res0.getLsbD 63 = true ∧ resultOk res0 (S1.owner 1).frames = true ∧ (res0 &&& 1).getLsbD 63 = false ∧ resultOk (res0 ||| BitVec.ofNat 64 (2 ^ 61)) 65 = false ∧
      (S1.owner 1).region[0]? = none) ∧
    (S1.direct 1 0x10000 0 = none ∧ (S1.tlbFind [0] 1 1).map (fun e => e.res) = some res0 ∧ inReserve 0x10000 = false ∧ inReserve (rsv 0) = true ∧ (S1.owner 1).reserve = 64) ∧
    ((S1.owner 1).frames = 65 ∧ ((S1.owner 1).entry 64).st = 1 ∧ ((S1.owner 1).entry 64).ty = 0 ∧ ((moving.owner 1).entry 64).st = 2 ∧ tabFind moving.moves 0 = some mv0) ∧
    (S1.g.level ≠ 3 ∧ (match (S1.xlate (S1.caches 0) 1 0x20000 0 0).1 with | .fault 4 0 => true | _ => false) = true ∧
      (match ((atL S1 1).xlate ((atL S1 1).caches 0) 1 (reserveBase + 64 * 65536) 0 1).1 with | .beyond => true | _ => false) = true) ∧
    ((match (frame0.xlate (frame0.caches 0) 1 0x30008 1 0).1 with | .ok _ _ 0 8 => true | _ => false) = true ∧
      (match (R1.xlate (R1.caches 0) 1 0x20010 0 0).1 with | .ok _ 4 _ _ => true | _ => false) = true ∧ typesOf .w 4 = false ∧ (R1.owner 1).memLeft ≠ 0) := by decide +kernel
theorem test_wit_LaneStoreBytes :
    let x : Nat × Loc × Word × Bool := (0, .dev (320 * 65536), 0x11, false)
    let y : Nat × Loc × Word × Bool := (1, .dev (320 * 65536 + 1), 0x22, false)
    x.2.1.word = y.2.1.word ∧ ok (buildAll .b [] [(0, .ok x.2.1, [x.2.2]), (1, .ok y.2.1, [y.2.2])]) S2 (fun b _ => b.length == 1) = true ∧
      x.2.1.isHost = false ∧ (Loc.host 64 true).isHost = true ∧ ok (consumeAt 0 x.2.1) S2 (fun _ _ => true) = true ∧ x.2.1.byte % 2 = 0 := by decide +kernel
theorem test_wit_OperandQueueLoads :
    sbad S1 9 = true ∧ sbad S1 4 = false ∧ 2 ^ 56 ≤ (sreg S1 4 + (0 : BitVec 13).signExtend 64).toNat ∧ (sreg S1 8 + (0 : BitVec 13).signExtend 64).toNat % 4 ≠ 0 ∧
    (sreg S1 8).toNat < 2 ^ 56 ∧ 4 ≤ (tabGet [] (full S1).g.lane.q 3).length := by decide +kernel
theorem test_wit_Completions :
    let s := { S2 with completions := [(320 * 8192, 0x11223344)] }
    tabFind s.completions (320 * 65536 / 8) = some 0x11223344 ∧ tabFind (s.team s.g.team).held (320 * 65536 / 4) = none ∧ tabFind s.badCopies (320 * 65536 / 4) = none ∧
      (s.firstRead s.cur (.dev (320 * 65536))).1 = ((0x11223344 : DWord) >>> (320 * 65536 / 4 % 2 * 32)).truncate 32 ∧ tabFind S2.completions (320 * 8192) = none ∧ scDev .grp = false := by
  decide +kernel
/-- 1.0 is the code 56 of e4m3, 1 of i8, and the power 127 of e8s. -/
theorem test_wit_RoundedResults :
    f32Units 0x3F800000 = 2 ^ 149 ∧ RoundsTo .rne false (fun j => codeUnits 3 j * 2 ^ (150 - 7 - 3)) (2 ^ 149) 1 56 ∧ RoundsTo .rtz false (fun j => j * 2 ^ 149) (2 ^ 149) 1 1 ∧
    RoundsTo .rdn false (fun j => 2 ^ (j + 22)) (2 ^ 149) 1 127 ∧ 2 ^ 22 ≤ f32Units 0x3F800000 ∧ f32Units 0 < 2 ^ 22 := by
  unfold RoundsTo
  decide +kernel
theorem test_wit_FabricWords : (msg .w [cw 5 8] 5).offset + 4 * 0 < 65536 ∧ 65536 ≤ (msg .w [cw 5 8] 5).offset + 4 * 16384 ∧
    (match X1.exported { msg .w [cw 5 8] 5 with offset := (msg .w [cw 5 8] 5).offset + 4 * 0 } 1 with | .ok _ => true | .error _ => false) = true := by decide +kernel
theorem test_wit_CopyOutside : ok (place .gl 0x20000 0 64 (fun _ => true)) (win S1) (fun l _ => decide (2 ≤ l.2)) = true ∧ (0x20000 : DWord).toNat % 64 = 0 := by decide +kernel
/-- The word at 0x10000 has the poison code. -/
def soured (n w : Nat) : State :=
  let x : Word := BitVec.ofNat 32 w
  (P n w).homeWrite (.dev (320 * 65536)) x (poisonCode x 0)
theorem test_wit_WordsNotExecuted :
    (ok fetchScalar ((P 32 0x54000000).issueFrom 0 scalarStream) (fun r _ => decide (r = .illegal 1 0x54000000)) = true ∧
      ok fetchScalar ((soured 32 0x04000000).issueFrom 0 scalarStream) (fun r _ => decide (r = .poisoned 0x04000000)) = true) ∧
    ((P 96 0).mayIssueLane 0 0 = true ∧ (let s1 := (P 96 1).issueFrom 0 0
      (s1.laneWord p0).path.redo = none ∧ ok (fetchLane (s1.descOf s1.g.team).regs (s1.laneWord p0).path.pc) s1 (fun r _ => decide (r = .illegal 3 1)) = true)) ∧
    (let s1 := (soured 96 1).issueFrom 0 0
     ok (fetchLane (s1.descOf s1.g.team).regs (s1.laneWord p0).path.pc) s1 (fun r _ => decide (r = .poisoned 1)) = true) ∧
    (S1.heldOwners S1 = [] ∧ S1.heldOwners (S1.updOwner 1 (fun x => { x with walkDebt := 1 })) = [1]) := by decide +kernel

/-! ## Terms that are not well formed, one for each check (R51 to R70) -/
theorem test_illformed_scalar : WellFormed (.add 64 0 0) = false ∧ WellFormed (.sel 1 2 3 8) = false ∧ WellFormed (.mset 0 1) = false ∧
    WellFormed (.mand 8 1 2) = false ∧ WellFormed (.movY 1 2) = false ∧ WellFormed (.shlImm 1 2 64) = false ∧ WellFormed (.aluWide (.cmp .eq) 8 1 5) = false ∧
    WellFormed (.lrun 0 8) = false ∧ WellFormed (.crd 1 8) = false ∧ WellFormed (.cwr 0x400 1) = false ∧ WellFormed (.trap 4096) = false ∧
    WellFormed (.spawn 1 2 57) = false ∧ WellFormed (.dqpush 0 1 3) = false ∧ WellFormed (.dqpop 3 1 0) = false ∧ WellFormed (.dqpop 0 1 0) = false := by
  decide +kernel
theorem test_illformed_memory : WellFormed (.ldX .w .rel .dev .gl 1 2 0) = false ∧ WellFormed (.ldX .w .rlx .dev .gl 1 2 0) = false ∧
    WellFormed (.ldX .w .acq .none .gl 1 2 0) = false ∧ WellFormed (.stX .w .rel .rmt .gl 1 2 0) = false ∧ WellFormed (.ldX .w .rlx .none .pv 1 2 0) = false ∧
    WellFormed (.amo .add .w .rlx .none .gl 1 2 3 4 0) = false ∧ WellFormed (.amo .add .b .rlx .none .gl 1 2 3 0 0) = false ∧
    WellFormed (.fence .rlx .dev) = false ∧ WellFormed (.fence .acq .rmt) = false ∧ WellFormed (.vld .w false .acq .team .pv (.v 1 none) 2 p0 0) = false ∧
    WellFormed (.vld .w true .rlx .none .gl (.v 1 none) 2 p0 0) = false ∧ WellFormed (.vld .w false .rlx .none .gl (.v 1 none) 3 p0 0) = false ∧
    WellFormed (.vst .w .rlx .none .gl 2 .imm p0 0) = false ∧ WellFormed (.vamo .add .rlx .none .gl (.v 1 none) 2 (.v 3) (.v 4) p0 0) = false := by
  decide +kernel
theorem test_illformed_lane : WellFormed (.vadd (.v 192 none) (.v 1) (.v 2) p0 0) = false ∧ WellFormed (.vadd (.v 1 (some 4)) (.v 1) (.v 2) p0 0) = false ∧
    WellFormed (.vadd (.y 2 none) (.v 1) (.v 2) p0 0) = false ∧ WellFormed (.vadd (.v 1 none) (.q 8) (.v 2) p0 0) = false ∧
    WellFormed (.vadd (.v 1 none) (.b 4) (.v 2) p0 0) = false ∧ WellFormed (.vadd (.v 1 none) .imm .sbc p0 5) = false ∧
    WellFormed (.vadd (.v 1 none) (.v 1) .sbc p0 64) = false ∧ WellFormed (.vadd (.v 1 none) (.v 1) (.v 2) { neg := true, p := 0 } 0) = false ∧
    WellFormed (.vadd (.v 1 none) (.v 1) (.v 2) { neg := false, p := 8 } 0) = false ∧ WellFormed (.vcmp .eq 0 (.v 1) (.v 2) p0 0) = false ∧
    WellFormed (.vcvt .f32 .f32 .rne (.v 1 none) (.v 2) 0 p0) = false ∧ WellFormed (.vcvt .ne4 .f32 .rne (.v 1 none) (.v 2) 0 p0) = false ∧
    WellFormed (.vcvt .e4m3 .f32 .rne (.v 1 none) (.v 2) 4 p0) = false ∧ WellFormed (.vdot4 .i4 (.v 1 none) (.v 2) (.v 3) (.v 4) p0 0) = false ∧
    WellFormed (.vdot8 .i8 (.v 1 none) (.v 2) (.v 3) (.v 4) p0 0) = false ∧ WellFormed (.vscacc (.v 1 none) (.v 2) (.v 3) (.v 4) 4 0 0 p0) = false ∧
    WellFormed (.vvote .any (.v 0 none) (.v 1) p0 0) = false ∧ WellFormed (.vbr p0 4 8) = false ∧
    WellFormed (.vldc .ne4 4 true .gl (.v 0 none) 2 p0 0) = false ∧ WellFormed (.vstc .ne4 2 .gl 2 191 p0 0) = false ∧
    WellFormed (.vcupd .ne4 .gl 2 189 p0 0) = false ∧ WellFormed (.vmma .i8 .i4 0 32 64 p0) = false ∧ WellFormed (.vmma .i8 .i8 16 32 64 p0) = false ∧
    WellFormed (.vmma .f32 .f32 0 32 64 p0) = false := by decide +kernel
/-- Words the tables reserve: major 0, m0 written, a minor without a row, selector 208, (!p0), a field that is not used. -/
theorem test_reserved_words : decodeTableWord 32 0 = none ∧ decodeTableWord 32 0x04000028 = none ∧ decodeTableWord 32 0x02000017 = none ∧
    decodeTableWord 96 0x00101000343340000000000 = none ∧ decodeTableWord 96 0x0010100033319810 = none ∧ decodeTableWord 32 0x04000080 = none ∧
    decodeTableWord 32 0x02002090 = none := by decide +kernel

/-! ## Single steps: the expected values are worked out from the rules named -/
/-- The state after an instruction has register n as v, not poisoned. -/
def gives (i : Instr) (s : State) (n : Nat) (v : DWord) : Bool := nextIs (exec i s) (fun t => sreg t n == v && !sbad t n)
/-- The instruction takes the trap of a cause: a user trap handler is entered at c.utrap with it. -/
def trapsWith (i : Instr) (s : State) (cause : Nat) : Bool :=
  nextIs (exec i (ut s)) (fun t => t.g.pc == 0x10100 && fld t.g.tr.tcause 0 7 == cause && t.g.tr.tpc == s.g.pc)
theorem test_add_wraps : gives (.add 3 5 11) S1 3 0 = true := by decide +kernel
theorem test_sub : gives (.sub 3 1 6) S1 3 (-65) = true := by decide +kernel
theorem test_mulh_signed : gives (.mulh 3 4 4) S1 3 0x4000000000000000 = true ∧ gives (.mulh 3 5 5) S1 3 0 = true := by decide +kernel
/-- R325: division by zero gives all ones; -2^63 by -1 gives -2^63; -7 by 5 is -1. -/
theorem test_div_corners : gives (.div 3 1 0) S1 3 (-1) = true ∧ gives (.div 3 4 5) S1 3 0x8000000000000000 = true ∧ gives (.div 3 2 1) S1 3 (-1) = true ∧
    gives (.divu 3 5 1) S1 3 0x3333333333333333 = true := by decide +kernel
/-- R325: a shift count of 70 gives zero, and a fill of the sign for sar; bits above [7:0] of the count are ignored. -/
theorem test_shift_counts : gives (.shl 3 1 6) S1 3 0 = true ∧ gives (.sar 3 4 6) S1 3 (-1) = true ∧ gives (.shr 3 4 13) S1 3 0 = true ∧
    gives (.shl 3 1 18) (regs S1 [(18, 0x101)]) 3 10 = true := by decide +kernel
theorem test_minu_maxu : gives (.minu 3 1 2) S1 3 5 = true ∧ gives (.min 3 1 2) S1 3 (-7) = true ∧ gives (.maxuImm 3 1 (-1)) S1 3 (-1) = true := by
  decide +kernel
theorem test_clz_popc_ext : gives (.clz 3 0) S1 3 64 = true ∧ gives (.popc 3 5) S1 3 64 = true ∧ gives (.extB 3 18) (regs S1 [(18, 0x180)]) 3 (-128) = true := by
  decide +kernel
theorem test_poison_spreads : nextIs (exec (.add 3 1 9) S1) (fun t => sbad t 3) = true ∧ nextIs (exec (.sel 3 9 1 2) S1) (fun t => !sbad t 3) = true := by
  decide +kernel
theorem test_cmp : nextIs (exec (.cmp .ltu 2 1 2) S1) (fun t => t.g.sr.flag 2) = true ∧ nextIs (exec (.cmp .lt 2 1 2) S1) (fun t => !t.g.sr.flag 2) = true ∧
    trapsWith (.cmp .eq 2 9 1) S1 3 = true := by decide +kernel
theorem test_li_lih : gives (.li 9 (-1)) S1 9 (-1) = true ∧ gives (.lih 1 0x12) S1 1 0x0000001200000005 = true ∧
    gives (.aluWide .add 3 0 0x80000000) S1 3 0xFFFFFFFF80000000 = true := by decide +kernel
/-- R151: loop with 1 in its register goes on, with 0 it branches; call saves the next address. -/
theorem test_branches : nextIs (exec (.loop 11 (-3)) S1) (fun t => t.g.pc == 0x10004 && sreg t 11 == 0) = true ∧
    nextIs (exec (.loop 3 (-3)) S1) (fun t => t.g.pc == 0xFFF4 && sreg t 3 == -1) = true ∧
    nextIs (exec (.call 4) S1) (fun t => t.g.pc == 0x10010 && sreg t 63 == 0x10004) = true ∧ trapsWith (.ret 8) S1 12 = true := by decide +kernel
theorem test_masks : gives (.mcnt 3 0) S1 3 32 = true ∧ nextIs (exec (.mset 1 5) S1) (fun t => t.g.mask 1 == -1) = true ∧
    gives (.mfirst 3 7) S1 3 32 = true := by decide +kernel
/-- R10, R374: the byte at the lower address is the less significant one. -/
theorem test_load_bytes : gives (.ldB 3 12 (-8)) S2 3 0x44 = true ∧ gives (.ldH 3 12 (-6)) S2 3 0x1122 = true ∧
    gives (.ldD 3 12 0) S2 3 0x0000000089ABCDEF = true := by decide +kernel
theorem test_store_byte : nextIs (exec (.stB 1 12 (-7)) S2) (fun t => gives (.ldW 3 12 (-8)) t 3 0x11220544) = true := by decide +kernel
theorem test_store_held : nextIs (exec (.stW 1 12 0) S2) (fun t => devByte t (320 * 65536 + 8) == 0xEF && viewByte t t.g.team (320 * 65536 + 8) == 5) = true := by
  decide +kernel
theorem test_misaligned : trapsWith (.ldW 3 8 0) S2 12 = true ∧ trapsWith (.stD 3 7 0) S2 12 = true ∧ trapsWith (.ldW 3 9 0) S2 3 = true := by decide +kernel
theorem test_amo : nextIs (exec (.amo .max .w .ar .dev .gl 3 12 1 0 0) S2)
    (fun t => sreg t 3 == 0x89ABCDEF && devByte t (320 * 65536 + 8) == 5) = true := by decide +kernel
theorem test_cas : nextIs (exec (.amo .cas .w .ar .dev .gl 3 12 1 2 0) S2) (fun t => devByte t (320 * 65536 + 8) == 0xEF) = true := by decide +kernel
theorem test_trap_argument : nextIs (exec (.trap 77) (ut S1)) (fun t => t.g.tr.tcause == 77 * 65536 + 6 && t.g.tr.tspc == 0x10004) = true := by decide +kernel
theorem test_privilege : trapsWith .hret S1 2 = true ∧ trapsWith (.cwr 0x100 1) S1 2 = true ∧ trapsWith (.pset 1 2) S1 2 = true := by decide +kernel
theorem test_tret_back : nextIs (exec .tret (after (.trap 3) (ut S1))) (fun t => t.g.pc == 0x10004 && t.g.tr.tctl == 0) = true ∧ trapsWith .tret S1 15 = true := by
  decide +kernel
theorem test_raw_word : gives (.ldk 3 20 0) (regs (atL S2 1) [(20, 0x10000)]) 3 (BitVec.ofNat 64 ((checkCode 0x11223344 0).toNat * 2 ^ 32 + 0x11223344)) = true := by
  decide +kernel
/-- R218: the last of two arrivals flips the phase and leaves the word open. -/
theorem test_barrier_flip : nextIs (exec (.arrive 20 21) (Bs (bw 2 1 false true) 2 S1)) (fun t =>
    (BarWord.ofWord (match homeDword (.sram 0 64) t with | .ok w _ => w | .error _ _ => 0)).phase) = true := by decide +kernel
theorem test_bound_lowers : nextIs (exec (.bmin 3 20 21) (Bd 200)) (fun t => t.pushes.length == 2) = true := by decide +kernel
theorem test_steal_empty : nextIs (exec (.dqsteal 30 20 2) (Dq 3 3 S1)) (fun t => sreg t 30 == 0 && !t.g.sr.flag 2) = true := by decide +kernel
theorem test_push_full : nextIs (exec (.dqpush 2 20 22) (Dq 3 7 S1)) (fun t => !t.g.sr.flag 2) = true ∧
    nextIs (exec (.dqpush 2 20 22) (Dq 3 6 S1)) (fun t => t.g.sr.flag 2) = true := by decide +kernel
theorem test_qpost_full : gives (.qpost 3 20 21) (Qs 18 18 2 S1) 3 (-1) = true ∧ gives (.qpost 3 20 21) (Qs 17 17 2 S1) 3 17 = true := by decide +kernel
theorem test_vwait_differs : gives (.vwait 3 20 21) (Vs 8 S1) 3 1 = true := by decide +kernel
theorem test_spawn : gives (.spawn 3 24 1) T1 3 1 = true := by decide +kernel

/-- R103's example and R107's: 1.0 at offset 0x10 has code 0xDD and poison code 0x87, and code 0xC1 at offset 0. -/
theorem test_check_code : checkCode 0x3F800000 0x10 = 0xDD ∧ poisonCode 0x3F800000 0x10 = 0x87 ∧ rekeyCode 0xDD 0x10 0 = 0xC1 ∧
    checkCode 0x3F800000 0 = 0xC1 ∧ rekeyCode 0x87 0x10 0 = 0x9B := by decide +kernel
/-- R88's table of rounding reads. -/
theorem test_course_round : courseRound 1 0x3F 0xF0 = (0x40, false) ∧ courseRound 2 0x3FF0 0x12 = (0x3FF0, false) ∧ courseRound 3 0x3FF012 0x34 = (0x3FF012, false) ∧
    courseRound 1 0x7F 0x80 = (0x7F, true) ∧ courseRound 1 0xBE 0x80 = (0xBE, false) := by decide +kernel
/-- The lanes of R345's example: lane 2 is not active, v1 holds 10 + l, v4 holds 2^24 and ones. -/
def R345 : State := laneBase.updG (fun x =>
  let lr := (List.range 32).foldl (fun lr l => lr.put 1 l (BitVec.ofNat 32 (10 + l)) false) x.lr
  let lr := [0, 1, 2, 3].foldl (fun lr l => lr.put 4 l (if l = 0 then 0x4B800000 else 0x3F800000) false) lr
  { x with lr := lr.putPred 1 0xFFFFFFFB })
def lanes (i : Instr) (n : Nat) (ls : List Nat) : List Word := ls.map (fun l => ((after i R345).g.lr.get n l).1)
theorem test_vshfl : lanes (.vshfl .down (.v 2 none) (.v 1) .imm P1 1) 2 [0, 1, 2, 3, 31] = [11, 0, 0, 14, 0] := by decide +kernel
theorem test_vred_exact : lanes (.vred .fadd (.v 3 none) (.v 4) P1 0) 3 [0, 1, 2, 31] = [0x4B800001, 0x4B800001, 0, 0x4B800001] := by decide +kernel
theorem test_vscan : lanes (.vscan (.v 5 none) .lane P1 0) 5 [0, 1, 2, 3, 31] = [0, 1, 0, 4, 494] := by decide +kernel
/-- R348's and R350's examples. -/
theorem test_vdot4 : (dotRes .e4m3 4 0x3030 0x3C3C 0x4B800000).1 = 0x4B800001 := by decide +kernel
theorem test_vscacc : scaleRes 0x40C00000 0x3F800000 0x7E 0x81 = (0x41500000, 0) := by decide +kernel
/-- R334 to R337: 1/3, a tie, -0 under rounding down, the reciprocal of -0. -/
theorem test_float : Num.frcp 0x40400000 = (0x3EAAAAAB, 16) ∧ (Num.fadd .rne 0x4B800000 0x3F800000).1 = 0x4B800000 ∧
    (Num.fadd .rup 0x4B800000 0x3F800000).1 = 0x4B800001 ∧ Num.fadd .rdn 0x3F800000 0xBF800000 = (0x80000000, 0) ∧ Num.frcp 0x80000000 = (0xFF800000, 2) := by
  decide +kernel
theorem test_vmulh_uns : (after (.vmulh true (.v 20 none) (.v 2) (.v 2) P1 0) L1).g.lr.get 20 0 = (0xFFFFFFFE, false) := by decide +kernel
theorem test_vsel_poison : ((after (.vsel false 2 (.v 20 none) (.v 11) (.v 1) P1 0) L1).g.lr.get 20 5).2 = false ∧
    ((after (.vpoison (.v 20 none) (.v 1) P1 0) L1).g.lr.get 20 5).2 = true := by decide +kernel
theorem test_vcmp_poison_traps : nextIs (exec (.vcmp .eq 3 (.v 11) (.v 1) P1 0) (ut L1)) (fun t => t.g.tr.tmask == 0x20 && fld t.g.tr.tcause 0 7 == 3) = true := by
  decide +kernel
theorem test_vbr_parts : nextIs (exec (.vbr P1 4 8) L1) (fun t => t.g.lane.slots.length == 2 && t.g.lane.spill.length == 1) = true := by decide +kernel
theorem test_vst_vld : nextIs (exec (.vst .w .rlx .none .gl 40 (.v 1) P1 0) L2) (fun t =>
    viewByte t t.g.team (320 * 65536 + 4) == (L2.g.lr.get 1 5).1.truncate 8) = true := by decide +kernel
theorem test_event_not_enabled : (match exec (.scrubComplete 402) S1 with
    | .fault .notEnabled => true
    | _ => false) = true := by decide +kernel
theorem test_port_up : nextIs (exec (.bothLanesLock 0 3) (port3 1 0)) (fun t => (t.port 0 3).st == 2) = true := by decide +kernel
theorem test_reset_then_word : nextIs (step (P 64 0xFC0300001E900000)) (fun t => sreg t 18 == 0xFFFFFFFFFC030000 && t.g.pc == 0x10008) = true := by decide +kernel

end Sys2Proof.Tests
end

/-! Proof of O60. The check code is a fold of one step on bytes over the message bits, and the step is linear over exclusive or, so re-keying by the difference of two
offsets turns the code at the one into the code at the other. -/
namespace Sys2Proof.Machine

/-- One step of R102's register with a message bit, on bytes as the statement writes it. -/
def crcNext (c : Byte) (b : Bool) : Byte := (c <<< 1) ^^^ (if c.msb ^^ b then 7 else 0)

/-- The n low bits of a number, highest first. -/
def lowBits (x n : Nat) : List Bool := (List.range n).map (fun i => x.testBit (n - 1 - i))

@[simp] theorem lowBits_zero (x : Nat) : lowBits x 0 = [] := rfl

@[simp] theorem lowBits_succ (x n : Nat) : lowBits x (n + 1) = x.testBit n :: lowBits x n := by
  simp only [lowBits, List.range_succ_eq_map, List.map_cons, List.map_map]
  congr 1
  exact List.map_congr_left fun i _ => by simp [Nat.sub_sub, Nat.add_comm]

/-- A number put together from a high and a low part has the bits of the one before those of the other. -/
theorem lowBits_append (x n : Nat) {y m : Nat} (hy : y < 2 ^ m) : lowBits (x * 2 ^ m + y) (n + m) = lowBits x n ++ lowBits y m := by
  have split (j : Nat) : (x * 2 ^ m + y).testBit j = if j < m then y.testBit j else x.testBit (j - m) := by
    rw [Nat.mul_comm, Nat.testBit_two_pow_mul_add x hy]
  unfold lowBits
  rw [List.range_add, List.map_append, List.map_map]
  congr 1 <;> refine List.map_congr_left fun i hi => ?_ <;> rw [List.mem_range] at hi
  · rw [split, if_neg (by omega)]
    congr 1; omega
  · rw [Function.comp_apply, split, if_pos (by omega)]
    congr 1; omega

theorem lowBits_word (w : Word) : lowBits w.toNat 32 = (List.range 32).map (fun i => w.getMsbD i) := by
  refine List.map_congr_left fun i hi => ?_
  simp [BitVec.getMsbD, BitVec.getLsbD, List.mem_range.mp hi]

/-- Bits 15 to 2 of an offset are the 14 low bits of its word's number. -/
theorem lowBits_offset (off : Nat) : lowBits (off / 4 % 2 ^ 14) 14 = (List.range 14).map (fun i => off.testBit (15 - i)) := by
  refine List.map_congr_left fun i hi => ?_
  have hi : i < 14 := List.mem_range.mp hi
  rw [Nat.testBit_mod_two_pow, show off / 4 = off / 2 ^ 2 from rfl, Nat.testBit_div_two_pow]
  simp only [show 14 - 1 - i < 14 by omega, decide_true, Bool.true_and]
  congr 1; omega

/-- The model's step on numbers is the step on bytes. -/
theorem crcBit_toNat (c : Byte) (b : Bool) : crcBit c.toNat b = (crcNext c b).toNat := by
  have hmsb : decide (128 ≤ c.toNat) = c.msb := (BitVec.msb_eq_decide c).symm
  have hshift : (c <<< 1).toNat = c.toNat * 2 % 256 := by simp [Nat.shiftLeft_eq]
  have hxor : (if c.msb != b then Nat.xor (c.toNat * 2 % 256) 7 else c.toNat * 2 % 256) =
      c.toNat * 2 % 256 ^^^ (if c.msb ^^ b then (7 : Byte) else 0).toNat := by
    change (if (c.msb ^^ b) = true then _ else _) = _
    split
    · rfl
    · exact (Nat.xor_zero _).symm
  rw [crcBit, crcNext, hmsb, hxor, BitVec.toNat_xor, hshift]

theorem ofNat_crcBits (x n : Nat) (c : Byte) : BitVec.ofNat 8 (crcBits x n c.toNat) = (lowBits x n).foldl crcNext c := by
  induction n generalizing c with
  | zero => exact (BitVec.ofNat_toNat 8 c).trans (BitVec.setWidth_eq c)
  | succ n ih =>
    have hbit : (x / 2 ^ n % 2 == 1) = x.testBit n := Nat.testBit_eq_decide_div_mod_eq.symm
    rw [crcBits, hbit, crcBit_toNat, ih, lowBits_succ, List.foldl_cons]

/-- The step is linear over exclusive or. -/
theorem crcNext_xor (c d : Byte) (a b : Bool) : crcNext (c ^^^ d) (a ^^ b) = crcNext c a ^^^ crcNext d b := by
  have hpoly (p q : Bool) : (if p ^^ q then (7 : Byte) else 0) = (if p then 7 else 0) ^^^ (if q then 7 else 0) := by
    cases p <;> cases q <;> rfl
  have hcond : ((c ^^^ d).msb ^^ (a ^^ b)) = ((c.msb ^^ a) ^^ (d.msb ^^ b)) := by
    simp only [BitVec.msb_xor, Bool.xor_assoc, Bool.xor_left_comm]
  simp only [crcNext, hcond, hpoly, BitVec.shiftLeft_xor_distrib]
  ac_rfl

theorem foldl_crcNext_xor (x y n : Nat) (c d : Byte) :
    (lowBits (x ^^^ y) n).foldl crcNext (c ^^^ d) = (lowBits x n).foldl crcNext c ^^^ (lowBits y n).foldl crcNext d := by
  induction n generalizing c d with
  | zero => rfl
  | succ n ih => simp only [lowBits_succ, List.foldl_cons, Nat.testBit_xor, crcNext_xor, ih]

/-- R102: the message is the word's bits, then those of the offset's word number. -/
theorem checkCode_eq_foldl (w : Word) (off : Nat) :
    checkCode w off = (lowBits (off / 4 % 2 ^ 14) 14).foldl crcNext ((lowBits w.toNat 32).foldl crcNext 255) := by
  rw [← List.foldl_append, ← lowBits_append w.toNat 32 (Nat.mod_lt _ (by decide))]
  exact ofNat_crcBits _ 46 255

theorem rekey_eq_foldl (x : Nat) : rekey x = (lowBits x 14).foldl crcNext 0 := ofNat_crcBits x 14 0

/-- R107: what a code differs by from another stays as it is. -/
theorem rekeyCode_xor (c x : Byte) (old new : Nat) : rekeyCode (c ^^^ x) old new = rekeyCode c old new ^^^ x := by
  rw [rekeyCode, rekeyCode, BitVec.xor_assoc, BitVec.xor_comm x, ← BitVec.xor_assoc]

/-- R107: the fold over the bits of two offsets' difference turns the fold over the one's bits into that over the other's. -/
theorem foldl_crcNext_xor_rekey (x y n : Nat) (c : Byte) :
    (lowBits x n).foldl crcNext c ^^^ (lowBits (x ^^^ y) n).foldl crcNext 0 = (lowBits y n).foldl crcNext c := by
  rw [← foldl_crcNext_xor, ← Nat.xor_assoc, Nat.xor_self, Nat.zero_xor, show c ^^^ 0 = c from BitVec.xor_zero]

theorem rekeyCode_checkCode (w : Word) (old new : Nat) : rekeyCode (checkCode w old) old new = checkCode w new := by
  rw [rekeyCode, rekey_eq_foldl, checkCode_eq_foldl, checkCode_eq_foldl]
  exact foldl_crcNext_xor_rekey ..

end Sys2Proof.Machine

namespace Sys2Proof
open Machine

/-- Settles O60: the code is the fold over the message (checkCode_eq_foldl), and re-keying follows from the linearity of its step (rekeyCode_checkCode). -/
theorem checkCodes : Obligations.CheckCodes := by
  intro w off to_ _ _ _ _ message next
  have hcode : checkCode w off = message.foldl next 255 := by
    rw [checkCode_eq_foldl, ← List.foldl_append, lowBits_word, lowBits_offset]
    rfl
  have hpoison : rekeyCode (poisonCode w off) off to_ = poisonCode w to_ := by
    rw [poisonCode, rekeyCode_xor, rekeyCode_checkCode, poisonCode]
  exact ⟨hcode, rfl, fun c x => rekeyCode_xor c x off to_, rekeyCode_checkCode w off to_, hpoison⟩

end Sys2Proof

/-! Proof of O7. A mask instruction answers what maskOp, maskRead or mset's check answers on every state; its word decodes by fields, where the encoder's wordR put
them, and the check of its destination tells m0 from the other masks. -/
namespace Sys2Proof.Machine

/-- The state that maskOp answers with (R161). -/
theorem maskOp_next (i : Instr) (m : Nat) (f : Group → Mask) (s : State) :
    maskOp i m f s = .next (past i (s.updG (fun x => x.putMask m (f s.g)))).flush :=
  scalarOp_ok i _ (upd_ok _ s)

theorem maskRead_next (i : Instr) (d m : Nat) (f : Mask → Nat) (s : State) :
    maskRead i d m f s = .next (past i (setReg s d (BitVec.ofNat 64 (f (s.g.mask m))) false)).flush :=
  scalarOp_ok i _ (upd_ok _ s)

theorem execMset_clean (m : Nat) {a : Nat} {s : State} (h : sbad s a = false) :
    execMset m a s = .next (past (.mset m a) (s.updG (fun x => x.putMask m ((sreg s a).truncate 32)))).flush :=
  scalarOp_ok _ _ (bind_ok (useReg_ok h))

theorem execMset_poisoned (m : Nat) {a : Nat} {s : State} (h : sbad s a = true) :
    execMset m a s = .next (s.takeTrap s.cur (scalarTrap s.g.pc (encodeWord (.mset m a)) (wordBytes (.mset m a)) 3 0)).flush :=
  scalarOp_trap _ _ (bind_error (useReg_bad h))

/-- The lowest lane is the first that the mask holds. -/
theorem lowestLane_eq_find? (x : Mask) : lowestLane x = (List.range 32).find? (fun l => x.getLsbD l) := List.head?_filter

end Sys2Proof.Machine

namespace Sys2Proof.Dec

theorem leNat_leBytes (n w : Nat) : leNat (leBytes n w) = w % 256 ^ n := by
  induction n generalizing w with
  | zero => exact (Nat.mod_one w).symm
  | succ n ih =>
    rw [leBytes, leNat, ih, BitVec.toNat_ofNat, Nat.pow_succ' (m := 256), Nat.mod_mul (a := 256), Nat.mul_comm 256]

/-- A word of 32 bits reads as a scalar word with no extension word. -/
theorem decodeTableWord_scalar {w : Nat} (h : w < 2 ^ 32) : decodeTableWord 32 w = (decodeScalar w 0).toOption := by
  have hbytes : leNat (leBytes 12 w) = w := (leNat_leBytes 12 w).trans (Nat.mod_eq_of_lt (by omega))
  rw [decodeTableWord, Nat.mod_eq_of_lt h, hbytes, if_neg (by decide), Nat.mod_eq_of_lt h, Nat.div_eq_of_lt h, Nat.zero_mod]

theorem toOption_verdict {checks : List (Nat × Bool)} (i : Instr) (h : checks.all (fun c => c.2) = true) :
    (verdict checks i).toOption = some i := by
  rw [verdict, if_pos h]; rfl

theorem firstFail_of_all {checks : List (Nat × Bool)} (h : checks.all (fun c => c.2) = true) : firstFail checks = 11 := by
  induction checks with
  | nil => rfl
  | cons c r ih =>
    obtain ⟨hc, hr⟩ := Bool.and_eq_true_iff.mp (List.all_cons.symm.trans h)
    rw [firstFail, if_pos hc, ih hr]

/-- R161: a destination m0 is illegal with subcause 5 where no check of the other fields fails. -/
theorem verdict_maskDest_zero {checks : List (Nat × Bool)} (i : Instr) (h : checks.all (fun c => c.2) = true) :
    verdict (maskDest 0 ++ checks) i = .illegal 5 := by
  show Decoded.illegal (min 5 (firstFail checks)) = _
  rw [firstFail_of_all h]; rfl

theorem toOption_verdict_maskDest {m : Nat} {checks : List (Nat × Bool)} (i : Instr) (hm : m < 8) (h : checks.all (fun c => c.2) = true) :
    (verdict (maskDest m ++ checks) i).toOption = if m = 0 then none else some i := by
  by_cases h0 : m = 0
  · rw [if_pos h0, h0, verdict_maskDest_zero i h]; rfl
  · have hmod : m % 8 ≠ 0 := by omega
    rw [if_neg h0, toOption_verdict]
    simp [maskDest, idx, hm, hmod, h]

section
variable {d a b m : Nat} (hd : d < 64) (ha : a < 64) (hb : b < 64) (hm : m < 128)
include hd ha hb hm

/-- The fields of a register-form word, where wordR puts them (R51). -/
theorem bits_wordR {k : Nat} (hk : k < 128) :
    bits (wordR k d a b m) 25 7 = k ∧ bits (wordR k d a b m) 19 6 = d ∧ bits (wordR k d a b m) 13 6 = a ∧
    bits (wordR k d a b m) 7 6 = b ∧ bits (wordR k d a b m) 0 7 = m := by
  unfold bits wordR
  omega

/-- A word of major 2 is read by its fields (R67). -/
theorem decodeScalar_wordR_two (e : Nat) : decodeScalar (wordR 2 d a b m) e = sysReg d a b m := by
  obtain ⟨hmajor, hfd, hfa, hfb, hfm⟩ := bits_wordR hd ha hb hm (k := 2) (by decide)
  simp only [decodeScalar, hmajor, hfd, hfa, hfb, hfm]

theorem decodeTableWord_wordR_two : decodeTableWord 32 (wordR 2 d a b m) = (sysReg d a b m).toOption := by
  rw [decodeTableWord_scalar (by unfold wordR; omega), decodeScalar_wordR_two hd ha hb hm]

/-- A word whose fields are checked decodes where every check holds. -/
theorem decodeTableWord_of_checks {checks : List (Nat × Bool)} {i : Instr} (hreg : sysReg d a b m = verdict checks i)
    (h : checks.all (fun c => c.2) = true) : decodeTableWord 32 (wordR 2 d a b m) = some i := by
  rw [decodeTableWord_wordR_two hd ha hb hm, hreg, toOption_verdict i h]

end

/-- A word that writes a mask decodes where every other check holds, but for the destination m0 (R161). -/
theorem decodeTableWord_of_maskDest {d a b m : Nat} {checks : List (Nat × Bool)} {i : Instr} (hd : d < 8) (ha : a < 64) (hb : b < 64)
    (hm : m < 128) (hreg : sysReg d a b m = verdict (maskDest d ++ checks) i) (h : checks.all (fun c => c.2) = true) :
    decodeTableWord 32 (wordR 2 d a b m) = if d = 0 then none else some i := by
  rw [decodeTableWord_wordR_two (by omega) ha hb hm, hreg, toOption_verdict_maskDest i hd h]

end Sys2Proof.Dec

namespace Sys2Proof
open Machine Dec

/-- Settles O7: the effects are maskOp_next, maskRead_next and mset's two ends; the words are read by their fields (decodeTableWord_wordR_two). -/
theorem maskInstructions : Obligations.MaskInstructions := by
  intro s d m i j a put
  have hfirst : Completes (.mfirst d i) s
      (setReg s d (BitVec.ofNat 64 (((List.range 32).find? (fun l => (s.g.mask i).getLsbD l)).getD 32)) false) := by
    rw [← lowestLane_eq_find?]
    exact maskRead_next (.mfirst d i) d i (fun x => (lowestLane x).getD 32) s
  refine ⟨Group.mask_zero _, execMset_clean m, execMset_poisoned m, maskOp_next (.mand m i j) m (fun x => x.mask i &&& x.mask j) s,
    maskOp_next (.mor m i j) m (fun x => x.mask i ||| x.mask j) s, maskOp_next (.mxor m i j) m (fun x => x.mask i ^^^ x.mask j) s,
    maskOp_next (.mnot m i) m (fun x => ~~~(x.mask i)) s, maskRead_next (.mcnt d i) d i popcount s, hfirst, ?_⟩
  intro hm hi hj hd ha word writes
  have hi' : i < 64 := by omega
  have hj' : j < 64 := by omega
  have hzero : [zero 0].all (fun c => c.2) = true := rfl
  have hread : [idx i, zero 0].all (fun c => c.2) = true := by simp [idx, zero, hi]
  have htwo : [idx i, idx j].all (fun c => c.2) = true := by simp [idx, hi, hj]
  exact ⟨decodeTableWord_of_maskDest hm ha (by decide) (by decide) rfl hzero, decodeTableWord_of_maskDest hm hi' hj' (by decide) rfl htwo,
    decodeTableWord_of_maskDest hm hi' hj' (by decide) rfl htwo, decodeTableWord_of_maskDest hm hi' hj' (by decide) rfl htwo,
    decodeTableWord_of_maskDest hm hi' (by decide) (by decide) rfl hread, decodeTableWord_of_checks hd hi' (by decide) (by decide) rfl hread,
    decodeTableWord_of_checks hd hi' (by decide) (by decide) rfl hread,
    (decodeScalar_wordR_two (by decide) hi' hj' (by decide) 0).trans (verdict_maskDest_zero _ htwo)⟩

end Sys2Proof

/-! Proof of O19. An amo whose base is clean runs its steps one after another; on words of its width an operation is R382's table, and at 32 bits it sees no more than the
low words of its operands. -/
namespace Sys2Proof.Machine

/-- A step that updates the state only where a condition holds, and then goes on. -/
theorem bind_upd_if {α : Type} (b : Bool) (f : State → State) (m : Unit → M α) (s : State) :
    (if b = true then upd f >>= m else m ()) s = m () (if b = true then f s else s) := by
  cases b <;> rfl

theorem execAmo_poisoned (op : AOp) (wd : MWidth) (o : MOrder) (sc : MScope) (ms : Space) (d b c : Nat) (k : BitVec 20) {a : Nat} {s : State}
    (h : sbad s a = true) : Traps (.amo op wd o sc ms d a b c k) s 3 0 :=
  scalarOp_trap _ _ (bind_error (useReg_bad h))

/-- R383: the steps of an amo whose base is clean, whose place is reached and whose order waits for nothing. -/
theorem execAmo_clean {op : AOp} {wd : MWidth} {o : MOrder} {sc : MScope} {ms : Space} {d a b c : Nat} {k : BitVec 20} {l : Loc} {ty : Nat}
    {v : DWord} {p : Bool} {s s1 s2 s3 : State} (hbase : sbad s a = false)
    (hplace : Gives (place ms (sreg s a + k.signExtend 64) 2 (widthBytes wd) typesAtomic) s (l, ty) s1)
    (hbefore : Gives (atomicBefore o sc l) s1 () s2)
    (hatomic : Gives (atomicAt 1 (scWide sc) l op wd (sreg s1 b) (sreg s1 c) (sbad s1 b) (sbad s1 c)) s2 (v, p) s3) :
    Completes (.amo op wd o sc ms d a b c k) s (setReg (if ordRel o && !scWide sc then s3.noteRelease l else s3) d v p) := by
  refine scalarOp_ok _ _ ((bind_ok (useReg_ok hbase)).trans ((bind_ok hplace).trans ?_))
  refine (bind_ok (get_ok s1)).trans ((bind_ok hbefore).trans ((bind_ok hatomic).trans ?_))
  exact bind_upd_if _ _ (fun _ => putReg d v p) s3

/-! ## Op (R382) -/

/-- The model's test of the other operand picks the lesser. -/
theorem atomicVal_min {n : Nat} (v b c : BitVec n) : atomicVal .min v b c = if v.toInt ≤ b.toInt then v else b := by
  simp only [atomicVal, BitVec.slt, decide_eq_true_eq, ← Int.not_le, ite_not]

theorem atomicVal_max {n : Nat} (v b c : BitVec n) : atomicVal .max v b c = if v.toInt ≤ b.toInt then b else v := by
  by_cases h : v.toInt = b.toInt
  · simp only [BitVec.toInt_inj.mp h, atomicVal, ite_self]
  · simp only [atomicVal, BitVec.slt, decide_eq_true_eq, Int.lt_iff_le_and_ne, ne_eq, h, not_false_eq_true, and_true]

/-- At 32 bits an operation is that on the low words. -/
theorem truncate_atomicVal64_zeroExtend (op : AOp) (x y z : Word) :
    (atomicVal64 op .w (x.zeroExtend 64) (y.zeroExtend 64) (z.zeroExtend 64)).truncate 32 = atomicVal op x y z := by
  simp [atomicVal64]

theorem atomicVal64_word_lt (op : AOp) (v b c : DWord) : (atomicVal64 op .w v b c).toNat < 2 ^ 32 := by
  show (BitVec.zeroExtend 64 (_ : Word)).toNat < _
  rw [BitVec.toNat_setWidth]
  omega

theorem truncate_and_low (v : DWord) : (v &&& 0xFFFFFFFF).truncate 32 = (v.truncate 32 : Word) := by
  rw [BitVec.truncate, BitVec.setWidth_and]
  exact BitVec.and_allOnes

theorem atomicVal64_word_low (op : AOp) (v b c : DWord) :
    atomicVal64 op .w v b c = atomicVal64 op .w (v &&& 0xFFFFFFFF) (b &&& 0xFFFFFFFF) (c &&& 0xFFFFFFFF) := by
  simp only [atomicVal64, truncate_and_low]

end Sys2Proof.Machine

namespace Sys2Proof.Dec

/-- A word of 64 bits reads as a scalar word, its low half, and an extension word (R50). -/
theorem decodeTableWord_wide {w : Nat} (h : w < 2 ^ 64) : decodeTableWord 64 w = (decodeScalar (w % 2 ^ 32) (w / 2 ^ 32)).toOption := by
  have hbytes : leNat (leBytes 12 w) = w := (leNat_leBytes 12 w).trans (Nat.mod_eq_of_lt (by omega))
  rw [decodeTableWord, Nat.mod_eq_of_lt h, hbytes, if_neg (by decide), Nat.mod_eq_of_lt (Nat.div_lt_of_lt_mul (by omega))]

/-- The word amo.add.w.acq.dev s3, s5, 0(s6) with another operation's code in its three low bits is that operation (R62, R382). -/
theorem decodeTableWord_amo_code (op : AOp) :
    decodeTableWord 64 (0x140000004018CD10 + aopCode op) = some (.amo op .w .acq .dev .gl 3 6 5 0 0) := by
  rw [decodeTableWord_wide (by have := Laws.Size.aopCode_lt op; omega)]
  cases op <;> rfl

end Sys2Proof.Dec

namespace Sys2Proof
open Machine Dec

/-- Settles O19: the ends of amo are execAmo_poisoned and execAmo_clean; each operation is a case of atomicVal, on the low words at 32 bits. -/
theorem scalarAtomics : Obligations.ScalarAtomics := by
  refine ⟨fun s s1 s2 s3 op wd o sc ms d a b c k l ty v p => ⟨execAmo_poisoned op wd o sc ms d b c k, execAmo_clean⟩, ?_⟩
  intro v b c x y z op64 op32
  have h32 (op : AOp) : op32 op = atomicVal op x y z := truncate_atomicVal64_zeroExtend op x y z
  refine ⟨rfl, atomicVal_min v b c, atomicVal_max v b c, rfl, rfl, rfl, rfl, rfl, h32 .add, (h32 .min).trans (atomicVal_min x y z),
    (h32 .max).trans (atomicVal_max x y z), h32 .and, h32 .or, h32 .xor, h32 .exch, h32 .cas,
    fun op => ⟨atomicVal64_word_lt op v b c, atomicVal64_word_low op v b c⟩, fun e he => ?_⟩
  have hcode : e.1 = aopCode e.2 := by revert e; decide
  rw [hcode, decodeTableWord_amo_code]

end Sys2Proof
